-- ==== Sys2Proof/Word.lean ====
section
/-! DEFINITION. The words of the bridge: bytes, 48-bit values, the eight lanes, and saturating counts. -/

namespace Sys2Proof

/-- One byte of a payload, a structure in host memory, or flash. -/
abbrev Byte := BitVec 8

/-- A fabric tag, 0 to 255 (R1). -/
abbrev Tag := BitVec 8

/-- A lane number, 0 to 7. -/
abbrev Lane := Fin 8

/-- 2^48: the first value above every fabric address, strobe number and web row. -/
def top48 : Nat := 2 ^ 48

/-- One value for each of the eight lanes. -/
structure Lanes (α : Type) where
  l0 : α
  l1 : α
  l2 : α
  l3 : α
  l4 : α
  l5 : α
  l6 : α
  l7 : α
deriving DecidableEq, Repr

/-- The value of one lane. -/
def Lanes.get {α : Type} (v : Lanes α) (i : Lane) : α :=
  match i with
  | 0 => v.l0
  | 1 => v.l1
  | 2 => v.l2
  | 3 => v.l3
  | 4 => v.l4
  | 5 => v.l5
  | 6 => v.l6
  | 7 => v.l7

/-- The value of one lane replaced. -/
def Lanes.set {α : Type} (v : Lanes α) (i : Lane) (a : α) : Lanes α :=
  match i with
  | 0 => { v with l0 := a }
  | 1 => { v with l1 := a }
  | 2 => { v with l2 := a }
  | 3 => { v with l3 := a }
  | 4 => { v with l4 := a }
  | 5 => { v with l5 := a }
  | 6 => { v with l6 := a }
  | 7 => { v with l7 := a }

/-- The value each lane gets from its number. -/
def Lanes.ofFn {α : Type} (f : Lane → α) : Lanes α :=
  ⟨f 0, f 1, f 2, f 3, f 4, f 5, f 6, f 7⟩

/-- The same value in every lane. -/
def Lanes.every {α : Type} (a : α) : Lanes α := ⟨a, a, a, a, a, a, a, a⟩

/-- A function applied to every lane's value. -/
def Lanes.map {α β : Type} (f : α → β) (v : Lanes α) : Lanes β :=
  ⟨f v.l0, f v.l1, f v.l2, f v.l3, f v.l4, f v.l5, f v.l6, f v.l7⟩

/-- The eight values in lane order. -/
def Lanes.toList {α : Type} (v : Lanes α) : List α :=
  [v.l0, v.l1, v.l2, v.l3, v.l4, v.l5, v.l6, v.l7]

/-- The lane numbers in order. -/
def allLanes : List Lane := [0, 1, 2, 3, 4, 5, 6, 7]

/-- A count that stays at its greatest value when counted again. -/
def satInc {w : Nat} (x : BitVec w) : BitVec w :=
  if x = BitVec.allOnes w then x else x + 1

/-- A count increased by n, staying at its greatest value. -/
def satAdd {w : Nat} (x : BitVec w) (n : Nat) : BitVec w :=
  if 2 ^ w ≤ x.toNat + n then BitVec.allOnes w else x + BitVec.ofNat w n

end Sys2Proof
end

