-- ==== Sys2Proof/Syntax.lean ====
section
/-! DEFINITION. The steps of the bridge: one constructor for each row of spec/opcode_table.json. -/

namespace Sys2Proof

/-- The two encoder phases at one observation, A first (R18). -/
structure PhasePair where
  a : Bool
  b : Bool
deriving DecidableEq, Repr

/-- A transaction the grabber issues at the inlet (R1). Addresses are integers and do not wrap. -/
inductive InletTxn where
  | write (addr : Nat) (payload : List Byte)
  | read (addr : Nat) (len : Nat) (tag : Tag)
deriving DecidableEq, Repr

/-- A READ COMPLETION: its tag, its data, and whether its status is OK (R1). -/
structure Completion where
  tag  : Tag
  data : List Byte
  ok   : Bool
deriving DecidableEq, Repr

/-- The steps of the bridge. The thirteen mailbox rows carry no operand: the sequence, code and
parameters of the command are those the command-area read brought (R155). -/
inductive Instr where
  /-- INLET_TRANSACTION_TAKEN (R2): the fabric offers the grabber's next transaction at the port. -/
  | inletTransactionTaken (t : InletTxn)
  /-- OUTLET_PLACE_GRANT (R12). -/
  | outletPlaceGrant
  /-- OUTLET_TRANSACTION_LEAVES (R11): the host bridge accepts the head of the queue. -/
  | outletTransactionLeaves
  /-- RESET_DRAIN_END (R17). -/
  | resetDrainEnd
  /-- READ_COMPLETION (R9): a completion arrives at the outlet port. -/
  | readCompletion (c : Completion)
  /-- TAG_ASSIGNED (R10). -/
  | tagAssigned
  /-- ENCODER_TRANSITION (R18): the pair observed, and the 10 ns reference periods that have passed
  since the time the machine's clock holds. -/
  | encoderTransition (pair : PhasePair) (elapsed : Nat)
  /-- STROBE_PULSE_END (R29). -/
  | strobePulseEnd
  /-- MARK_EDGE (R34): an observation of the mark input at this raw level (true is high). -/
  | markEdge (level : Bool)
  /-- OPENING_OPERATION_BEGIN (R87). -/
  | openingOperationBegin
  /-- POLL_TIMER_EXPIRY (R155). -/
  | pollTimerExpiry
  /-- ARM (R142). -/
  | arm
  /-- DISARM (R147). -/
  | disarm
  /-- ABORT (R149). -/
  | abort
  /-- HOLD (R145). -/
  | hold
  /-- RESUME (R146). -/
  | resume
  /-- LOAD_MAP (R130). -/
  | loadMap
  /-- STATUS (R159). -/
  | status
  /-- ACK (R160). -/
  | ack
  /-- SET_MASK (R161). -/
  | setMask
  /-- READ_PROFILE (R166). -/
  | readProfile
  /-- SAVE_PROFILE (R167). -/
  | saveProfile
  /-- PROFILE_PROGRAMMING_DONE (R167). -/
  | profileProgrammingDone
  /-- RESET (R168). -/
  | reset
  /-- UNSUPPORTED_COMMAND (R158). -/
  | unsupportedCommand
  /-- JOB_LINE_EDGE (R151): an observation of the job line at this raw level (true is high). -/
  | jobLineEdge (level : Bool)
  /-- POWER_UP (R154). -/
  | powerUp
  /-- RESET_LINE_ASSERT (R154). -/
  | resetLineAssert
  /-- RESET_LINE_RELEASE (R154). -/
  | resetLineRelease
deriving DecidableEq, Repr

end Sys2Proof
end

