-- ==== Sys2Proof/Config.lean ====
section
/-! DEFINITION. The sizes the manual fixes, and the one free value it leaves open. -/

namespace Sys2Proof.Config

/-- Places in the Outlet Queue (R11). -/
def outletPlaces : Nat := 64

/-- FILL jobs that may stand on the internal write list (R105). -/
def fillLimit : Nat := 240

/-- Entries of the Repeat Table (R82). -/
def tableEntries : Nat := 4

/-- Flywheel decisions in a row before the lost decision (R43, R44). -/
def coastLimit : Nat := 8

/-- The record allowance below which a return-count read is made (R106). -/
def recordAllowance : Nat := 4

/-- Consecutive stamp mismatches that put a lane out of step (R65). -/
def mismatchLimit : Nat := 3

/-- The length of the strobe pulse in reference periods: 1 µs at 100 MHz (R29). -/
def pulsePeriods : Nat := 100

/-- Reference periods in one unit of the poll period (R155). -/
def pollUnit : Nat := 1000

/-- The most payload bytes of one outlet write (R1, R108). -/
def payloadLimit : Nat := 512

/-- The first of the sixteen tags the bridge keeps for its own reads (R1). -/
def firstReservedTag : Nat := 240

/-- The tags the bridge keeps for its own reads, lowest first (R10). -/
def reservedTags : List Tag :=
  [240, 241, 242, 243, 244, 245, 246, 247, 248, 249, 250, 251, 252, 253, 254, 255]

/-- The free value: what the bridge does at the n-th point where the manual lets several things
happen at one event "in either order", and what an interrupted flash programming leaves.
Nothing in the model can tell its value (log entry 1). -/
opaque openChoice : Nat → Nat

end Sys2Proof.Config
end

