-- ==== Sys2Proof/Machine/State.lean ====
section
/-! DEFINITION. The state of the bridge, block by block, as plain data, and the state after a power-up. -/

namespace Sys2Proof.Machine

/-- The reasons the bridge stops with a fault. There is none: no rule of the manual stops the bridge,
and every step of every state has a next state (log entry 5; safe, nothing is shut out). -/
inductive Fault where
deriving DecidableEq, Repr

/-- The reasons a step is refused. -/
inductive Refusal where
  /-- Raised by an arm of `exec` whose step has no meaning yet. No arm raises it now. Safe: the machine
  stops where the hardware would go on. -/
  | notModelled (mnemonic : String)
deriving DecidableEq, Repr

/-! ### The fabric and the inline path (chapter 1) -/

/-- A transaction of the Outlet Queue (R11). -/
inductive OutTxn where
  | write (addr : Nat) (payload : List Byte)
  | read (addr : Nat) (len : Nat) (tag : Tag)
deriving DecidableEq, Repr

/-- A remaining piece of the transaction in decode: part of a write outside the aperture (R4), an
aperture piece of one slot (R5), or a READ to be forwarded (R7). -/
inductive Piece where
  | outside (addr : Nat) (payload : List Byte)
  | aperture (lane : Lane) (slot : Nat) (offset : Nat) (payload : List Byte)
  | read (addr : Nat) (len : Nat) (tag : Tag)
deriving DecidableEq, Repr

/-- The units that read host memory through the outlet (section 1.5). -/
inductive ReadUnit where
  | ring
  | mailbox
  | maps
  | profile
deriving DecidableEq, Repr

/-- How far a bridge read has come (R10): waiting for a tag, holding a tag and waiting for an outlet
place, in the Outlet Queue, or left through the outlet port. -/
inductive ReadStage where
  | untagged
  | waiting (tag : Tag)
  | queued (tag : Tag)
  | left (tag : Tag)
deriving DecidableEq, Repr

/-- A bridge read requested and not completed (R10). -/
structure BridgeRead where
  unit  : ReadUnit
  addr  : Nat
  len   : Nat
  stage : ReadStage
deriving DecidableEq, Repr

/-! ### Encoder and strobes (chapter 2) -/

/-- The Encoder Counter. -/
structure Encoder where
  lastPair    : Option PhasePair
  position    : BitVec 48
  highWater   : BitVec 48
  reverseFlag : Bool
deriving DecidableEq, Repr

/-- The Strobe Generator. Times are in 10 ns periods of the reference. -/
structure Strobe where
  phase      : Nat
  nextStrobe : BitVec 48
  issueIndex : BitVec 48
  lastIssue  : Option Nat
  lineUntil  : Option Nat
deriving DecidableEq, Repr

/-! ### Mark tracking (chapter 3) -/

/-- The tracker states (R38). -/
inductive TrackerState where
  | idle
  | search
  | locked
  | coasting
deriving DecidableEq, Repr

/-- How a boundary was decided (R47). -/
inductive Kind where
  | mark
  | flywheel
  | fixed
deriving DecidableEq, Repr

/-- A pending qualification: its edge strobe number and its confirm point (R35). -/
structure Qualification where
  edge    : Nat
  confirm : Nat
deriving DecidableEq, Repr

/-- The Mark Tracker. -/
structure Tracker where
  state         : TrackerState
  markLevel     : Option Bool
  qualification : Option Qualification
  expected      : Option Nat
  halfWidth     : Option Nat
  decisionPoint : Option Nat
  coast         : Nat
  searchStart   : Option Nat
  searchFault   : Bool
deriving DecidableEq, Repr

/-! ### The Line Ring (chapter 4) -/

/-- The binding state of a slot record. -/
inductive BindState where
  | unbound
  | opened
  | retired
deriving DecidableEq, Repr

/-- The stamp state of a slot record. -/
inductive StampState where
  | unchecked
  | matched
  | mismatched
  | skipped
deriving DecidableEq, Repr

/-- The step state of a lane. -/
inductive StepState where
  | off
  | inStep
  | outOfStep
deriving DecidableEq, Repr

/-- A repeat reference that is present: an entry, named by its key, or ABSORB. -/
inductive RowRef where
  | entry (key : Nat)
  | absorb
deriving DecidableEq, Repr

/-- A slot record. -/
structure SlotRecord where
  state    : BindState
  fillMark : Nat
  row      : Option Nat
  ref      : Option RowRef
  stamp    : StampState
  fillMade : Bool
deriving DecidableEq, Repr

/-- The Line Ring: the binding ring and each lane's slot records as lists rising in the slot number (an
unlisted binding is absent, an unlisted record UNBOUND), and each lane's step state and
consecutive-mismatch count. -/
structure LineRing where
  bindings   : List (Nat × BitVec 48)
  slots      : Lanes (List (Nat × SlotRecord))
  step       : Lanes StepState
  mismatches : Lanes Nat
deriving DecidableEq, Repr

/-! ### Maps (chapter 9) -/

/-- One lane of a placement set (R81): the fill value is its P bytes, least significant first. -/
structure LanePlacement where
  colStart   : Nat
  trimL      : Nat
  trimR      : Nat
  fill       : List Byte
  stampCheck : Bool
deriving DecidableEq, Repr

/-- An enabled lane's fields of a map: its placement and its downweb lag D_L (R128). -/
structure LaneMap where
  place : LanePlacement
  lag   : Nat
deriving DecidableEq, Repr

/-- The mark mode of a map. -/
inductive MarkMode where
  | track
  | fixed
deriving DecidableEq, Repr

/-- An accepted steering map (R128) with its image width. A lane not enabled holds nothing. -/
structure SteeringMap where
  generation   : BitVec 32
  base         : Nat
  P            : Nat
  Lp           : Nat
  S            : Nat
  lanes        : Lanes (Option LaneMap)
  Q            : Nat
  minSpacing   : Nat
  invert       : Bool
  reverseLimit : Nat
  activeLow    : Bool
  mode         : MarkMode
  M            : Nat
  N            : Nat
  W            : Nat
  h            : Nat
  ringBase     : Nat
  B            : Nat
  Iw           : Nat
deriving DecidableEq, Repr

/-- The Map Store's maps. Its load in progress is the mailbox's command in progress. -/
structure MapStore where
  live   : Option SteeringMap
  staged : Option SteeringMap
deriving DecidableEq, Repr

/-! ### The Repeat Table (chapter 6) -/

/-- The states of a repeat entry. -/
inductive EntryState where
  | opening
  | opened
  | dropped
deriving DecidableEq, Repr

/-- The end kind of an entry that has one. -/
inductive EndKind where
  | decided (k : Kind)
  | cancelled
deriving DecidableEq, Repr

/-- The per-lane counts of an entry (R90). -/
structure LaneCounts where
  retired    : BitVec 32
  filled     : BitVec 32
  gap        : BitVec 32
  discarded  : BitVec 32
  shortLines : BitVec 16
  mismatches : BitVec 16
deriving DecidableEq, Repr

/-- Buffer base, stride and capacity (R113). -/
structure Buffer where
  base     : Nat
  stride   : Nat
  capacity : Nat
deriving DecidableEq, Repr

/-- A repeat entry (R81). `key` is the model's own: it names the entry wherever another block refers to
it, and no later entry has the same (log entry 8). -/
structure Entry where
  key        : Nat
  seq        : BitVec 32
  state      : EntryState
  firstRow   : Nat
  endRow     : Option Nat
  startKind  : Kind
  endKind    : Option EndKind
  descIndex  : Option Nat
  buffer     : Option Buffer
  generation : BitVec 32
  placement  : Lanes (Option LanePlacement)
  counts     : Lanes LaneCounts
  overspeed  : BitVec 32
  fillLost   : Bool
deriving DecidableEq, Repr

/-- The Repeat Table: entries oldest first. `nextKey` is the key the next entry takes. -/
structure RepeatTable where
  nextKey       : Nat
  entries       : List Entry
  nextSeq       : BitVec 32
  droppedBefore : BitVec 16
deriving DecidableEq, Repr

/-! ### The Fill Engine (chapter 7) -/

/-- What a FILL job refers to: an entry of the table by its key, or the buffer bound at a close. -/
inductive FillTarget where
  | entry (key : Nat)
  | bound (buffer : Buffer)
deriving DecidableEq, Repr

/-- A FILL job: row offset q, byte offset in the row c, length, and the fill value's P bytes (R104). -/
structure FillJob where
  target : FillTarget
  row    : Nat
  column : Nat
  len    : Nat
  value  : List Byte
deriving DecidableEq, Repr

/-- The status of a record (R95). -/
inductive RecordStatus where
  | clean
  | cancelled
  | descriptorFault
deriving DecidableEq, Repr

/-- The whole content of a completion record, fixed when its job is queued (R95), with the descriptor
index and the address of the record area (R104). -/
structure RecordJob where
  seq           : BitVec 32
  generation    : BitVec 32
  firstRow      : Nat
  rowCount      : Nat
  capacity      : Nat
  startKind     : Kind
  endKind       : Option EndKind
  counts        : Lanes LaneCounts
  overspeed     : BitVec 32
  fillLost      : Bool
  status        : RecordStatus
  droppedBefore : BitVec 16
  descIndex     : Nat
  area          : Nat
deriving DecidableEq, Repr

/-- The result codes of R169. -/
inductive ResultCode where
  | ok
  | staged
  | live
  | already
  | aborted
  | ready
  | busy
  | noMap
  | refusedFrozen
  | invalidMap
  | readFault
  | locked
  | invalidParam
  | unsupported
  | deviceFault
deriving DecidableEq, Repr

/-- The whole content of a mailbox response (R104). -/
structure Response where
  seq    : BitVec 32
  code   : Byte
  result : ResultCode
  data   : List Byte
deriving DecidableEq, Repr

/-- A job of the internal write list. -/
inductive Job where
  | fill (f : FillJob)
  | record (r : RecordJob)
  | response (r : Response)
deriving DecidableEq, Repr

/-- The internal write list, head first, and the writes the head job has issued. -/
structure WriteList where
  jobs     : List Job
  progress : Nat
deriving DecidableEq, Repr

/-! ### The Ring Unit (chapter 8) -/

/-- What an opening operation that has begun waits on: the record allowance (R106), the return-count
read (R116) or the descriptor read (R119). -/
inductive OpeningPhase where
  | allowance
  | returnCount
  | descriptor
deriving DecidableEq, Repr

/-- The opening operation in progress: the entry's key and what it waits on. -/
structure Opening where
  key   : Nat
  phase : OpeningPhase
deriving DecidableEq, Repr

/-- The Ring Unit. -/
structure RingUnit where
  taken    : BitVec 32
  returned : BitVec 32
  index    : Nat
  opening  : Option Opening
deriving DecidableEq, Repr

/-! ### Acquisition (chapter 10) -/

/-- The acquisition states (R140). -/
inductive AcqState where
  | disarmed
  | running
  | held
  | draining
deriving DecidableEq, Repr

/-- The pending request (R140). -/
inductive Request where
  | none
  | hold
  | resume
deriving DecidableEq, Repr

/-- The Acquisition Controller. -/
structure Acquisition where
  state       : AcqState
  request     : Request
  jobLevel    : Option Bool
  fallingSeen : Bool
deriving DecidableEq, Repr

/-! ### Mailbox, attention and profile (chapter 11) -/

/-- The poll in progress. -/
inductive PollState where
  | none
  | sequence
  | command
deriving DecidableEq, Repr

/-- A command taken from the command area: sequence, code and the 56 parameter bytes (R155). -/
structure TakenCommand where
  seq    : BitVec 32
  code   : Byte
  params : List Byte
deriving DecidableEq, Repr

/-- The command in progress: LOAD_MAP with its record address, SAVE_PROFILE reading its image or
programming it, or RESET draining the outlet. -/
inductive Progress where
  | loadMap (seq : BitVec 32) (addr : Nat)
  | saveReading (seq : BitVec 32) (addr : Nat)
  | saveProgramming (seq : BitVec 32) (image : List Byte)
  | reset
deriving DecidableEq, Repr

/-- The reset causes (R154). -/
inductive ResetCause where
  | power
  | resetLine
  | jobLine
  | command
deriving DecidableEq, Repr

/-- The Mailbox Unit. `taken` is the command taken at the command-area read and not yet carried out
(log entry 3). `nextPoll` is the time at which the poll timer next expires. Polling is suspended while
a RESPONSE job stands on the list or a command is in progress (R156), so it needs no field. -/
structure Mailbox where
  lastSeen   : Option (BitVec 32)
  poll       : PollState
  taken      : Option TakenCommand
  inProgress : Option Progress
  nextPoll   : Nat
  resetCause : ResetCause
deriving DecidableEq, Repr

/-- The Attention Unit: the pending set and the enable mask, bit n for cause n (R162). -/
structure Attention where
  causes : BitVec 13
  mask   : BitVec 13
deriving DecidableEq, Repr

/-- The job line functions (R151). -/
inductive JobFunction where
  | none
  | hold
  | run
  | stop
  | reset
deriving DecidableEq, Repr

/-- The fields of a profile (R164). -/
structure Profile where
  controlBlock : Nat
  pollPeriod   : Nat
  jobFunction  : JobFunction
  activeHigh   : Bool
  defaultMask  : BitVec 13
  lockFixed    : Bool
deriving DecidableEq, Repr

/-- The profile load statuses (R164). -/
inductive LoadStatus where
  | loaded
  | erased
  | corrupt
deriving DecidableEq, Repr

/-- The Profile Store: the 66 flash bytes of the profile area, the factory record's revision code and
its CRC, the profile in force, the load status, the lock in force (true is FIXED) and FAULTED. -/
structure ProfileStore where
  flash       : List Byte
  revision    : List Byte
  revisionCrc : BitVec 16
  inForce     : Profile
  loadStatus  : LoadStatus
  lockFixed   : Bool
  faulted     : Bool
deriving DecidableEq, Repr

/-- The eleven event counters, in the order of R159. -/
structure Counters where
  strayWrites    : BitVec 32
  strayReads     : BitVec 32
  absorbedWrites : BitVec 32
  skippedStrobes : BitVec 32
  rejectedMarks  : BitVec 32
  strayMarks     : BitVec 32
  encoderFaults  : BitVec 32
  droppedRepeats : BitVec 32
  fillsLost      : BitVec 32
  busFaults      : BitVec 32
  refusedLine    : BitVec 32
deriving DecidableEq, Repr

/-- The state of the bridge. The model's own fields are `clock` (the time of the last timed event, in
reference periods, log entry 9), `inletHeld` (the transactions the fabric holds at the stalled port, R13, log
entry 10), `returned` and `sent` (what has gone out at the inlet and at the outlet, log entry 17), `choices` and
`choiceCount` (the free value, log entry 1), and `pending` (the commands that wait, first in first out). -/
structure State where
  clock       : Nat
  inletHeld   : List InletTxn
  decode      : List Piece
  outlet      : List OutTxn
  reads       : List BridgeRead
  heldTags    : List Tag
  returned    : List Completion
  sent        : List OutTxn
  encoder     : Encoder
  strobe      : Strobe
  tracker     : Tracker
  ring        : LineRing
  maps        : MapStore
  table       : RepeatTable
  list        : WriteList
  ringUnit    : RingUnit
  acq         : Acquisition
  mailbox     : Mailbox
  attention   : Attention
  profile     : ProfileStore
  counters    : Counters
  resetLine   : Bool
  choices     : List Nat
  choiceCount : Nat
  pending     : List Instr
deriving DecidableEq, Repr

/-- The factory profile (R164): attention polarity ACTIVE_LOW, lock OPEN, and the mask of REPEAT_DONE
and PROFILE_FAULT. -/
def factoryProfile : Profile :=
  { controlBlock := 0x100000
    pollPeriod := 10
    jobFunction := .none
    activeHigh := false
    defaultMask := 0x0401
    lockFixed := false }

/-- The eleven counters at 0. -/
def Counters.zero : Counters := ⟨0, 0, 0, 0, 0, 0, 0, 0, 0, 0, 0⟩

/-- The Encoder Counter after a reset (R32). -/
def Encoder.initial : Encoder :=
  { lastPair := none, position := 0, highWater := 0, reverseFlag := false }

/-- The Strobe Generator after a reset (R32). -/
def Strobe.initial : Strobe :=
  { phase := 0, nextStrobe := 0, issueIndex := 0, lastIssue := none, lineUntil := none }

/-- The Mark Tracker after a reset (R51). -/
def Tracker.initial : Tracker :=
  { state := .idle
    markLevel := none
    qualification := none
    expected := none
    halfWidth := none
    decisionPoint := none
    coast := 0
    searchStart := none
    searchFault := false }

/-- The Line Ring after a reset (R66, R67). -/
def LineRing.initial : LineRing :=
  { bindings := []
    slots := Lanes.every []
    step := Lanes.every .off
    mismatches := Lanes.every 0 }

/-- The machine right after a power-up whose flash is erased and whose factory record is good: the values
of R16, R32, R51, R66, R67, R102, R111, R114, R127, R140, R156, R162, R164 and R165. The flash contents are the
model's choice (log entry 6). -/
def State.reset : State :=
  { clock := 0
    inletHeld := []
    decode := []
    outlet := []
    reads := []
    heldTags := []
    returned := []
    sent := []
    encoder := Encoder.initial
    strobe := Strobe.initial
    tracker := Tracker.initial
    ring := LineRing.initial
    maps := { live := none, staged := none }
    table := { nextKey := 0, entries := [], nextSeq := 0, droppedBefore := 0 }
    list := { jobs := [], progress := 0 }
    ringUnit := { taken := 0, returned := 0, index := 0, opening := none }
    acq := { state := .disarmed, request := .none, jobLevel := none, fallingSeen := false }
    mailbox :=
      { lastSeen := none
        poll := .none
        taken := none
        inProgress := none
        nextPoll := 10000
        resetCause := .power }
    attention := { causes := 0, mask := 0x0401 }
    profile :=
      { flash := List.replicate 66 0xFF
        revision := [0x00]
        revisionCrc := 0xE1F0
        inForce := factoryProfile
        loadStatus := .erased
        lockFixed := false
        faulted := false }
    counters := Counters.zero
    resetLine := false
    choices := []
    choiceCount := 0
    pending := [] }

end Sys2Proof.Machine
end

