-- ==== Sys2Proof/Machine/Flags.lean ====
section
/-! DEFINITION. The flags of the bridge: attention causes and their line, the event counters, and the
status flags of a completion record. -/

namespace Sys2Proof.Machine

/-- The thirteen attention causes (R162). -/
inductive Cause where
  | repeatDone
  | repeatDropped
  | laneFault
  | markFault
  | overspeed
  | webReverse
  | encoderFault
  | ringFault
  | busFault
  | fillLost
  | profileFault
  | commandDone
  | runEnded
deriving DecidableEq, Repr

/-- The number of a cause, which is its bit in every set (R162). -/
def causeBit : Cause → Nat
  | .repeatDone => 0
  | .repeatDropped => 1
  | .laneFault => 2
  | .markFault => 3
  | .overspeed => 4
  | .webReverse => 5
  | .encoderFault => 6
  | .ringFault => 7
  | .busFault => 8
  | .fillLost => 9
  | .profileFault => 10
  | .commandDone => 11
  | .runEnded => 12

/-- The set that holds one cause. -/
def causeSet (c : Cause) : BitVec 13 := BitVec.twoPow 13 (causeBit c)

/-- A cause is added to the pending set; one already pending stays pending (R162). -/
def raise (c : Cause) (s : State) : State :=
  { s with attention := { s.attention with causes := s.attention.causes ||| causeSet c } }

/-- The attention line is asserted exactly when the pending set and the mask share a cause (R163). -/
def attentionAsserted (s : State) : Bool :=
  decide (s.attention.causes &&& s.attention.mask ≠ 0)

/-- The level of the attention line, true for high: by the polarity of the profile in force (R163), and
high while the reset line is asserted (R154). -/
def attentionLineHigh (s : State) : Bool :=
  s.resetLine || (attentionAsserted s == s.profile.inForce.activeHigh)

/-- The strobe line is active during a pulse (R29). -/
def strobeLineActive (s : State) : Bool :=
  s.strobe.lineUntil.isSome

/-- The eleven event counters (R159). -/
inductive Counter where
  | strayWrites
  | strayReads
  | absorbedWrites
  | skippedStrobes
  | rejectedMarks
  | strayMarks
  | encoderFaults
  | droppedRepeats
  | fillsLost
  | busFaults
  | refusedLine
deriving DecidableEq, Repr

/-- One counter of the eleven increased by one, saturating at 2^32 − 1. -/
def bumpCounters (k : Counter) (c : Counters) : Counters :=
  match k with
  | .strayWrites => { c with strayWrites := satInc c.strayWrites }
  | .strayReads => { c with strayReads := satInc c.strayReads }
  | .absorbedWrites => { c with absorbedWrites := satInc c.absorbedWrites }
  | .skippedStrobes => { c with skippedStrobes := satInc c.skippedStrobes }
  | .rejectedMarks => { c with rejectedMarks := satInc c.rejectedMarks }
  | .strayMarks => { c with strayMarks := satInc c.strayMarks }
  | .encoderFaults => { c with encoderFaults := satInc c.encoderFaults }
  | .droppedRepeats => { c with droppedRepeats := satInc c.droppedRepeats }
  | .fillsLost => { c with fillsLost := satInc c.fillsLost }
  | .busFaults => { c with busFaults := satInc c.busFaults }
  | .refusedLine => { c with refusedLine := satInc c.refusedLine }

/-- An event counted in one of the eleven counters. -/
def bump (k : Counter) (s : State) : State :=
  { s with counters := bumpCounters k s.counters }

/-- The eleven counters in the order of R159. -/
def counterList (c : Counters) : List (BitVec 32) :=
  [c.strayWrites, c.strayReads, c.absorbedWrites, c.skippedStrobes, c.rejectedMarks, c.strayMarks,
    c.encoderFaults, c.droppedRepeats, c.fillsLost, c.busFaults, c.refusedLine]

/-! ### The status flags of a completion record (R123) -/

/-- A lane's counts show fill or loss. -/
def laneDegraded (c : LaneCounts) : Bool :=
  decide (c.filled ≠ 0) || decide (c.gap ≠ 0) || decide (c.discarded ≠ 0) ||
    decide (c.shortLines ≠ 0) || decide (c.mismatches ≠ 0)

/-- DEGRADED (R123). -/
def recordDegraded (r : RecordJob) : Bool :=
  r.counts.toList.any laneDegraded || decide (r.overspeed ≠ 0)

/-- TRUNCATED (R123). -/
def recordTruncated (r : RecordJob) : Bool :=
  decide (1 ≤ r.capacity) && decide (r.capacity < r.rowCount)

/-- Rows written: min(row count, capacity) (R121). -/
def rowsWritten (r : RecordJob) : Nat := min r.rowCount r.capacity

/-- The status flags byte: bit 0 DEGRADED, 1 TRUNCATED, 2 FILL_LOST, 3 CANCELLED, 4 DESCRIPTOR_FAULT
(R123, R171). -/
def recordFlags (r : RecordJob) : Nat :=
  (if recordDegraded r then 1 else 0) + (if recordTruncated r then 2 else 0) +
    (if r.fillLost then 4 else 0) + (if r.status = .cancelled then 8 else 0) +
    (if r.status = .descriptorFault then 16 else 0)

end Sys2Proof.Machine
end

