-- ==== Sys2Proof/Machine/Operands.lean ====
section
/-! DEFINITION. The byte layouts of chapter 12: how the bridge reads commands, maps, descriptors and
profiles, and how it forms records, snapshots and responses. -/

namespace Sys2Proof.Machine

/-! ### Little-endian fields -/

/-- A value as n bytes, least significant first (chapter 12; the value modulo 256^n). -/
def leBytes (n v : Nat) : List Byte :=
  (List.range n).map fun i => BitVec.ofNat 8 (v >>> (8 * i))

/-- The value of bytes, least significant first. -/
def leNat : List Byte → Nat
  | [] => 0
  | b :: bs => b.toNat + 256 * leNat bs

/-- The field of n bytes at an offset. -/
def field (bytes : List Byte) (offset n : Nat) : Nat :=
  leNat ((bytes.drop offset).take n)

/-- Bit 0 of the byte at an offset: how a two-valued field is read (R128). -/
def fieldBit0 (bytes : List Byte) (offset : Nat) : Bool :=
  field bytes offset 1 % 2 == 1

/-- n bytes of 0. -/
def zeros (n : Nat) : List Byte := List.replicate n 0

/-- A 48-bit quantity in a u64 field: the upper two bytes are written 0 (chapter 12). -/
def le48 (v : Nat) : List Byte := leBytes 6 v ++ zeros 2

/-! ### The CRC of the profile and of the factory record (R164) -/

/-- One bit of the CRC: polynomial x^16 + x^12 + x^5 + 1, most significant bit first. -/
def crcBit (c : BitVec 16) : BitVec 16 :=
  if c.msb then (c <<< 1) ^^^ 0x1021 else c <<< 1

/-- One byte of the CRC. -/
def crcByte (c : BitVec 16) (b : Byte) : BitVec 16 :=
  crcBit (crcBit (crcBit (crcBit (crcBit (crcBit (crcBit (crcBit (c ^^^ (b.setWidth 16 <<< 8)))))))))

/-- The CRC over bytes in address order, from 0xFFFF, with no inversion (R164). -/
def crc16 (bytes : List Byte) : BitVec 16 := bytes.foldl crcByte 0xFFFF

/-! ### The profile image (R164, section 12.4) -/

/-- The job line function a byte names. -/
def jobFunctionOf : Nat → Option JobFunction
  | 0 => some .none
  | 1 => some .hold
  | 2 => some .run
  | 3 => some .stop
  | 4 => some .reset
  | _ => none

/-- A profile image read field by field; none when a field is out of its range (R164). -/
def readProfileImage (img : List Byte) : Option Profile :=
  let cb := field img 0x00 8
  let period := field img 0x08 2
  let pol := field img 0x0B 1
  let mask := field img 0x0C 2
  let lock := field img 0x0E 1
  match jobFunctionOf (field img 0x0A 1) with
  | none => none
  | some f =>
    if cb % 4096 = 0 ∧ cb + 4096 ≤ top48 ∧ 1 ≤ period ∧ period ≤ 10000 ∧ pol ≤ 1 ∧ mask < 8192 ∧ lock ≤ 1 then
      some
        { controlBlock := cb
          pollPeriod := period
          jobFunction := f
          activeHigh := pol == 1
          defaultMask := BitVec.ofNat 13 mask
          lockFixed := lock == 1 }
    else none

/-- What a load of the profile area finds (R164). -/
def loadProfile (flash : List Byte) : LoadStatus × Profile :=
  if flash.all (· == 0xFF) then (.erased, factoryProfile)
  else if field flash 0x40 2 = (crc16 (flash.take 64)).toNat then
    match readProfileImage (flash.take 64) with
    | some p => (.loaded, p)
    | none => (.corrupt, factoryProfile)
  else (.corrupt, factoryProfile)

/-- The 66 bytes programmed for an image: the image and its CRC (R167). -/
def programmedFlash (img : List Byte) : List Byte :=
  img ++ leBytes 2 (crc16 img).toNat

/-! ### The steering map record (R128, R170) -/

/-- A lane record of a map: its 16 bytes at 0x080 + 16 × L. The fill value keeps bytes 0 to P − 1. -/
def readLaneMap (bytes : List Byte) (P : Nat) (lane : Lane) : LaneMap :=
  let at0 := 0x080 + 16 * lane.val
  { place :=
      { colStart := field bytes at0 4
        trimL := field bytes (at0 + 4) 2
        trimR := field bytes (at0 + 6) 2
        fill := ((bytes.drop (at0 + 12)).take 4).take P
        stampCheck := fieldBit0 bytes (at0 + 10) }
    lag := field bytes (at0 + 8) 2 }

/-- Whether a lane is enabled in a map record: bit L of the byte at 0x011. -/
def laneEnabled (bytes : List Byte) (lane : Lane) : Bool :=
  (field bytes 0x011 1).testBit lane.val

/-- The kept width of a lane in pixels (R70). -/
def keptWidth (Lp : Nat) (p : LanePlacement) : Nat := Lp - p.trimL - p.trimR

/-- The image width of a placement set: the sum of Kw over the enabled lanes (R75). -/
def imageWidth (Lp : Nat) (lanes : Lanes (Option LanePlacement)) : Nat :=
  (lanes.toList.map fun o =>
    match o with
    | some p => keptWidth Lp p
    | none => 0).sum

/-- The placement set of a map (R81). -/
def placementSet (lanes : Lanes (Option LaneMap)) : Lanes (Option LanePlacement) :=
  lanes.map fun o => o.map LaneMap.place

/-- A map record's fields as R170 places them, with the image width. -/
def readMap (bytes : List Byte) : SteeringMap :=
  let P := field bytes 0x010 1
  let Lp := field bytes 0x014 2
  let lanes : Lanes (Option LaneMap) :=
    Lanes.ofFn fun l => if laneEnabled bytes l then some (readLaneMap bytes P l) else none
  { generation := BitVec.ofNat 32 (field bytes 0x004 4)
    base := field bytes 0x008 8
    P := P
    Lp := Lp
    S := field bytes 0x012 2
    lanes := lanes
    Q := field bytes 0x018 4
    minSpacing := field bytes 0x016 2
    invert := fieldBit0 bytes 0x01E
    reverseLimit := field bytes 0x01C 2
    activeLow := fieldBit0 bytes 0x01F
    mode := if fieldBit0 bytes 0x020 then .fixed else .track
    M := field bytes 0x022 2
    N := field bytes 0x024 4
    W := field bytes 0x028 4
    h := field bytes 0x021 1
    ringBase := field bytes 0x030 8
    B := field bytes 0x038 1
    Iw := imageWidth Lp (placementSet lanes) }

/-- The line bytes of a map: lb = Lp × P (R3). -/
def lineBytes (m : SteeringMap) : Nat := m.Lp * m.P

/-- The bytes of one lane window: S × lb (R3). -/
def windowBytes (m : SteeringMap) : Nat := m.S * lineBytes m

/-- The enabled lanes' fields. -/
def enabledLanes (m : SteeringMap) : List LaneMap :=
  m.lanes.toList.filterMap id

/-- A lane put in its place by colStart. -/
def insertByStart (p : LanePlacement) : List LanePlacement → List LanePlacement
  | [] => [p]
  | q :: qs => if p.colStart ≤ q.colStart then p :: q :: qs else q :: insertByStart p qs

/-- Lanes in ascending order of colStart. -/
def sortByStart : List LanePlacement → List LanePlacement
  | [] => []
  | p :: ps => insertByStart p (sortByStart ps)

/-- Each lane begins at the column where the lane before it ends. -/
def tilesFrom (Lp : Nat) : Nat → List LanePlacement → Bool
  | _, [] => true
  | c, p :: ps => decide (p.colStart = c) && tilesFrom Lp (c + keptWidth Lp p) ps

/-- The tiling rule (R75). -/
def tiles (m : SteeringMap) : Bool :=
  tilesFrom m.Lp 0 (sortByStart ((enabledLanes m).map LaneMap.place))

/-- The checks of R132 in order: the number of each and whether the record fails it. -/
def mapChecks (format : Nat) (m : SteeringMap) : List (Nat × Bool) :=
  [(1, decide (format ≠ 1)),
    (2, decide (m.P ≠ 1 ∧ m.P ≠ 2 ∧ m.P ≠ 4)),
    (3, decide (m.Lp < 256 ∨ 16384 < m.Lp ∨ m.Lp % 64 ≠ 0)),
    (4, decide (m.S ≠ 16 ∧ m.S ≠ 32 ∧ m.S ≠ 64 ∧ m.S ≠ 128 ∧ m.S ≠ 256 ∧ m.S ≠ 512)),
    (5, (enabledLanes m).isEmpty),
    (6, (enabledLanes m).any fun l => decide (m.Lp - 64 < l.place.trimL + l.place.trimR)),
    (7, (enabledLanes m).any fun l => decide (4095 < l.lag)),
    (8, !tiles m),
    (9, decide (m.base % 2 ^ 20 ≠ 0 ∨ top48 < m.base + 8 * windowBytes m)),
    (10, decide (m.Q < 65536 ∨ 16777215 < m.Q)),
    (11, decide (m.N < 64 ∨ 16777214 < m.N ∨ m.N / 4 < m.W ∨ 16777215 < m.N + m.W)),
    (12, decide (m.M < m.W + m.h + 17)),
    (13, decide (m.reverseLimit = 0)),
    (14, decide (m.B < 2 ∨ 64 < m.B ∨ m.ringBase % 512 ≠ 0 ∨ top48 < m.ringBase + m.B * 512))]

/-- The number of the first entry that fails. -/
def firstFailing : List (Nat × Bool) → Option Nat
  | [] => none
  | (n, fails) :: rest => if fails then some n else firstFailing rest

/-- The first check of R132 that a record fails; none when the map is accepted. -/
def failingCheck (bytes : List Byte) : Option Nat :=
  firstFailing (mapChecks (field bytes 0x000 4) (readMap bytes))

/-- The frozen fields in the order of R129, each with whether two maps differ in it. D_L is compared for
each enabled lane. -/
def frozenChecks (a b : SteeringMap) : List (Nat × Bool) :=
  [(1, decide (a.base ≠ b.base)),
    (2, decide (a.P ≠ b.P)),
    (3, decide (a.Lp ≠ b.Lp)),
    (4, decide (a.S ≠ b.S)),
    (5, decide (a.lanes.map Option.isSome ≠ b.lanes.map Option.isSome)),
    (6, decide (a.lanes.map (Option.map LaneMap.lag) ≠ b.lanes.map (Option.map LaneMap.lag))),
    (7, decide (a.Q ≠ b.Q)),
    (8, decide (a.minSpacing ≠ b.minSpacing)),
    (9, decide (a.invert ≠ b.invert)),
    (10, decide (a.reverseLimit ≠ b.reverseLimit)),
    (11, decide (a.activeLow ≠ b.activeLow)),
    (12, decide (a.mode ≠ b.mode)),
    (13, decide (a.M ≠ b.M)),
    (14, decide (a.ringBase ≠ b.ringBase)),
    (15, decide (a.B ≠ b.B))]

/-- The number of the first frozen field in which two maps differ (R129, R133). -/
def firstFrozenDifference (a b : SteeringMap) : Option Nat := firstFailing (frozenChecks a b)

/-! ### The descriptor (R113, R119, R170) -/

/-- A descriptor's three fields. -/
def readDescriptor (bytes : List Byte) : Buffer :=
  { base := field bytes 0x00 8
    stride := field bytes 0x08 4
    capacity := field bytes 0x0C 4 }

/-- No row's image of `width` bytes straddles a multiple of 2^48 (R119 check 5), looked at 2^48 by 2^48:
in each of the first n stretches [j × 2^48, (j + 1) × 2^48) only the last row that begins there can reach
past its end. A row begins in stretch j when base + q × stride lies in it; the last is the greatest q
below the capacity with base + q × stride < (j + 1) × 2^48. -/
def rowsClearBelow (b : Buffer) (width : Nat) : Nat → Bool
  | 0 => true
  | j + 1 =>
    let limit := (j + 1) * top48
    let q := min (b.capacity - 1) ((limit - 1 - b.base) / b.stride)
    (decide (limit ≤ b.base) || decide (b.base + q * b.stride + width ≤ limit)
      || decide (b.base + q * b.stride < j * top48)) && rowsClearBelow b width j

/-- Check 5 of R119: every row of the buffer lies wholly on one side of a multiple of 2^48. -/
def rowsClear (b : Buffer) (width : Nat) : Bool :=
  rowsClearBelow b width ((b.base + b.capacity * b.stride) / top48 + 1)

/-- The five checks of R119, `width` being Iw × P of the entry's placement set. -/
def descriptorValid (b : Buffer) (width : Nat) : Bool :=
  decide (b.base < top48) && decide (b.base % 64 = 0) &&
    decide (1 ≤ b.capacity) && decide (b.capacity ≤ 16777215) &&
    decide (b.stride % 64 = 0) && decide (width ≤ b.stride) && rowsClear b width

/-! ### Commands (R158, R169) -/

/-- The command area as the Mailbox Unit reads it: its sequence, code and parameters (R155, R169). -/
def readCommand (bytes : List Byte) : TakenCommand :=
  { seq := BitVec.ofNat 32 (field bytes 0x000 4)
    code := BitVec.ofNat 8 (field bytes 0x004 1)
    params := (bytes.drop 0x008).take 56 }

/-- The address parameter of LOAD_MAP and SAVE_PROFILE: a u64 (R169). -/
def paramAddress (c : TakenCommand) : Nat := field c.params 0 8

/-- The set parameter of ACK and SET_MASK: bits 13 to 15 are disregarded (R169). -/
def paramSet (c : TakenCommand) : BitVec 13 := BitVec.ofNat 13 (field c.params 0 2)

/-- The clear-counters parameter of STATUS (R169). -/
def paramClear (c : TakenCommand) : Bool := fieldBit0 c.params 0

/-- The command codes of R158. -/
def codeArm : Byte := 0x01
@[inherit_doc codeArm] def codeDisarm : Byte := 0x02
@[inherit_doc codeArm] def codeAbort : Byte := 0x03
@[inherit_doc codeArm] def codeHold : Byte := 0x04
@[inherit_doc codeArm] def codeResume : Byte := 0x05
@[inherit_doc codeArm] def codeLoadMap : Byte := 0x10
@[inherit_doc codeArm] def codeStatus : Byte := 0x20
@[inherit_doc codeArm] def codeAck : Byte := 0x21
@[inherit_doc codeArm] def codeSetMask : Byte := 0x22
@[inherit_doc codeArm] def codeReadProfile : Byte := 0x30
@[inherit_doc codeArm] def codeSaveProfile : Byte := 0x31
@[inherit_doc codeArm] def codeReset : Byte := 0x3F

/-- The twelve codes of R158's table. -/
def knownCodes : List Byte :=
  [codeArm, codeDisarm, codeAbort, codeHold, codeResume, codeLoadMap, codeStatus, codeAck, codeSetMask,
    codeReadProfile, codeSaveProfile, codeReset]

/-! ### Responses (R169) -/

/-- The result codes (R169). -/
def resultNumber : ResultCode → Nat
  | .ok => 0x00
  | .staged => 0x01
  | .live => 0x02
  | .already => 0x03
  | .aborted => 0x04
  | .ready => 0x05
  | .busy => 0x10
  | .noMap => 0x11
  | .refusedFrozen => 0x12
  | .invalidMap => 0x13
  | .readFault => 0x14
  | .locked => 0x15
  | .invalidParam => 0x16
  | .unsupported => 0x1E
  | .deviceFault => 0x1F

/-- The eight bytes of a response's last write, at 0x040: sequence echo, code echo, result code and data
length (R169). -/
def responseHeader (r : Response) : List Byte :=
  leBytes 4 r.seq.toNat ++ [r.code, BitVec.ofNat 8 (resultNumber r.result)] ++ leBytes 2 r.data.length

/-- The number of a reset cause (R169). -/
def resetCauseNumber : ResetCause → Nat
  | .power => 0
  | .resetLine => 1
  | .jobLine => 2
  | .command => 3

/-- The number of a load status (R169). -/
def loadStatusNumber : LoadStatus → Nat
  | .loaded => 0
  | .erased => 1
  | .corrupt => 2

/-- The number of an acquisition state (section 12.4). -/
def acqNumber : AcqState → Nat
  | .disarmed => 0
  | .running => 1
  | .held => 2
  | .draining => 3

/-- The number of a tracker state (section 12.4). -/
def trackerNumber : TrackerState → Nat
  | .idle => 0
  | .search => 1
  | .locked => 2
  | .coasting => 3

/-- The number of a step state (section 12.4). -/
def stepNumber : StepState → Nat
  | .off => 0
  | .inStep => 1
  | .outOfStep => 2

/-- The number of an entry state (section 12.4). -/
def entryStateNumber : EntryState → Nat
  | .opening => 1
  | .opened => 2
  | .dropped => 3

/-- The number of a kind (R171). -/
def kindNumber : Kind → Nat
  | .mark => 1
  | .flywheel => 2
  | .fixed => 3

/-- The number of an end kind: 0 when it is absent (R171). -/
def endKindNumber : Option EndKind → Nat
  | none => 0
  | some (.decided k) => kindNumber k
  | some .cancelled => 4

/-! ### The completion record (R121, R122, R171) -/

/-- A lane sub-record of 20 bytes. -/
def laneRecordBytes (c : LaneCounts) : List Byte :=
  leBytes 4 c.retired.toNat ++ leBytes 4 c.filled.toNat ++ leBytes 4 c.gap.toNat ++
    leBytes 4 c.discarded.toNat ++ leBytes 2 c.shortLines.toNat ++ leBytes 2 c.mismatches.toNat

/-- The 256 bytes of a completion record. -/
def recordBytes (r : RecordJob) : List Byte :=
  leBytes 4 r.seq.toNat ++ leBytes 4 r.generation.toNat ++ le48 r.firstRow ++
    leBytes 4 r.rowCount ++ leBytes 4 (rowsWritten r) ++ leBytes 4 r.capacity ++
    leBytes 4 r.overspeed.toNat ++ leBytes 2 r.droppedBefore.toNat ++ leBytes 1 (recordFlags r) ++
    leBytes 1 (kindNumber r.startKind) ++ leBytes 1 (endKindNumber r.endKind) ++ zeros 59 ++
    r.counts.toList.flatMap laneRecordBytes

/-! ### The STATUS snapshot (R159, section 12.4) -/

/-- The 64 bytes of one table entry. -/
def entryBytes (e : Entry) : List Byte :=
  leBytes 1 (entryStateNumber e.state) ++ leBytes 1 (if e.endRow.isSome then 1 else 0) ++ zeros 2 ++
    leBytes 4 e.seq.toNat ++ le48 e.firstRow ++ le48 (e.endRow.getD 0) ++
    e.counts.toList.flatMap (fun c => leBytes 4 c.retired.toNat) ++ zeros 8

/-- The generation of a map, 0 when it is absent. -/
def generationOf (m : Option SteeringMap) : Nat :=
  match m with
  | some m => m.generation.toNat
  | none => 0

/-- The 384 bytes of the snapshot: the state as it stands. -/
def snapshot (s : State) : List Byte :=
  let entries := s.table.entries.take 4
  leBytes 1 (acqNumber s.acq.state) ++ leBytes 1 (trackerNumber s.tracker.state) ++
    leBytes 1 s.tracker.coast ++ leBytes 1 (resetCauseNumber s.mailbox.resetCause) ++
    leBytes 1 s.table.entries.length ++
    leBytes 1 ((if s.maps.live.isSome then 1 else 0) + (if s.maps.staged.isSome then 2 else 0)) ++
    leBytes 2 s.attention.causes.toNat ++ leBytes 2 s.attention.mask.toNat ++
    s.ring.step.toList.flatMap (fun t => leBytes 1 (stepNumber t)) ++ zeros 6 ++
    le48 s.strobe.nextStrobe.toNat ++ le48 s.strobe.issueIndex.toNat ++
    le48 s.encoder.position.toNat ++ le48 s.encoder.highWater.toNat ++
    leBytes 4 (generationOf s.maps.live) ++ leBytes 4 (generationOf s.maps.staged) ++
    leBytes 4 s.ringUnit.taken.toNat ++ leBytes 4 s.ringUnit.returned.toNat ++
    (counterList s.counters).flatMap (fun c => leBytes 4 c.toNat) ++ zeros 12 ++
    entries.flatMap entryBytes ++ zeros (64 * (4 - entries.length))

end Sys2Proof.Machine
end

