-- ==== Sys2Proof/Machine/Ops.lean ====
section
/-! DEFINITION. The operations the steps share: the free value, the reference clock, bridge reads, slot
records, entries of the table, and the internal write list. -/

namespace Sys2Proof.Machine

/-! ### The free value (log entry 1) -/

/-- The next free value: one laid down in the state, or else the opaque one. -/
def takeChoice (s : State) : Nat × State :=
  match s.choices with
  | c :: cs => (c, { s with choices := cs })
  | [] => (Config.openChoice s.choiceCount, { s with choiceCount := s.choiceCount + 1 })

/-- A list in the order a free value names. Every order is named by some value. -/
def arrange {α : Type} (n : Nat) : List α → List α
  | [] => []
  | x :: xs => (arrange (n / (xs.length + 1)) xs).insertIdx (n % (xs.length + 1)) x

/-- Things that come about at one event in an order the manual leaves open. Fewer than two have one
order only. -/
def freeOrder {α : Type} (xs : List α) (s : State) : List α × State :=
  match xs with
  | [] => ([], s)
  | [x] => ([x], s)
  | x :: y :: rest =>
    let (n, s') := takeChoice s
    (arrange n (x :: y :: rest), s')

/-- A step made for each of several things at one event: first for those that offer no fill, whose order
shows nowhere, then for those that offer one, in an order left open (R104, R105). -/
def forEachOpenly {α : Type} (offers : α → Bool) (xs : List α) (f : α → State → State) (s : State) : State :=
  let quiet := xs.filter fun x => !offers x
  let (loud, s1) := freeOrder (xs.filter offers) s
  (quiet ++ loud).foldl (fun t x => f x t) s1

/-! ### The reference clock -/

/-- The clock set to a time: a strobe pulse whose end has come is over (R29). -/
def setClock (t : Nat) (s : State) : State :=
  let pulse : Option Nat :=
    match s.strobe.lineUntil with
    | none => none
    | some u => if u ≤ t then none else some u
  { s with clock := t, strobe := { s.strobe with lineUntil := pulse } }

/-! ### Bridge reads (R10) -/

/-- The tag a read holds. -/
def stageTag : ReadStage → Option Tag
  | .untagged => none
  | .waiting t => some t
  | .queued t => some t
  | .left t => some t

/-- A tag no read holds and no reset held back. -/
def tagFree (s : State) (t : Tag) : Bool :=
  !(s.heldTags.contains t) && s.reads.all fun r => decide (stageTag r.stage ≠ some t)

/-- The lowest-numbered free tag (R10). -/
def lowestFreeTag (s : State) : Option Tag := Config.reservedTags.find? (tagFree s)

/-- A unit requests a bridge read. It is given the lowest free tag at once, unless none is free or an
earlier request still waits for one; then it waits (R10). -/
def requestRead (u : ReadUnit) (addr len : Nat) (s : State) : State :=
  let stage : ReadStage :=
    if s.reads.any (fun r => decide (r.stage = .untagged)) then .untagged
    else
      match lowestFreeTag s with
      | some t => .waiting t
      | none => .untagged
  { s with reads := s.reads ++ [{ unit := u, addr := addr, len := len, stage := stage }] }

/-- The first element that passes a test, replaced. -/
def replaceFirst {α : Type} (p : α → Bool) (f : α → α) : List α → List α
  | [] => []
  | x :: xs => if p x then f x :: xs else x :: replaceFirst p f xs

/-- The first element that passes a test, removed. -/
def removeFirst {α : Type} (p : α → Bool) : List α → List α
  | [] => []
  | x :: xs => if p x then xs else x :: removeFirst p xs

/-- The Ring Unit has a read requested or outstanding (R87). -/
def ringReading (s : State) : Bool := s.reads.any fun r => decide (r.unit = .ring)

/-- The outlet drain of a RESET command is in force (R17). -/
def draining (s : State) : Bool := decide (s.mailbox.inProgress = some .reset)

/-! ### Maps in force -/

/-- The aperture in force: its base and its end (R3). -/
def aperture (s : State) : Option (Nat × Nat × SteeringMap) :=
  if s.profile.faulted then none
  else
    match s.maps.live with
    | none => none
    | some m => some (m.base, m.base + 8 * windowBytes m, m)

/-! ### Slot records and bindings -/

/-- The value listed for a key. -/
def slotFind {α : Type} (k : Nat) : List (Nat × α) → Option α
  | [] => none
  | (j, v) :: rest => if j = k then some v else slotFind k rest

/-- A value listed for a key, the keys kept rising. -/
def slotPut {α : Type} (k : Nat) (v : α) : List (Nat × α) → List (Nat × α)
  | [] => [(k, v)]
  | (j, w) :: rest =>
    if k < j then (k, v) :: (j, w) :: rest
    else if k = j then (k, v) :: rest
    else (j, w) :: slotPut k v rest

/-- An UNBOUND slot record (R67). -/
def unboundRecord : SlotRecord :=
  { state := .unbound
    fillMark := 0
    row := none
    ref := none
    stamp := .unchecked
    fillMade := false }

/-- The record of one slot of one lane. -/
def slotRecord (s : State) (lane : Lane) (slot : Nat) : SlotRecord :=
  (slotFind slot (s.ring.slots.get lane)).getD unboundRecord

/-- The record of one slot of one lane replaced. -/
def setSlot (lane : Lane) (slot : Nat) (r : SlotRecord) (s : State) : State :=
  { s with ring := { s.ring with slots := s.ring.slots.set lane (slotPut slot r (s.ring.slots.get lane)) } }

/-- The slots of a lane whose record is OPEN. -/
def openSlots (s : State) (lane : Lane) : List Nat :=
  (s.ring.slots.get lane).filterMap fun p => if p.2.state = .opened then some p.1 else none

/-- Every binding absent and every slot record UNBOUND (R67). -/
def clearRing (s : State) : State :=
  { s with ring := { s.ring with bindings := [], slots := Lanes.every [] } }

/-! ### Entries of the Repeat Table -/

/-- The entry with a key. -/
def findEntry (s : State) (key : Nat) : Option Entry :=
  s.table.entries.find? fun e => decide (e.key = key)

/-- The entry with a key, changed. -/
def updateEntry (key : Nat) (f : Entry → Entry) (s : State) : State :=
  { s with table :=
      { s.table with entries := s.table.entries.map fun e => if e.key = key then f e else e } }

/-- The newest entry. -/
def newestEntry (s : State) : Option Entry := s.table.entries.getLast?

/-- The entry that owns a row: one with first row ≤ r < end row, or the newest with first row ≤ r and no
end row (R54, R82). -/
def lookupRow (s : State) (r : Nat) : Option Entry :=
  match s.table.entries.find? (fun e => decide (e.firstRow ≤ r) && e.endRow.any (fun x => decide (r < x))) with
  | some e => some e
  | none =>
    match newestEntry s with
    | none => none
    | some e => if e.endRow = none ∧ e.firstRow ≤ r then some e else none

/-- The entry a slot record references; none for ABSORB. -/
def recordEntry (s : State) (r : SlotRecord) : Option Entry :=
  match r.ref with
  | some (.entry k) => findEntry s k
  | _ => none

/-- An OPENING or OPEN entry: one whose fills are offered (R59). -/
def entryLive (e : Entry) : Bool := decide (e.state ≠ .dropped)

/-- One lane's counts of an entry changed. -/
def updateCounts (lane : Lane) (f : LaneCounts → LaneCounts) (e : Entry) : Entry :=
  { e with counts := e.counts.set lane (f (e.counts.get lane)) }

/-- A lane with no placement: no columns and no trims. -/
def noPlacement : LanePlacement :=
  { colStart := 0, trimL := 0, trimR := 0, fill := [], stampCheck := false }

/-- The placement a line is accounted by: that of its entry, or of the live map for ABSORB (R56, R138). -/
def linePlacement (m : SteeringMap) (lane : Lane) (e : Option Entry) : LanePlacement :=
  match e with
  | some e => (e.placement.get lane).getD noPlacement
  | none => ((m.lanes.get lane).map LaneMap.place).getD noPlacement

/-- keptStart: trimL × P (R70). -/
def keptStart (m : SteeringMap) (p : LanePlacement) : Nat := p.trimL * m.P

/-- keptEnd: lb − trimR × P (R70). -/
def keptEnd (m : SteeringMap) (p : LanePlacement) : Nat := lineBytes m - p.trimR * m.P

/-- The row byte offset of a line offset y: colStart × P + (y − keptStart) (R59, R73). -/
def rowByte (m : SteeringMap) (p : LanePlacement) (y : Nat) : Nat :=
  p.colStart * m.P + (y - keptStart m p)

/-! ### The internal write list (chapter 7) -/

/-- The place of byte c of row q in a buffer, modulo 2^48 (R74). -/
def bufferPlace (b : Buffer) (q c : Nat) : Nat := (b.base + q * b.stride + c) % top48

/-- A job is a FILL job. -/
def isFill : Job → Bool
  | .fill _ => true
  | .record _ => false
  | .response _ => false

/-- A job is a RECORD job. -/
def isRecord : Job → Bool
  | .fill _ => false
  | .record _ => true
  | .response _ => false

/-- A job is a RESPONSE job. -/
def isResponse : Job → Bool
  | .fill _ => false
  | .record _ => false
  | .response _ => true

/-- A job is a FILL job of the entry with a key. -/
def isFillOf (key : Nat) : Job → Bool
  | .fill f => decide (f.target = .entry key)
  | .record _ => false
  | .response _ => false

/-- A job is a FILL job of some entry in the table. -/
def isEntryFill : Job → Bool
  | .fill f =>
    match f.target with
    | .entry _ => true
    | .bound _ => false
  | .record _ => false
  | .response _ => false

/-- How a FILL job at the head is resolved (R107). -/
inductive Resolution where
  | waits
  | discarded
  | ready (b : Buffer)
deriving DecidableEq, Repr

/-- A row of a buffer: ready below the capacity, discarded at or beyond it (R107). -/
def resolveIn (b : Buffer) (q : Nat) : Resolution := if q < b.capacity then .ready b else .discarded

/-- The resolution of a FILL job at the head, by what it refers to (R107). -/
def resolveFill (entries : List Entry) (f : FillJob) : Resolution :=
  match f.target with
  | .bound b => resolveIn b f.row
  | .entry k =>
    match entries.find? (fun e => decide (e.key = k)) with
    | none => .discarded
    | some e =>
      match e.state, e.buffer with
      | .opening, _ => .waits
      | .opened, some b => resolveIn b f.row
      | .opened, none => .discarded
      | .dropped, _ => .discarded

/-- The list without the FILL jobs at its head that are discarded there. -/
def settleJobs (entries : List Entry) : List Job → List Job
  | [] => []
  | .fill f :: js => if resolveFill entries f = .discarded then settleJobs entries js else .fill f :: js
  | .record r :: js => .record r :: js
  | .response r :: js => .response r :: js

/-- The head of the list resolved; one whose issue has begun runs on (R107, R108). -/
def settleList (s : State) : State :=
  if s.list.progress = 0 then
    { s with list := { s.list with jobs := settleJobs s.table.entries s.list.jobs } }
  else s

/-- A job joins the list at its tail; one that becomes the head is resolved at once (R104, R107). -/
def enqueue (j : Job) (s : State) : State :=
  settleList { s with list := { s.list with jobs := s.list.jobs ++ [j] } }

/-- The head job has issued its last write: it leaves, and the next head is resolved (R108). -/
def headLeaves (s : State) : State :=
  settleList { s with list := { jobs := s.list.jobs.tail, progress := 0 } }

/-- Jobs are removed wherever they stand; a removed head takes its progress with it (R111). -/
def removeJobs (p : Job → Bool) (s : State) : State :=
  let progress :=
    match s.list.jobs with
    | [] => 0
    | j :: _ => if p j then 0 else s.list.progress
  settleList { s with list := { jobs := s.list.jobs.filter (fun j => !p j), progress := progress } }

/-- The FILL jobs on the list. -/
def fillCount (s : State) : Nat := s.list.jobs.countP isFill

/-- A fill is offered for an entry: queued, or lost when 240 FILL jobs stand on the list (R59, R104, R105).
`row` is a web row, `c` the byte offset within the image row. -/
def offerFill (e : Entry) (row c len : Nat) (value : List Byte) (s : State) : State :=
  if fillCount s < Config.fillLimit then
    enqueue
      (.fill { target := .entry e.key, row := row - e.firstRow, column := c, len := len, value := value }) s
  else
    raise .fillLost (bump .fillsLost (updateEntry e.key (fun x => { x with fillLost := true }) s))

/-- A response joins the list (R104, R158). -/
def respond (seq : BitVec 32) (code : Byte) (result : ResultCode) (data : List Byte) (s : State) : State :=
  enqueue (.response { seq := seq, code := code, result := result, data := data }) s

/-- Polling is suspended while a RESPONSE job stands on the list or a command is in progress (R156). -/
def pollingSuspended (s : State) : Bool :=
  s.list.jobs.any isResponse || s.mailbox.inProgress.isSome

end Sys2Proof.Machine
end

