-- ==== Sys2Proof/Machine/Inlet.lean ====
section
/-! DEFINITION. The Inlet Port and the Aperture Decoder: taking a transaction, its classification and its pieces
(sections 1.2 and 1.4). -/

namespace Sys2Proof.Machine

/-! ### Pieces (R4, R5) -/

/-- The aperture pieces of an inside range that begins u bytes above the aperture base, one for each slot
touched (R5). A piece holds at least one byte, so as many cuts as bytes are enough. -/
def cutPieces (m : SteeringMap) : Nat → Nat → List Byte → List Piece
  | 0, _, _ => []
  | _ + 1, _, [] => []
  | fuel + 1, u, b :: bs =>
    let v := u % windowBytes m
    let x := v % lineBytes m
    let n := min (b :: bs).length (lineBytes m - x)
    .aperture (Fin.ofNat 8 (u / windowBytes m)) (v / lineBytes m) x ((b :: bs).take n) ::
      cutPieces m fuel (u + n) ((b :: bs).drop n)

/-- An outside piece, none when it has no byte (R4). -/
def outsidePiece (addr : Nat) (bytes : List Byte) : List Piece :=
  if bytes = [] then [] else [.outside addr bytes]

/-- The pieces of a WRITE in ascending address order (R4): the part below the aperture, the inside range cut
by R5, and the part at or above its end. -/
def writePieces (ap : Option (Nat × Nat × SteeringMap)) (addr : Nat) (bytes : List Byte) : List Piece :=
  match ap with
  | none => outsidePiece addr bytes
  | some (base, stop, m) =>
    if addr + bytes.length ≤ base ∨ stop ≤ addr then outsidePiece addr bytes
    else
      let inner := (bytes.drop (base - addr)).take (stop - max addr base)
      outsidePiece addr (bytes.take (base - addr)) ++
        cutPieces m inner.length (max addr base - base) inner ++
        outsidePiece stop (bytes.drop (stop - addr))

/-! ### Reads (R7, R8) -/

/-- A READ touches the aperture. -/
def touchesAperture (ap : Option (Nat × Nat × SteeringMap)) (addr len : Nat) : Bool :=
  match ap with
  | none => false
  | some (base, stop, _) => decide (addr < stop) && decide (base < addr + len) && decide (1 ≤ len)

/-- A READ the bridge answers itself: its tag is reserved, or it touches the aperture (R7). -/
def readAnswered (s : State) (addr len : Nat) (tag : Tag) : Bool :=
  decide (Config.firstReservedTag ≤ tag.toNat) || touchesAperture (aperture s) addr len

/-- A completion returned to the grabber at the inlet. -/
def returnToInlet (c : Completion) (s : State) : State := { s with returned := s.returned ++ [c] }

/-! ### Taking a transaction (R2) -/

/-- The decoder takes a transaction and classifies it against the aperture in force (R2, R4, R7, R8). -/
def takeTransaction (t : InletTxn) (s : State) : State :=
  match t with
  | .write a p => { s with decode := writePieces (aperture s) a p }
  | .read a n tag =>
    if readAnswered s a n tag then
      bump .strayReads (returnToInlet { tag := tag, data := [], ok := false } s)
    else { s with decode := [.read a n tag] }

/-- The port takes transactions: not while the reset line is asserted, nor during the drain of a RESET
command (R13, R154). -/
def portOpen (s : State) : Bool := !s.resetLine && !draining s

/-- The transactions held at the port taken in order while the decoder is empty; the rest stay held. -/
def takeHeld : List InletTxn → State → State
  | [], s => { s with inletHeld := [] }
  | t :: ts, s =>
    if s.decode = [] ∧ portOpen s then takeHeld ts (takeTransaction t s)
    else { s with inletHeld := t :: ts }

/-- The decoder takes what the port holds, as far as it can (R2, R13). -/
def settleInlet (s : State) : State := takeHeld s.inletHeld s

/-- The inlet stream is stalled: the transaction in decode is not disposed of, or the port is closed (R13). -/
def inletStalled (s : State) : Bool := decide (s.decode ≠ []) || !portOpen s

end Sys2Proof.Machine
end

