-- ==== Sys2Proof/Machine/Table.lean ====
section
/-! DEFINITION. Maps becoming live, entry into DISARMED, and the life of a repeat entry: creation, ends,
drops, closes, frees and records (chapters 6, 9 and 10). -/

namespace Sys2Proof.Machine

/-! ### A map becomes live (R134, R136, R137) -/

/-- A lane's step state when a map becomes live while the bridge is DISARMED (R66). -/
def stepAtMap (enabled : Bool) (t : StepState) : StepState :=
  if enabled then (if t = .off then .inStep else t) else .off

/-- A lane's consecutive-mismatch count when a map becomes live while the bridge is DISARMED (R66). -/
def mismatchesAtMap (enabled : Bool) (t : StepState) (n : Nat) : Nat :=
  if enabled then (if t = .off then 0 else n) else 0

/-- The descriptor ring differs from that of the map live before, or there was none (R114). -/
def ringChanges (live : Option SteeringMap) (m : SteeringMap) : Bool :=
  match live with
  | none => true
  | some old => decide (old.ringBase ≠ m.ringBase) || decide (old.B ≠ m.B)

/-- A map becomes live while the bridge is DISARMED (R134): the step states are set for its lane enables,
the Line Ring takes its S with every slot UNBOUND, and the ring counts become 0 when the ring differs. -/
def makeLive (m : SteeringMap) (s : State) : State :=
  let en (l : Lane) : Bool := (m.lanes.get l).isSome
  let ru : RingUnit :=
    if ringChanges s.maps.live m then { s.ringUnit with taken := 0, returned := 0, index := 0 } else s.ringUnit
  let ring : LineRing :=
    { bindings := []
      slots := Lanes.every []
      step := Lanes.ofFn fun l => stepAtMap (en l) (s.ring.step.get l)
      mismatches := Lanes.ofFn fun l => mismatchesAtMap (en l) (s.ring.step.get l) (s.ring.mismatches.get l) }
  { s with maps := { s.maps with live := some m }, ring := ring, ringUnit := ru }

/-- At a boundary decision a staged map becomes live (R136). -/
def cutOver (s : State) : State :=
  match s.maps.staged with
  | none => s
  | some m => { s with maps := { live := some m, staged := none } }

/-- At entry into DISARMED a staged map becomes live (R137). -/
def adoptStaged (s : State) : State :=
  match s.maps.staged with
  | none => s
  | some m => makeLive m { s with maps := { s.maps with staged := none } }

/-! ### Entry into DISARMED (R148) -/

/-- The tracker becomes IDLE (R38); the mark level and the counters stand. -/
def trackerIdle (s : State) : State :=
  { s with tracker :=
      { s.tracker with
        state := .idle
        qualification := none
        expected := none
        halfWidth := none
        decisionPoint := none
        coast := 0
        searchStart := none
        searchFault := false } }

/-- The bridge is armed: RUNNING, HELD or DRAINING (R140). -/
def armed (s : State) : Bool := decide (s.acq.state ≠ .disarmed)

/-- The acquisition state and its pending request set. -/
def setAcq (st : AcqState) (rq : Request) (s : State) : State :=
  { s with acq := { s.acq with state := st, request := rq } }

/-- The bridge enters DISARMED (R148). -/
def enterDisarmed (s : State) : State :=
  raise .runEnded (adoptStaged (clearRing (trackerIdle (setAcq .disarmed .none s))))

/-- The Repeat Table reports whether it is empty: in DRAINING the first report of an empty table is drain
completion (R101, R144). -/
def reportEmpty (s : State) : State :=
  if s.acq.state = .draining ∧ s.table.entries = [] then enterDisarmed s else s

/-! ### Records (R95, R104) -/

/-- The row count of an entry: end − first, or 0 when it has no end (R95). -/
def rowCount (e : Entry) : Nat :=
  match e.endRow with
  | some r => r - e.firstRow
  | none => 0

/-- The address of the record area of a ring entry (R170), by the live map's ring base. -/
def recordArea (s : State) (index : Nat) : Nat :=
  match s.maps.live with
  | some m => m.ringBase + index * 512 + 0x40
  | none => index * 512 + 0x40

/-- The capacity a record carries: 0 when the entry has none (R95). -/
def entryCapacity (e : Entry) : Nat :=
  match e.buffer with
  | some b => b.capacity
  | none => 0

/-- The content of an entry's record, as the entry and the pending dropped-before count stand (R95). -/
def recordOf (e : Entry) (status : RecordStatus) (s : State) : RecordJob :=
  { seq := e.seq
    generation := e.generation
    firstRow := e.firstRow
    rowCount := rowCount e
    capacity := entryCapacity e
    startKind := e.startKind
    endKind := e.endKind
    counts := e.counts
    overspeed := e.overspeed
    fillLost := e.fillLost
    status := status
    droppedBefore := s.table.droppedBefore
    descIndex := e.descIndex.getD 0
    area := recordArea s (e.descIndex.getD 0) }

/-- An entry's record is queued; it takes the pending dropped-before count (R95, R98). -/
def queueRecord (e : Entry) (status : RecordStatus) (s : State) : State :=
  enqueue (.record (recordOf e status s)) { s with table := { s.table with droppedBefore := 0 } }

/-! ### Closing and freeing (R93, R94, R96) -/

/-- Each enabled lane has retired as many rows as the entry has (R93, R96). -/
def allRetired (m : SteeringMap) (e : Entry) : Bool :=
  e.endRow.isSome &&
    allLanes.all fun l => (m.lanes.get l).isNone || decide ((e.counts.get l).retired.toNat = rowCount e)

/-- An entry leaves the table. -/
def removeEntry (key : Nat) (s : State) : State :=
  { s with table := { s.table with entries := s.table.entries.filter fun e => decide (e.key ≠ key) } }

/-- A FILL job of the entry takes its buffer into itself (R94). -/
def bindJob (key : Nat) (b : Buffer) (j : Job) : Job :=
  if isFillOf key j then
    match j with
    | .fill f => .fill { f with target := .bound b }
    | other => other
  else j

/-- The FILL jobs of an entry still on the list become jobs of a closed repeat (R94). -/
def bindJobs (key : Nat) (b : Buffer) (s : State) : State :=
  { s with list := { s.list with jobs := s.list.jobs.map (bindJob key b) } }

/-- An entry closes: its fill jobs are bound, its record is queued, it leaves, and the table reports
(R94). -/
def closeEntry (e : Entry) (s : State) : State :=
  let b := e.buffer.getD { base := 0, stride := 0, capacity := 0 }
  reportEmpty (removeEntry e.key (queueRecord e .clean (bindJobs e.key b s)))

/-- A DROPPED entry is freed: its fill jobs are removed, it leaves without a record, and the table
reports (R96). -/
def freeEntry (e : Entry) (s : State) : State :=
  reportEmpty (removeEntry e.key (removeJobs (isFillOf e.key) s))

/-- The close test and the free test of one entry (R93, R96). -/
def testEntry (key : Nat) (s : State) : State :=
  match findEntry s key, s.maps.live with
  | some e, some m =>
    if allRetired m e then
      match e.state with
      | .opening => s
      | .opened => closeEntry e s
      | .dropped => freeEntry e s
    else s
  | _, _ => s

/-- The tests of every entry, the older first (R93). They come after every fill offered at the event, so
that each FILL job joins before the RECORD job of a close the same event causes (R104). -/
def closeTests (s : State) : State :=
  (s.table.entries.map Entry.key).foldl (fun t k => testEntry k t) s

/-! ### Drops, ends and creation (R83 to R89) -/

/-- A repeat is dropped: counted, raised, and added to the pending dropped-before count (R89). -/
def countDrop (s : State) : State :=
  let s1 := raise .repeatDropped (bump .droppedRepeats s)
  { s1 with table := { s1.table with droppedBefore := satInc s1.table.droppedBefore } }

/-- An entry ended at a row, if it has no end yet (R83). -/
def endEntry (row : Nat) (k : Kind) (e : Entry) : Entry :=
  if e.endRow = none then { e with endRow := some row, endKind := some (.decided k) } else e

/-- The newest entry is ended at a row (R83, R86). -/
def endNewest (row : Nat) (k : Kind) (s : State) : State :=
  match newestEntry s with
  | none => s
  | some e => updateEntry e.key (endEntry row k) s

/-- The counts of a new entry. -/
def noCounts : LaneCounts := ⟨0, 0, 0, 0, 0, 0⟩

/-- A new entry at a boundary, from the map live after the decision's cut-over (R81, R84). -/
def newEntry (key row : Nat) (k : Kind) (seq : BitVec 32) (m : SteeringMap) : Entry :=
  { key := key
    seq := seq
    state := .opening
    firstRow := row
    endRow := none
    startKind := k
    endKind := none
    descIndex := none
    buffer := none
    generation := m.generation
    placement := placementSet m.lanes
    counts := Lanes.every noCounts
    overspeed := 0
    fillLost := false }

/-- A repeat opens at a row: an entry is created, or the repeat is dropped with reason TABLE_FULL. It takes
a sequence number either way (R84, R85, R97). -/
def openRepeat (row : Nat) (k : Kind) (m : SteeringMap) (s : State) : State :=
  let seq := s.table.nextSeq
  if s.table.entries.length < Config.tableEntries then
    { s with table :=
        { s.table with
          nextKey := s.table.nextKey + 1
          entries := s.table.entries ++ [newEntry s.table.nextKey row k seq m]
          nextSeq := seq + 1 } }
  else countDrop { s with table := { s.table with nextSeq := seq + 1 } }

/-! ### The record allowance (R106) -/

/-- An entry that holds a descriptor index and whose record has not yet been queued. -/
def owesRecord (e : Entry) : Bool := e.descIndex.isSome && entryLive e

/-- The RECORD jobs on the list, and the entries that owe one (R106). -/
def recordAllowance (s : State) : Nat :=
  s.list.jobs.countP isRecord + s.table.entries.countP owesRecord

end Sys2Proof.Machine
end

