-- ==== Sys2Proof/Machine/LineRing.lean ====
section
/-! DEFINITION. The Line Ring and the Placement Unit: binding, accounting, retirement, stamps, and the
re-aimed write (chapters 4 and 5), with the rows a skipped strobe retires (R91). -/

namespace Sys2Proof.Machine

/-! ### Retirement (R61, R62) -/

/-- One retirement counted for a lane of an entry (R61, R90). -/
def countRetired (lane : Lane) (filled : Bool) : Entry → Entry :=
  updateCounts lane fun c =>
    { c with
      retired := c.retired + 1
      filled := if filled then c.filled + 1 else c.filled }

/-- The line of a slot retires, and the retirement is reported to its entry (R61). -/
def retireLine (lane : Lane) (slot : Nat) (s : State) : State :=
  let r := slotRecord s lane slot
  let stamp : StampState := if r.stamp = .unchecked then .skipped else r.stamp
  let s1 := setSlot lane slot { r with state := .retired, stamp := stamp } s
  match r.ref with
  | some (.entry k) => updateEntry k (countRetired lane r.fillMade) s1
  | _ => s1

/-- A fill of the line offsets [y1, y2) offered for a line of an entry, when the range is not empty and
the entry is OPENING or OPEN; the record's fill-made flag is then set (R59). -/
def fillLine (m : SteeringMap) (lane : Lane) (slot : Nat) (e : Entry) (y1 y2 : Nat) (s : State) : State :=
  let r := slotRecord s lane slot
  let p := linePlacement m lane (some e)
  if y1 < y2 ∧ entryLive e then
    offerFill e (r.row.getD 0) (rowByte m p y1) (y2 - y1) p.fill (setSlot lane slot { r with fillMade := true } s)
  else s

/-- One more short line of a lane (R62). -/
def countShort (lane : Lane) : Entry → Entry :=
  updateCounts lane fun c => { c with shortLines := satInc c.shortLines }

/-- An OPEN line is given up: the kept bytes not yet accounted for are filled, a short line is counted when
the slot is bound again (not when the lane goes out of step), and the line retires (R62, R65). -/
def forceRetire (m : SteeringMap) (short : Bool) (lane : Lane) (slot : Nat) (s : State) : State :=
  let r := slotRecord s lane slot
  match recordEntry s r with
  | none => retireLine lane slot s
  | some e =>
    let p := linePlacement m lane (some e)
    let s1 := fillLine m lane slot e (max r.fillMark (keptStart m p)) (keptEnd m p) s
    let s2 := if short then updateEntry e.key (countShort lane) s1 else s1
    retireLine lane slot s2

/-- Giving up the line of a slot offers a fill. -/
def forceOffers (m : SteeringMap) (lane : Lane) (slot : Nat) (s : State) : Bool :=
  let r := slotRecord s lane slot
  match recordEntry s r with
  | none => false
  | some e =>
    let p := linePlacement m lane (some e)
    entryLive e && decide (max r.fillMark (keptStart m p) < keptEnd m p)

/-! ### Binding (R52, R54 to R56) -/

/-- The web row and the repeat reference of a lane bound at strobe k (R54). -/
def bindingRow (s : State) (k lag : Nat) : Option Nat × RowRef :=
  if k < lag then (none, .absorb)
  else
    match lookupRow s (k - lag) with
    | some e => (some (k - lag), .entry e.key)
    | none => (some (k - lag), .absorb)

/-- A lane's slot is bound at strobe k: an OPEN line is force-retired, the record is set, and in a lane
out of step the new line is retired at once (R55, R56). -/
def bindLane (m : SteeringMap) (k slot : Nat) (lane : Lane) (s : State) : State :=
  match m.lanes.get lane with
  | none => s
  | some lm =>
    let s1 := if (slotRecord s lane slot).state = .opened then forceRetire m true lane slot s else s
    let (row, ref) := bindingRow s1 k lm.lag
    let r : SlotRecord :=
      { state := .opened, fillMark := 0, row := row, ref := some ref, stamp := .unchecked, fillMade := false }
    let s2 := setSlot lane slot r s1
    if s2.ring.step.get lane = .outOfStep then
      match recordEntry s2 r with
      | none => retireLine lane slot s2
      | some e =>
        let p := linePlacement m lane (some e)
        retireLine lane slot (fillLine m lane slot e (keptStart m p) (keptEnd m p) s2)
    else s2

/-- Binding a lane's slot offers a fill. -/
def bindOffers (m : SteeringMap) (k slot : Nat) (s : State) (lane : Lane) : Bool :=
  match m.lanes.get lane with
  | none => false
  | some lm =>
    (decide ((slotRecord s lane slot).state = .opened) && forceOffers m lane slot s) ||
      (decide (s.ring.step.get lane = .outOfStep) &&
        (match bindingRow s k lm.lag with
        | (_, .entry f) => (findEntry s f).any entryLive
        | (_, .absorb) => false))

/-- The lanes a strobe binds: those whose step state is not OFF (R55). -/
def boundLanes (s : State) : List Lane := allLanes.filter fun l => decide (s.ring.step.get l ≠ .off)

/-- An issued strobe k with issue index i: the binding ring entry is written and slot i mod S is bound in
each lane that is not OFF (R52, R55). -/
def bindStrobe (m : SteeringMap) (i : BitVec 48) (k : Nat) (s : State) : State :=
  let slot := i.toNat % m.S
  let s1 := { s with ring := { s.ring with bindings := slotPut slot i s.ring.bindings } }
  forEachOpenly (bindOffers m k slot s1) (boundLanes s1) (bindLane m k slot) s1

/-! ### Skipped rows (R91) -/

/-- A skipped row counted for a lane of an entry (R91). -/
def countSkipped (lane : Lane) (filled : Bool) (e : Entry) : Entry :=
  { countRetired lane filled e with overspeed := satInc e.overspeed }

/-- The entry that owns the row a lane passes over at a skipped strobe; none when the lane has no row or
the row no entry. -/
def skippedEntry (m : SteeringMap) (k : Nat) (s : State) (lane : Lane) : Option Entry :=
  match m.lanes.get lane with
  | none => none
  | some lm => if k < lm.lag then none else lookupRow s (k - lm.lag)

/-- An enabled lane's row is retired at a skipped strobe: with a fill of the lane's whole kept range in an
OPENING or OPEN entry, without one in a DROPPED entry (R91). -/
def skipLane (m : SteeringMap) (k : Nat) (lane : Lane) (s : State) : State :=
  match skippedEntry m k s lane with
  | none => s
  | some e =>
    let lag := ((m.lanes.get lane).map LaneMap.lag).getD 0
    let p := linePlacement m lane (some e)
    let s1 := updateEntry e.key (countSkipped lane (entryLive e)) s
    if entryLive e then
      offerFill e (k - lag) (p.colStart * m.P) (keptWidth m.Lp p * m.P) p.fill s1
    else s1

/-- A skipped strobe retires each enabled lane's row (R91). -/
def skipRows (m : SteeringMap) (k : Nat) (s : State) : State :=
  forEachOpenly (fun l => (skippedEntry m k s l).any entryLive) allLanes (skipLane m k) s

/-! ### Out of step (R65) -/

/-- The lane goes out of step: its state, LANE_FAULT, and every OPEN line given up with a fill (R65). -/
def goOutOfStep (m : SteeringMap) (lane : Lane) (s : State) : State :=
  let s1 := raise .laneFault { s with ring := { s.ring with step := s.ring.step.set lane .outOfStep } }
  forEachOpenly (fun slot => forceOffers m lane slot s1) (openSlots s1 lane) (forceRetire m false lane) s1

/-! ### Stamps (R63, R64) -/

/-- The stamp state decided at a line's first piece, of offset x and these bytes (R63). -/
def decideStamp (issue : BitVec 48) (check : Bool) (x : Nat) (bytes : List Byte) : StampState :=
  if x = 0 ∧ 2 ≤ bytes.length ∧ check then
    if leNat (bytes.take 2) = issue.toNat % 65536 then .matched else .mismatched
  else .skipped

/-- The lane's consecutive-mismatch count after a stamp state is decided (R64). -/
def mismatchesAfter (n : Nat) : StampState → Nat
  | .matched => 0
  | .mismatched => n + 1
  | .skipped => n
  | .unchecked => n

/-- One more stamp mismatch of a lane (R64). -/
def countMismatch (lane : Lane) : Entry → Entry :=
  updateCounts lane fun c => { c with mismatches := satInc c.mismatches }

/-- The stamp state of a line is decided at its first piece, and acts on the lane's count and the entry's
(R63, R64). A later piece changes nothing. -/
def stampPiece (m : SteeringMap) (lane : Lane) (slot x : Nat) (bytes : List Byte) (s : State) : State :=
  let r := slotRecord s lane slot
  if r.stamp = .unchecked then
    let e := recordEntry s r
    let issue := (slotFind slot s.ring.bindings).getD 0
    let st := decideStamp issue (linePlacement m lane e).stampCheck x bytes
    let s1 := setSlot lane slot { r with stamp := st } s
    let n := mismatchesAfter (s1.ring.mismatches.get lane) st
    let s2 := { s1 with ring := { s1.ring with mismatches := s1.ring.mismatches.set lane n } }
    match st, e with
    | .mismatched, some e => updateEntry e.key (countMismatch lane) s2
    | _, _ => s2
  else s

/-! ### Placement (R69 to R74) -/

/-- The re-aimed write of a run of bytes that begins at line offset y of row r; none when its row lies at
or beyond the capacity (R72, R73). -/
def place (m : SteeringMap) (p : LanePlacement) (e : Entry) (r y : Nat) (bytes : List Byte) : Option OutTxn :=
  match e.buffer with
  | none => none
  | some b =>
    if r - e.firstRow < b.capacity then
      some (.write (bufferPlace b (r - e.firstRow) (rowByte m p y)) bytes)
    else none

/-- A transaction enters the Outlet Queue (R11). -/
def enterOutlet (t : OutTxn) (s : State) : State := { s with outlet := s.outlet ++ [t] }

/-! ### Accounting for a piece (R57 to R60) -/

/-- The kept part of the gap a piece passed over: [max(m, keptStart), min(x, keptEnd)) (R59). -/
def gapRange (ks ke mark x : Nat) : Nat × Nat := (max mark ks, min x ke)

/-- The new kept bytes: [max(x, m, keptStart), min(x + n, keptEnd)) (R58). -/
def newRange (ks ke mark x n : Nat) : Nat × Nat := (max x (max mark ks), min (x + n) ke)

/-- The rewrite bytes of a piece: [x, min(x + n, m)) (R58). -/
def rewriteBytes (mark x n : Nat) : Nat := min (x + n) mark - x

/-- Gap and rewrite bytes counted for a lane of an entry (R58, R59). -/
def countPiece (lane : Lane) (gap rewrite : Nat) : Entry → Entry :=
  updateCounts lane fun c => { c with gap := satAdd c.gap gap, discarded := satAdd c.discarded rewrite }

/-- The new kept run of a piece disposed of by the reference (R60). -/
def disposeRun (m : SteeringMap) (lane : Lane) (row : Nat) (e : Option Entry) (x : Nat) (bytes : List Byte)
    (lo hi : Nat) (s : State) : State :=
  match e with
  | none => bump .absorbedWrites s
  | some e =>
    match e.state with
    | .dropped => bump .absorbedWrites s
    | .opening => s
    | .opened =>
      if lo < hi then
        match place m (linePlacement m lane (some e)) e row lo ((bytes.drop (lo - x)).take (hi - lo)) with
        | some t => enterOutlet t s
        | none => s
      else s

/-- A piece accounted against an OPEN slot record (R58 to R65): its gap is filled, its rewrite bytes are
counted, its new kept run is disposed of, its stamp is decided, the fill mark is raised, the line
retires when the mark reaches lb, and a third mismatch puts the lane out of step. -/
def accountOpen (m : SteeringMap) (lane : Lane) (slot x : Nat) (bytes : List Byte) (s : State) : State :=
  let r := slotRecord s lane slot
  let e := recordEntry s r
  let p := linePlacement m lane e
  let n := bytes.length
  let gap := gapRange (keptStart m p) (keptEnd m p) r.fillMark x
  let run := newRange (keptStart m p) (keptEnd m p) r.fillMark x n
  let s1 :=
    match e with
    | none => s
    | some e =>
      updateEntry e.key (countPiece lane (gap.2 - gap.1) (rewriteBytes r.fillMark x n))
        (fillLine m lane slot e gap.1 gap.2 s)
  let s2 := stampPiece m lane slot x bytes s1
  let s3 := disposeRun m lane (r.row.getD 0) e x bytes run.1 run.2 s2
  let mark := max r.fillMark (min (x + n) (lineBytes m))
  let s4 := setSlot lane slot { slotRecord s3 lane slot with fillMark := mark } s3
  let s5 := if mark = lineBytes m then retireLine lane slot s4 else s4
  if r.stamp = .unchecked ∧ (slotRecord s2 lane slot).stamp = .mismatched ∧
      Config.mismatchLimit ≤ s2.ring.mismatches.get lane then goOutOfStep m lane s5
  else s5

/-- An aperture piece handed to the Line Ring at its grant (R57). -/
def accountPiece (lane : Lane) (slot x : Nat) (bytes : List Byte) (s : State) : State :=
  match s.maps.live, s.ring.step.get lane, (slotRecord s lane slot).state with
  | none, _, _ => bump .strayWrites s
  | some _, .off, _ => bump .strayWrites s
  | some _, .outOfStep, _ => bump .absorbedWrites s
  | some _, .inStep, .unbound => bump .strayWrites s
  | some _, .inStep, .retired => bump .strayWrites s
  | some m, .inStep, .opened => closeTests (accountOpen m lane slot x bytes s)

end Sys2Proof.Machine
end

