-- ==== Sys2Proof/Machine/Tracker.lean ====
section
/-! DEFINITION. The Mark Tracker: boundary decisions and what they are delivered to, the window, the flywheel,
the lost decision, the search fault, and the judging of a confirmed mark (chapter 3). -/

namespace Sys2Proof.Machine

/-! ### A boundary decision (R47, R83, R143) -/

/-- The Acquisition Controller's ruling at a boundary decision: whether a repeat opens, and the state and
pending request after it (R143). -/
def openingRule (st : AcqState) (rq : Request) : Bool × AcqState × Request :=
  match st, rq with
  | .running, .hold => (false, .held, .none)
  | .running, _ => (true, .running, .none)
  | .held, .resume => (true, .running, .none)
  | .held, _ => (false, .held, .none)
  | .draining, _ => (false, .draining, .none)
  | .disarmed, _ => (false, .disarmed, .none)

/-- The window of the next boundary after a decision at row b, from the map live after the cut-over (R41,
R46). -/
def setWindow (m : SteeringMap) (b : Nat) (s : State) : State :=
  let e := b + m.N
  let f :=
    match m.mode with
    | .track => e + m.W + m.h + 1 - m.M
    | .fixed => e - m.M
  { s with tracker :=
      { s.tracker with expected := some e, halfWidth := some m.W, decisionPoint := some f } }

/-- A boundary decision at row b (R47): the Map Store's cut-over, the tracker's next window, the opening
rule, the end of the newest entry and the new repeat, and the table's report. -/
def decideBoundary (b : Nat) (k : Kind) (s : State) : State :=
  let s1 := cutOver s
  match s1.maps.live with
  | none => s1
  | some m =>
    let (opens, st, rq) := openingRule s1.acq.state s1.acq.request
    let s2 := endNewest b k (setAcq st rq (setWindow m b s1))
    reportEmpty (if opens then openRepeat b k m s2 else s2)

/-! ### The marks (R36, R39, R42) -/

/-- The raw level is the one that means "mark present" (section 3.1). -/
def assertedLevel (m : SteeringMap) (level : Bool) : Bool := level != m.activeLow

/-- The tracker locked on the mark that ends a search (R39). -/
def endSearch (s : State) : State :=
  { s with tracker :=
      { s.tracker with state := .locked, coast := 0, searchStart := none, searchFault := false } }

/-- The tracker locked on a mark accepted in its window (R42). -/
def relock (s : State) : State :=
  { s with tracker := { s.tracker with state := .locked, coast := 0 } }

/-- A proposed boundary lies in the window in force (R42). -/
def inWindow (t : Tracker) (b : Nat) : Bool :=
  match t.expected, t.halfWidth with
  | some e, some w => decide (e ≤ b + w) && decide (b ≤ e + w)
  | _, _ => false

/-- A confirmed mark that proposes boundary b is judged (R39, R42). -/
def judgeMark (b : Nat) (s : State) : State :=
  match s.tracker.state with
  | .idle => s
  | .search => decideBoundary b .mark (endSearch s)
  | .locked => if inWindow s.tracker b then decideBoundary b .mark (relock s) else bump .strayMarks s
  | .coasting => if inWindow s.tracker b then decideBoundary b .mark (relock s) else bump .strayMarks s

/-- The pending qualification removed. -/
def dropQualification (s : State) : State :=
  { s with tracker := { s.tracker with qualification := none } }

/-- The pending qualification ends at the advance that brings the high-water mark to its confirm point
(R36). -/
def confirmDue (s : State) : Bool :=
  match s.tracker.qualification with
  | none => false
  | some q => decide (q.confirm = s.encoder.highWater.toNat)

/-- The end of the pending qualification: confirmed when the input is asserted, else failed (R36). -/
def endQualification (m : SteeringMap) (s : State) : State :=
  match s.tracker.qualification with
  | none => s
  | some q =>
    let s1 := dropQualification s
    if s1.tracker.markLevel.any (assertedLevel m) then judgeMark (q.edge + m.M) s1
    else bump .rejectedMarks s1

/-- A mark edge in an armed TRACK run (R34, R35): a qualification begins, or the edge is rejected because
one is pending. With a hold of 0 the qualification ends at the edge. -/
def acceptEdge (m : SteeringMap) (s : State) : State :=
  match s.tracker.qualification with
  | some _ => bump .rejectedMarks s
  | none =>
    let q : Qualification :=
      { edge := s.strobe.nextStrobe.toNat, confirm := s.encoder.highWater.toNat + m.h }
    let s1 := { s with tracker := { s.tracker with qualification := some q } }
    if m.h = 0 then endQualification m s1 else s1

/-- The at-high-water condition: armed with a reverse depth of 0 (R23). -/
def atHighWater (s : State) : Bool :=
  armed s && decide (s.encoder.position = s.encoder.highWater)

/-! ### What waits on the next-strobe number (R40, R43, R44, R46) -/

/-- What an increase of the next-strobe number sets off in the tracker. -/
inductive Watch where
  | nothing
  | searchFault
  | flywheel (e : Nat)
  | lost (e : Nat)
  | fixed (e : Nat)
deriving DecidableEq, Repr

/-- What the next-strobe number, as it stands, sets off (R40, R43, R44, R46). -/
def watchOf (m : SteeringMap) (s : State) : Watch :=
  let n := s.strobe.nextStrobe.toNat
  let t := s.tracker
  match t.state, m.mode with
  | .idle, _ => .nothing
  | .search, _ =>
    if t.searchFault = false ∧ t.searchStart.any (fun st => decide (n = st + 4 * m.N)) then .searchFault
    else .nothing
  | .locked, .fixed =>
    match t.expected with
    | none => .nothing
    | some e => if n = e - m.M then .fixed e else .nothing
  | .coasting, .fixed => .nothing
  | _, .track =>
    match t.expected, t.decisionPoint with
    | some e, some f =>
      if f ≤ n then (if t.coast < Config.coastLimit then .flywheel e else .lost e) else .nothing
    | _, _ => .nothing

/-- The flywheel decision at row e (R43). -/
def flywheelDecision (e : Nat) (s : State) : State :=
  decideBoundary e .flywheel
    { s with tracker := { s.tracker with state := .coasting, coast := s.tracker.coast + 1 } }

/-- The lost decision at row e (R44, R48, R86): the newest entry is ended, MARK_FAULT is raised, a pending
qualification is rejected, and a new search begins. -/
def lostDecision (e : Nat) (s : State) : State :=
  let s1 := raise .markFault (endNewest e .flywheel s)
  let s2 := if s1.tracker.qualification.isSome then bump .rejectedMarks s1 else s1
  let s3 :=
    { s2 with tracker :=
        { s2.tracker with
          state := .search
          qualification := none
          expected := none
          halfWidth := none
          decisionPoint := none
          coast := 0
          searchStart := some s2.strobe.nextStrobe.toNat
          searchFault := false } }
  reportEmpty s3

/-- The search fault (R40). -/
def searchFaultOccurs (s : State) : State :=
  raise .markFault { s with tracker := { s.tracker with searchFault := true } }

/-- What the increase of the next-strobe number sets off, carried out. -/
def actOnWatch (m : SteeringMap) (s : State) : State :=
  match watchOf m s with
  | .nothing => s
  | .searchFault => searchFaultOccurs s
  | .flywheel e => flywheelDecision e s
  | .lost e => lostDecision e s
  | .fixed e => decideBoundary e .fixed s

/-- The tracker at ARM, before the first FIXED decision (R38). -/
def armTracker (m : SteeringMap) (s : State) : State :=
  match m.mode with
  | .track =>
    { s with tracker :=
        { s.tracker with
          state := .search
          qualification := none
          expected := none
          halfWidth := none
          decisionPoint := none
          coast := 0
          searchStart := some 0
          searchFault := false } }
  | .fixed =>
    { s with tracker :=
        { s.tracker with
          state := .locked
          qualification := none
          expected := some m.M
          halfWidth := none
          decisionPoint := some 0
          coast := 0
          searchStart := none
          searchFault := false } }

end Sys2Proof.Machine
end

