-- ==== Sys2Proof/Machine/Acquisition.lean ====
section
/-! DEFINITION. The five acquisition requests, from the mailbox or from the job line, and the abort
(chapter 10). -/

namespace Sys2Proof.Machine

/-- The result of a request: its code and result data (R141). -/
structure RequestResult where
  code : ResultCode
  data : List Byte
deriving DecidableEq, Repr

/-- A result with no result data. -/
def plain (c : ResultCode) : RequestResult := { code := c, data := [] }

/-! ### ARM (R142) -/

/-- The values at arming (R33, R38, R66, R67, R102), with the acquisition state RUNNING. -/
def armBlocks (m : SteeringMap) (s : State) : State :=
  let s1 := clearRing s
  let en (l : Lane) : Bool := (m.lanes.get l).isSome
  let s2 : State :=
    { s1 with
      encoder := { s1.encoder with position := 0, highWater := 0, reverseFlag := false }
      strobe := { s1.strobe with phase := 0, nextStrobe := 0, issueIndex := 0, lastIssue := none }
      ring :=
        { s1.ring with
          step := Lanes.ofFn fun l => if en l then .inStep else .off
          mismatches := Lanes.every 0 }
      table := { s1.table with entries := [], nextSeq := 0, droppedBefore := 0 } }
  setAcq .running .none (armTracker m s2)

/-- The run begins; in FIXED mode the first boundary is decided at row M at the same event (R46, R142). -/
def beginRun (m : SteeringMap) (s : State) : State :=
  let s1 := armBlocks m s
  match m.mode with
  | .track => s1
  | .fixed => decideBoundary m.M .fixed s1

/-- An ARM request by the state it finds (R142). -/
def requestArm (s : State) : RequestResult × State :=
  match s.acq.state, s.maps.live with
  | .disarmed, some m => (plain .ok, beginRun m s)
  | .disarmed, none => (plain .noMap, s)
  | _, _ => (plain .busy, s)

/-! ### DISARM (R147) -/

/-- A DISARM request by the state it finds (R147). -/
def requestDisarm (s : State) : RequestResult × State :=
  match s.acq.state with
  | .disarmed => (plain .already, s)
  | .draining => (plain .already, s)
  | _ =>
    if s.table.entries = [] then
      ({ code := .ok, data := leBytes 1 (acqNumber .disarmed) }, enterDisarmed s)
    else ({ code := .ok, data := leBytes 1 (acqNumber .draining) }, setAcq .draining .none s)

/-! ### ABORT (R99, R100, R149) -/

/-- An entry that ABORT gives a CANCELLED record: OPEN, or OPENING with a descriptor index (R99). -/
def abortRecords (e : Entry) : Bool :=
  match e.state with
  | .opened => true
  | .opening => e.descIndex.isSome
  | .dropped => false

/-- An entry without an end row is given end kind CANCELLED (R99). -/
def cancelEnd (e : Entry) : Entry :=
  if e.endRow = none then { e with endKind := some .cancelled } else e

/-- The Repeat Table at ABORT: CANCELLED records in order of sequence number, then every entry's FILL jobs
removed, then the table cleared, and an opening operation in progress ended (R99, R100, R114). -/
def abortTable (s : State) : State :=
  let s1 :=
    (s.table.entries.filter abortRecords).foldl (fun t e => queueRecord (cancelEnd e) .cancelled t) s
  let s2 := removeJobs isEntryFill s1
  { s2 with
    table := { s2.table with entries := [] }
    ringUnit := { s2.ringUnit with opening := none } }

/-- The run ends at once (R149, R150). -/
def abortRun (s : State) : State := enterDisarmed (abortTable s)

/-- An ABORT request by the state it finds (R149). -/
def requestAbort (s : State) : RequestResult × State :=
  match s.acq.state with
  | .disarmed => (plain .already, s)
  | _ =>
    ({ code := .aborted, data := leBytes 1 ((s.table.entries.filter abortRecords).length) }, abortRun s)

/-! ### HOLD and RESUME (R145, R146) -/

/-- The pending request set. -/
def setRequest (rq : Request) (s : State) : State := { s with acq := { s.acq with request := rq } }

/-- A HOLD request by the state and pending request it finds (R145). -/
def requestHold (s : State) : RequestResult × State :=
  match s.acq.state, s.acq.request with
  | .running, .none => (plain .ok, setRequest .hold s)
  | .held, .resume => (plain .ok, setRequest .none s)
  | _, _ => (plain .already, s)

/-- A RESUME request by the state and pending request it finds (R146). -/
def requestResume (s : State) : RequestResult × State :=
  match s.acq.state, s.acq.request with
  | .held, .none => (plain .ok, setRequest .resume s)
  | .running, .hold => (plain .ok, setRequest .none s)
  | _, _ => (plain .already, s)

/-! ### The two sources of a request (R141, R152) -/

/-- In FAULTED every acquisition request is refused with DEVICE_FAULT (R141). -/
def unlessFaulted (request : State → RequestResult × State) (s : State) : RequestResult × State :=
  if s.profile.faulted then (plain .deviceFault, s) else request s

/-- A result that makes a line request a refused line action (R152). -/
def refusal : ResultCode → Bool
  | .already => true
  | .busy => true
  | .noMap => true
  | .deviceFault => true
  | _ => false

/-- A line request: no response; a refusal is counted (R141, R152). -/
def lineRequest (request : State → RequestResult × State) (s : State) : State :=
  let (r, s1) := unlessFaulted request s
  if refusal r.code then bump .refusedLine s1 else s1

/-- A commanded request: its result is the response's (R141, R158). -/
def commandedRequest (request : State → RequestResult × State) (c : TakenCommand) (s : State) : State :=
  let (r, s1) := unlessFaulted request s
  respond c.seq c.code r.code r.data s1

end Sys2Proof.Machine
end

