-- ==== Sys2Proof/Machine/Opening.lean ====
section
/-! DEFINITION. The opening operation of a repeat: the return count, the descriptor, and the two drops it can
end in (chapter 8, R87, R106). -/

namespace Sys2Proof.Machine

/-- The opening operation in progress set. -/
def setOpening (o : Option Opening) (s : State) : State :=
  { s with ringUnit := { s.ringUnit with opening := o } }

/-- The address of the return count in the control block (R116, R169). -/
def returnCountAddress (s : State) : Nat := s.profile.inForce.controlBlock + 0xF00

/-- An operation that waits on the record allowance makes its return-count read once the allowance is below
4 (R106, R116). -/
def pumpOpening (s : State) : State :=
  match s.ringUnit.opening with
  | some o =>
    if o.phase = .allowance ∧ recordAllowance s < Config.recordAllowance then
      requestRead .ring (returnCountAddress s) 4 (setOpening (some { o with phase := .returnCount }) s)
    else s
  | none => s

/-- The oldest entry in OPENING. -/
def oldestOpening (s : State) : Option Entry :=
  s.table.entries.find? fun e => decide (e.state = .opening)

/-- The entry whose operation begins next: the oldest in OPENING, while no operation is in progress and the
Ring Unit holds no read (R87, R100). -/
def nextOpening (s : State) : Option Entry :=
  if s.ringUnit.opening.isSome || ringReading s then none else oldestOpening s

/-- An opening operation begins (R87). -/
def beginOpening (s : State) : State :=
  match nextOpening s with
  | none => s
  | some e => pumpOpening (setOpening (some { key := e.key, phase := .allowance }) s)

/-! ### The return count (R115 to R118) -/

/-- The outstanding count (R115). -/
def outstanding (r : RingUnit) : BitVec 32 := r.taken - r.returned

/-- The return count that was read is judged: none stands for a failed read (R116, R117). -/
def judgeReturnCount (v : Option (BitVec 32)) (s : State) : State :=
  match v with
  | none => raise .busFault (bump .busFaults s)
  | some v =>
    if v - s.ringUnit.returned ≤ outstanding s.ringUnit then
      { s with ringUnit := { s.ringUnit with returned := v } }
    else raise .ringFault s

/-- An entry becomes DROPPED: its fill jobs at the head are discarded, and the free test is applied (R87,
R96, R107). -/
def dropState (key : Nat) (s : State) : State :=
  settleList (updateEntry key (fun e => { e with state := .dropped }) s)

/-- The drop with reason NO_DESCRIPTOR (R87, R89, R118). -/
def dropNoDescriptor (key : Nat) (s : State) : State :=
  closeTests (countDrop (dropState key (setOpening none s)))

/-- The address of a ring entry, which is that of its descriptor (R113). -/
def descriptorAddress (m : SteeringMap) (index : Nat) : Nat := m.ringBase + index * 512

/-- A descriptor is taken and its read requested (R118, R119). -/
def takeDescriptor (m : SteeringMap) (key : Nat) (s : State) : State :=
  let i := s.ringUnit.index
  let ru : RingUnit :=
    { taken := s.ringUnit.taken + 1
      returned := s.ringUnit.returned
      index := (i + 1) % m.B
      opening := some { key := key, phase := .descriptor } }
  requestRead .ring (descriptorAddress m i) 64
    (updateEntry key (fun e => { e with descIndex := some i }) { s with ringUnit := ru })

/-- The return count's completion: judged, then a descriptor is taken or none is free (R116 to R118). -/
def returnCountDone (m : SteeringMap) (key : Nat) (v : Option (BitVec 32)) (s : State) : State :=
  let s1 := judgeReturnCount v s
  if (outstanding s1.ringUnit).toNat < m.B then takeDescriptor m key s1
  else dropNoDescriptor key s1

/-! ### The descriptor (R119, R120) -/

/-- The drop with reason DESCRIPTOR_FAULT: the record is queued at once and takes the pending dropped-before
count before the drop is counted (R87, R89, R95, R120). -/
def dropDescriptorFault (key : Nat) (s : State) : State :=
  let s1 := dropState key (setOpening none s)
  let s2 :=
    match findEntry s1 key with
    | some e => queueRecord e .descriptorFault s1
    | none => s1
  closeTests (countDrop s2)

/-- The entry becomes OPEN with its descriptor's buffer (R87, R119). -/
def openEntry (key : Nat) (b : Buffer) (s : State) : State :=
  closeTests
    (settleList (updateEntry key (fun e => { e with state := .opened, buffer := some b }) (setOpening none s)))

/-- The descriptor's completion: none stands for a failed read (R119). -/
def descriptorDone (m : SteeringMap) (key : Nat) (bytes : Option (List Byte)) (s : State) : State :=
  match bytes with
  | none => dropDescriptorFault key (raise .busFault (bump .busFaults s))
  | some bs =>
    match findEntry s key with
    | none => setOpening none s
    | some e =>
      let b := readDescriptor bs
      if descriptorValid b (imageWidth m.Lp e.placement * m.P) then openEntry key b s
      else dropDescriptorFault key s

/-- A completion of the Ring Unit's read: one that belongs to no operation, ended by ABORT, is discarded
(R100). `bytes` is none for status ERROR. -/
def ringReadDone (bytes : Option (List Byte)) (s : State) : State :=
  match s.ringUnit.opening, s.maps.live with
  | some o, some m =>
    match o.phase with
    | .allowance => s
    | .returnCount => returnCountDone m o.key (bytes.map fun bs => BitVec.ofNat 32 (leNat bs)) s
    | .descriptor => descriptorDone m o.key bytes s
  | _, _ => s

end Sys2Proof.Machine
end

