-- ==== Sys2Proof/Machine/Mailbox.lean ====
section
/-! DEFINITION. The Mailbox Unit's polling and its commands' shared parts, the loading of maps, and the saving
of profiles (chapters 9 and 11). -/

namespace Sys2Proof.Machine

/-! ### Polling (R155, R157) -/

/-- The poll in progress set. -/
def setPoll (p : PollState) (s : State) : State := { s with mailbox := { s.mailbox with poll := p } }

/-- The command in progress set. -/
def setProgress (p : Option Progress) (s : State) : State :=
  { s with mailbox := { s.mailbox with inProgress := p } }

/-- A poll may begin: polling is running, and no poll and no command is in progress (R155). -/
def pollMayBegin (s : State) : Bool :=
  !pollingSuspended s && decide (s.mailbox.poll = .none) && s.mailbox.taken.isNone

/-- A poll begins with a read of the command sequence (R155). -/
def beginPoll (s : State) : State :=
  requestRead .mailbox s.profile.inForce.controlBlock 4 (setPoll .sequence s)

/-- The result data of READY (R157, R169). -/
def readyData (s : State) : List Byte :=
  leBytes 1 (resetCauseNumber s.mailbox.resetCause) ++ leBytes 1 (loadStatusNumber s.profile.loadStatus) ++
    leBytes 1 (if s.profile.faulted then 1 else 0) ++ zeros 1

/-- The first poll after a reset adopts the sequence and queues READY (R157). -/
def becomeReady (v : BitVec 32) (s : State) : State :=
  respond v 0 .ready (readyData s) { s with mailbox := { s.mailbox with lastSeen := some v, poll := .none } }

/-- The sequence read is done (R155). -/
def sequenceReadDone (bytes : Option (List Byte)) (s : State) : State :=
  match bytes with
  | none => setPoll .none (raise .busFault (bump .busFaults s))
  | some bs =>
    let v := BitVec.ofNat 32 (leNat bs)
    match s.mailbox.lastSeen with
    | none => becomeReady v s
    | some last =>
      if v = last then setPoll .none s
      else requestRead .mailbox s.profile.inForce.controlBlock 64 (setPoll .command s)

/-- The command-area read is done: the command is taken when its sequence differs from the last seen
(R155). It waits in `taken` for the step that carries it out. -/
def commandReadDone (bytes : Option (List Byte)) (s : State) : State :=
  match bytes with
  | none => setPoll .none (raise .busFault (bump .busFaults s))
  | some bs =>
    let c := readCommand bs
    if s.mailbox.lastSeen = some c.seq then setPoll .none s
    else { s with mailbox := { s.mailbox with lastSeen := some c.seq, poll := .none, taken := some c } }

/-- A completion of the Mailbox Unit's read. -/
def mailboxReadDone (bytes : Option (List Byte)) (s : State) : State :=
  match s.mailbox.poll with
  | .none => s
  | .sequence => sequenceReadDone bytes s
  | .command => commandReadDone bytes s

/-! ### Carrying out a command (R158) -/

/-- The command taken is carried out when its code is the step's; with none taken, or another code, the
step does nothing. -/
def carryOut (code : Byte) (f : TakenCommand → State → State) (s : State) : State :=
  match s.mailbox.taken with
  | none => s
  | some c =>
    if c.code = code then f c { s with mailbox := { s.mailbox with taken := none } } else s

/-- A command refused in FAULTED is answered DEVICE_FAULT and changes no state (R158). -/
def refusedIfFaulted (f : TakenCommand → State → State) (c : TakenCommand) (s : State) : State :=
  if s.profile.faulted then respond c.seq c.code .deviceFault [] s else f c s

/-! ### LOAD_MAP (R130 to R133) -/

/-- LOAD_MAP taken: its address is checked, and the read of the record is requested (R130). -/
def takeLoadMap (c : TakenCommand) (s : State) : State :=
  let a := paramAddress c
  if top48 < a + 512 then respond c.seq c.code .invalidParam [] s
  else requestRead .maps a 512 (setProgress (some (.loadMap c.seq a)) s)

/-- The load ends, and its response is queued (R133). -/
def endLoad (seq : BitVec 32) (result : ResultCode) (data : List Byte) (s : State) : State :=
  respond seq codeLoadMap result data (setProgress none s)

/-- An accepted map is disposed of by the acquisition state (R133, R135). -/
def disposeMap (seq : BitVec 32) (m : SteeringMap) (s : State) : State :=
  let gen := leBytes 4 m.generation.toNat
  match s.acq.state, s.maps.live with
  | .disarmed, _ => endLoad seq .live gen (makeLive m s)
  | _, none => endLoad seq .staged gen { s with maps := { s.maps with staged := some m } }
  | _, some old =>
    match firstFrozenDifference old m with
    | some n => endLoad seq .refusedFrozen (leBytes 1 n) s
    | none => endLoad seq .staged gen { s with maps := { s.maps with staged := some m } }

/-- A completion of the Map Store's read (R131, R132). -/
def mapReadDone (bytes : Option (List Byte)) (s : State) : State :=
  match s.mailbox.inProgress with
  | some (.loadMap seq _) =>
    match bytes with
    | none => endLoad seq .readFault [] (bump .busFaults s)
    | some bs =>
      match failingCheck bs with
      | some n => endLoad seq .invalidMap (leBytes 1 n) s
      | none => disposeMap seq (readMap bs) s
  | _ => s

/-! ### SAVE_PROFILE (R167) -/

/-- SAVE_PROFILE taken: the lock and the address are checked, and the image's read is requested (R167). -/
def takeSaveProfile (c : TakenCommand) (s : State) : State :=
  let a := paramAddress c
  if s.profile.lockFixed then respond c.seq c.code .locked [] s
  else if top48 < a + 64 then respond c.seq c.code .invalidParam [] s
  else requestRead .profile a 64 (setProgress (some (.saveReading c.seq a)) s)

/-- The save ends, and its response is queued (R167). -/
def endSave (seq : BitVec 32) (result : ResultCode) (s : State) : State :=
  respond seq codeSaveProfile result [] (setProgress none s)

/-- A completion of the Profile Store's read: an image within range begins to be programmed (R167). -/
def profileReadDone (bytes : Option (List Byte)) (s : State) : State :=
  match s.mailbox.inProgress with
  | some (.saveReading seq _) =>
    match bytes with
    | none => endSave seq .readFault (bump .busFaults s)
    | some img =>
      match readProfileImage img with
      | none => endSave seq .invalidParam s
      | some _ => setProgress (some (.saveProgramming seq img)) s
  | _ => s

/-- Programming completes: flash holds the image and its CRC, a saved lock FIXED comes into force, and the
save ends with OK (R167). -/
def programmingDone (s : State) : State :=
  match s.mailbox.inProgress with
  | some (.saveProgramming seq img) =>
    let fixed := (readProfileImage img).any Profile.lockFixed
    endSave seq .ok
      { s with profile :=
          { s.profile with flash := programmedFlash img, lockFixed := s.profile.lockFixed || fixed } }
  | _ => s

/-! ### A completion of a bridge read (R9) -/

/-- A completion delivered to the unit that issued the read; none stands for status ERROR. -/
def deliver (u : ReadUnit) (bytes : Option (List Byte)) (s : State) : State :=
  match u with
  | .ring => ringReadDone bytes s
  | .mailbox => mailboxReadDone bytes s
  | .maps => mapReadDone bytes s
  | .profile => profileReadDone bytes s

end Sys2Proof.Machine
end

