-- ==== Sys2Proof/Machine/Reset.lean ====
section
/-! DEFINITION. The reset every cause performs (R154), and the job line (R151 to R153). -/

namespace Sys2Proof.Machine

/-- What an interrupted programming leaves, by a free value: any 66 bytes that the load judges CORRUPT, or all
bytes still erased (R164, R167, log entry 7). Every content of either kind is named by some value. -/
def freeFlash (n : Nat) : List Byte :=
  if (loadProfile (leBytes 66 n)).1 = .corrupt then leBytes 66 n else List.replicate 66 0xFF

/-- A save that was programming when the reset came leaves flash as far as programming had reached
(R167). -/
def abandonProgramming (s : State) : State :=
  match s.mailbox.inProgress with
  | some (.saveProgramming _ _) =>
    let (n, s1) := takeChoice s
    { s1 with profile := { s1.profile with flash := freeFlash n } }
  | _ => s

/-- The tags held back over a reset: those of reads that had left the outlet port and had received no
completion, and those already held back (R16). -/
def tagsHeldBack (s : State) : List Tag :=
  s.heldTags ++ s.reads.filterMap fun r =>
    match r.stage with
    | .left t => some t
    | _ => none

/-- The Profile Store after a reset: the profile loaded from flash (R164) and the factory record checked
(R165). -/
def loadedStore (p : ProfileStore) : ProfileStore :=
  let (status, prof) := loadProfile p.flash
  { p with
    inForce := prof
    loadStatus := status
    lockFixed := prof.lockFixed
    faulted := decide (crc16 p.revision ≠ p.revisionCrc) }

/-- The inlet stream's transactions held at the port stay there; everything else takes its value after a
reset with this cause (R16, R17, R32, R51, R66, R67, R102, R111, R114, R127, R140, R154, R156, R162). -/
def performReset (cause : ResetCause) (s0 : State) : State :=
  let s := abandonProgramming s0
  let store := loadedStore s.profile
  { clock := s.clock
    inletHeld := s.inletHeld
    decode := []
    outlet := []
    reads := []
    heldTags := tagsHeldBack s
    returned := s.returned
    sent := s.sent
    encoder := Encoder.initial
    strobe := Strobe.initial
    tracker := Tracker.initial
    ring := LineRing.initial
    maps := { live := none, staged := none }
    table := { nextKey := 0, entries := [], nextSeq := 0, droppedBefore := 0 }
    list := { jobs := [], progress := 0 }
    ringUnit := { taken := 0, returned := 0, index := 0, opening := none }
    acq := { state := .disarmed, request := .none, jobLevel := none, fallingSeen := false }
    mailbox :=
      { lastSeen := none
        poll := .none
        taken := none
        inProgress := none
        nextPoll := s.clock + store.inForce.pollPeriod * Config.pollUnit
        resetCause := cause }
    attention :=
      { causes := if store.loadStatus = .corrupt then causeSet .profileFault else 0
        mask := store.inForce.defaultMask }
    profile := store
    counters := Counters.zero
    resetLine := s.resetLine
    choices := s.choices
    choiceCount := s.choiceCount
    pending := s.pending }

/-- A reset, after which the decoder takes what the port holds, with the aperture absent (R16). -/
def resetBridge (cause : ResetCause) (s : State) : State := settleInlet (performReset cause s)

/-! ### The job line (R151 to R153) -/

/-- The action of a falling edge under the profile's function (R151). -/
def fallingEdge (s : State) : State :=
  match s.profile.inForce.jobFunction with
  | .none => s
  | .hold => lineRequest requestHold s
  | .run => lineRequest requestDisarm s
  | .stop => lineRequest requestAbort s
  | .reset => { s with acq := { s.acq with fallingSeen := true } }

/-- The action of a rising edge under the profile's function (R151, R153). -/
def risingEdge (s : State) : State :=
  match s.profile.inForce.jobFunction with
  | .none => s
  | .hold => lineRequest requestResume s
  | .run => lineRequest requestArm s
  | .stop => s
  | .reset => if s.acq.fallingSeen then resetBridge .jobLine s else s

/-- An observation of the job line: the first after a reset sets the level; a change is an edge (R151). -/
def observeJobLine (level : Bool) (s : State) : State :=
  let s1 := { s with acq := { s.acq with jobLevel := some level } }
  match s.acq.jobLevel with
  | none => s1
  | some old =>
    if old = level then s1
    else if level then risingEdge s1
    else fallingEdge s1

end Sys2Proof.Machine
end

