-- ==== Sys2Proof/Machine/InlinePath.lean ====
section
/-! DEFINITION. The steps of the inline path: INLET_TRANSACTION_TAKEN, OUTLET_PLACE_GRANT,
OUTLET_TRANSACTION_LEAVES, RESET_DRAIN_END, READ_COMPLETION and TAG_ASSIGNED. -/

namespace Sys2Proof.Machine

/-- A step that a held bridge does not make: while the reset line is asserted every block holds its state
(R154). -/
def unlessReset (f : State → State) (s : State) : Host.Outcome State Fault Refusal :=
  .next (if s.resetLine then s else f s)

/-- INLET_TRANSACTION_TAKEN (R2): the transaction joins those held at the port, and the decoder takes the
next when the transaction in decode has been disposed of. A stalled port holds it (R13). -/
def execInletTransactionTaken (t : InletTxn) (s : State) : Host.Outcome State Fault Refusal :=
  .next (settleInlet { s with inletHeld := s.inletHeld ++ [t] })

/-! ### OUTLET_PLACE_GRANT (R12) -/

/-- A read holds a tag and waits for an outlet place. -/
def readWaits (r : BridgeRead) : Bool :=
  match r.stage with
  | .waiting _ => true
  | _ => false

/-- The bridge read that is granted first: one of the Ring Unit, else another (R12). -/
def waitingRead (s : State) : Option BridgeRead :=
  match s.reads.find? (fun r => readWaits r && decide (r.unit = .ring)) with
  | some r => some r
  | none => s.reads.find? readWaits

/-- A bridge read enters the Outlet Queue (R10). -/
def grantRead (r : BridgeRead) (s : State) : State :=
  match r.stage with
  | .waiting t =>
    let here (x : BridgeRead) : Bool := decide (x.stage = .waiting t)
    enterOutlet (.read r.addr r.len t)
      { s with reads := replaceFirst here (fun x => { x with stage := .queued t }) s.reads }
  | _ => s

/-- The bytes of a fill from row byte offset c on: byte c′ is byte c′ mod P of the fill value (R108). -/
def fillPattern (value : List Byte) (c n : Nat) : List Byte :=
  (List.range n).map fun i => value.getD ((c + i) % value.length) 0

/-- A ready FILL job issues its next write of up to 512 bytes, and leaves at its last (R108). -/
def grantFill (f : FillJob) (b : Buffer) (s : State) : State :=
  let done := s.list.progress * Config.payloadLimit
  let n := min Config.payloadLimit (f.len - done)
  let s1 :=
    enterOutlet (.write (bufferPlace b f.row (f.column + done)) (fillPattern f.value (f.column + done) n)) s
  if f.len ≤ done + n then headLeaves s1
  else { s1 with list := { s1.list with progress := s1.list.progress + 1 } }

/-- A RECORD job issues its one write: it leaves, REPEAT_DONE is raised, and an opening that waits on the
record allowance goes on when it can (R106, R109, R124). -/
def grantRecord (r : RecordJob) (s : State) : State :=
  pumpOpening (raise .repeatDone (headLeaves (enterOutlet (.write r.area (recordBytes r)) s)))

/-- A RESPONSE job issues its result data in writes of up to 512 bytes, then its header; at the last write
it leaves and COMMAND_DONE is raised (R110, R169). -/
def grantResponse (r : Response) (s : State) : State :=
  let done := s.list.progress * Config.payloadLimit
  let cb := s.profile.inForce.controlBlock
  if done < r.data.length then
    let s1 := enterOutlet (.write (cb + 0x80 + done) ((r.data.drop done).take Config.payloadLimit)) s
    { s1 with list := { s1.list with progress := s1.list.progress + 1 } }
  else raise .commandDone (headLeaves (enterOutlet (.write (cb + 0x40) (responseHeader r)) s))

/-- The head job issues its next write; none when it has no write ready (R12, R107). -/
def grantList (s : State) : Option State :=
  match s.list.jobs with
  | [] => none
  | .record r :: _ => some (grantRecord r s)
  | .response r :: _ => some (grantResponse r s)
  | .fill f :: _ =>
    match resolveFill s.table.entries f with
    | .ready b => some (grantFill f b s)
    | .waits => none
    | .discarded => none

/-- The head piece is ready: an aperture piece is not while its slot record is OPEN with a reference to an
entry in OPENING (R6). -/
def pieceReady (s : State) : Piece → Bool
  | .outside _ _ => true
  | .read _ _ _ => true
  | .aperture lane slot _ _ =>
    let r := slotRecord s lane slot
    !(decide (r.state = .opened) && (recordEntry s r).any fun e => decide (e.state = .opening))

/-- The head piece is handed on (R6). -/
def handOn (p : Piece) (s : State) : State :=
  match p with
  | .outside a bytes => enterOutlet (.write a bytes) s
  | .read a n t => enterOutlet (.read a n t) s
  | .aperture lane slot x bytes => accountPiece lane slot x bytes s

/-- The inlet stream is granted the place: its head piece is handed on, and when it was the last the decoder
takes the next transaction (R2, R6). None when no piece is ready. -/
def grantInlet (s : State) : Option State :=
  match s.decode with
  | [] => none
  | p :: rest =>
    if pieceReady s p then some (settleInlet (handOn p { s with decode := rest })) else none

/-- One place granted to the highest-ranked waiting source: a bridge read, then the internal write list, then
the inlet stream (R12). With no source waiting nothing is granted. -/
def grantPlace (s : State) : State :=
  match waitingRead s with
  | some r => grantRead r s
  | none =>
    match grantList s with
    | some t => t
    | none => (grantInlet s).getD s

/-- OUTLET_PLACE_GRANT (R12): nothing is granted while the queue is full or the outlet drain of a RESET
command is in force. -/
def execOutletPlaceGrant (s : State) : Host.Outcome State Fault Refusal :=
  unlessReset (fun s => if s.outlet.length < Config.outletPlaces ∧ draining s = false then grantPlace s else s) s

/-! ### OUTLET_TRANSACTION_LEAVES (R11) -/

/-- A bridge read has left the outlet port (R16). -/
def readLeft (t : OutTxn) (s : State) : State :=
  match t with
  | .write _ _ => s
  | .read _ _ tag =>
    let here (x : BridgeRead) : Bool := decide (x.stage = .queued tag)
    { s with reads := replaceFirst here (fun x => { x with stage := .left tag }) s.reads }

/-- The head of the Outlet Queue leaves (R11). -/
def leaveOutlet (s : State) : State :=
  match s.outlet with
  | [] => s
  | t :: rest => readLeft t { s with outlet := rest, sent := s.sent ++ [t] }

/-- OUTLET_TRANSACTION_LEAVES (R11). -/
def execOutletTransactionLeaves (s : State) : Host.Outcome State Fault Refusal :=
  unlessReset leaveOutlet s

/-! ### RESET_DRAIN_END (R17) -/

/-- RESET_DRAIN_END (R17): the queue is empty during the drain of a RESET command, and the reset with cause
COMMAND is performed. -/
def execResetDrainEnd (s : State) : Host.Outcome State Fault Refusal :=
  unlessReset (fun s => if draining s ∧ s.outlet = [] then resetBridge .command s else s) s

/-! ### READ_COMPLETION (R9) -/

/-- The data delivered with a completion: none for status ERROR, or for OK with another length than was
asked for (R9). -/
def deliveredData (r : BridgeRead) (c : Completion) : Option (List Byte) :=
  if c.ok ∧ c.data.length = r.len then some c.data else none

/-- A completion on a reserved tag: delivered to the unit whose read is outstanding on it, or discarded, and
a tag held back at a reset is freed. While the reset line is asserted it is discarded, and ends the read
outstanding on its tag (R9, R16, R154). -/
def reservedCompletion (c : Completion) (s : State) : State :=
  let onTag (r : BridgeRead) : Bool := decide (stageTag r.stage = some c.tag)
  match s.reads.find? onTag with
  | none => { s with heldTags := s.heldTags.filter fun t => decide (t ≠ c.tag) }
  | some r =>
    let s1 := { s with reads := removeFirst onTag s.reads }
    if s.resetLine then s1 else deliver r.unit (deliveredData r c) s1

/-- READ_COMPLETION (R9): tags 0 to 239 go back to the grabber unchanged, in any condition. -/
def execReadCompletion (c : Completion) (s : State) : Host.Outcome State Fault Refusal :=
  .next
    (if c.tag.toNat < Config.firstReservedTag then returnToInlet c s else reservedCompletion c s)

/-! ### TAG_ASSIGNED (R10) -/

/-- The units whose requests wait for a tag, in the order of their requests. -/
def untaggedUnits (s : State) : List ReadUnit :=
  s.reads.filterMap fun r => if r.stage = .untagged then some r.unit else none

/-- A request that waits for a tag is given the lowest free one. When several wait, which of them is open
(R10). -/
def assignTag (s : State) : State :=
  match lowestFreeTag s with
  | none => s
  | some t =>
    let (order, s1) := freeOrder (untaggedUnits s) s
    match order with
    | [] => s
    | u :: _ =>
      let first (r : BridgeRead) : Bool := decide (r.unit = u) && decide (r.stage = .untagged)
      { s1 with reads := replaceFirst first (fun r => { r with stage := .waiting t }) s1.reads }

/-- TAG_ASSIGNED (R10). -/
def execTagAssigned (s : State) : Host.Outcome State Fault Refusal :=
  unlessReset assignTag s

end Sys2Proof.Machine
end

