-- ==== Sys2Proof/Machine/WebTiming.lean ====
section
/-! DEFINITION. The steps of the web: ENCODER_TRANSITION, STROBE_PULSE_END, MARK_EDGE and
OPENING_OPERATION_BEGIN (chapters 2, 3 and 6). -/

namespace Sys2Proof.Machine

/-! ### Quadrature (R18) -/

/-- What an observation of the phase pair is. -/
inductive Transition where
  | none
  | forward
  | reverse
  | illegal
deriving DecidableEq, Repr

/-- The pair after a forward transition: 00, 10, 11, 01 and round again (R18). -/
def forwardPair (p : PhasePair) : PhasePair := { a := !p.b, b := p.a }

/-- The classification of a change of the pair, with no inversion (R18). -/
def classifyPair (last new : PhasePair) : Transition :=
  if new = last then .none
  else if new = forwardPair last then .forward
  else if last = forwardPair new then .reverse
  else .illegal

/-- The live map's direction invert swaps forward and reverse; with no map live nothing is swapped (R18). -/
def invertTransition (invert : Bool) (t : Transition) : Transition :=
  if invert then
    match t with
    | .forward => .reverse
    | .reverse => .forward
    | other => other
  else t

/-! ### Strobes (R24 to R28) -/

/-- The spacing test (R26): the first strobe since ARM, no minimum, or at least the minimum since the last
issue. -/
def spacingPasses (m : SteeringMap) (s : State) : Bool :=
  match s.strobe.lastIssue with
  | none => true
  | some t => decide (m.minSpacing = 0) || decide (m.minSpacing ≤ s.clock - t)

/-- A strobe is issued (R27): it takes an issue index, drives the strobe line for 1 µs (R29), and binds. -/
def issueStrobe (m : SteeringMap) (k : Nat) (s : State) : State :=
  let i := s.strobe.issueIndex
  bindStrobe m i k
    { s with strobe :=
        { s.strobe with
          issueIndex := i + 1
          lastIssue := some s.clock
          lineUntil := some (s.clock + Config.pulsePeriods) } }

/-- A strobe is skipped (R28, R91). -/
def skipStrobe (m : SteeringMap) (k : Nat) (s : State) : State :=
  skipRows m k (raise .overspeed (bump .skippedStrobes s))

/-- A strobe that has fallen due is issued or skipped (R26), and the tests of the entries follow its
retirements (R93, R96). -/
def issueOrSkip (m : SteeringMap) (k : Nat) (s : State) : State :=
  if armed s then
    closeTests (if spacingPasses m s then issueStrobe m k s else skipStrobe m k s)
  else s

/-! ### A high-water advance (R23) -/

/-- What can come about at one high-water advance. Their order among themselves is left open (R36, R40,
R43, log entry 1). -/
inductive AdvancePart where
  | confirm
  | watch
  | strobe (k : Nat)
deriving DecidableEq, Repr

/-- One part of an advance carried out. -/
def actPart (m : SteeringMap) (p : AdvancePart) (s : State) : State :=
  match p with
  | .confirm => if confirmDue s then endQualification (s.maps.live.getD m) s else s
  | .watch => actOnWatch (s.maps.live.getD m) s
  | .strobe k => issueOrSkip m k s

/-- The parts of an advance at which strobe k falls due. The next-strobe number is watched when it sets
something off as things stand, and whenever a confirmation comes with it: a mark accepted first may move
the window it is watched against (R36, R43). -/
def dueParts (m : SteeringMap) (k : Nat) (s : State) : List AdvancePart :=
  if confirmDue s then [.confirm, .watch, .strobe k]
  else if watchOf m s = .nothing then [.strobe k]
  else [.watch, .strobe k]

/-- The phase step of an advance (R24): below Q only a confirmation can come about; at Q a strobe falls due
and the next-strobe number increases (R25). -/
def highWaterAdvance (m : SteeringMap) (s : State) : State :=
  let phase := s.strobe.phase + 65536
  if phase < m.Q then actPart m .confirm { s with strobe := { s.strobe with phase := phase } }
  else
    let k := s.strobe.nextStrobe
    let s1 := { s with strobe := { s.strobe with phase := phase - m.Q, nextStrobe := k + 1 } }
    let (parts, s2) := freeOrder (dueParts m k.toNat s1) s1
    parts.foldl (fun t p => actPart m p t) s2

/-! ### Counts (R20 to R22, R30) -/

/-- The reverse depth: high-water mark − position, modulo 2^48 (R21). -/
def reverseDepth (s : State) : BitVec 48 := s.encoder.highWater - s.encoder.position

/-- The position moved by a count. -/
def setPosition (p : BitVec 48) (s : State) : State := { s with encoder := { s.encoder with position := p } }

/-- The reverse excursion flag set. -/
def setReverseFlag (b : Bool) (s : State) : State := { s with encoder := { s.encoder with reverseFlag := b } }

/-- A forward count while armed (R21, R22, R30). -/
def armedForward (m : SteeringMap) (s : State) : State :=
  if reverseDepth s = 0 then
    if s.encoder.highWater = BitVec.allOnes 48 then abortRun s
    else
      highWaterAdvance m
        { s with encoder :=
            { s.encoder with
              position := s.encoder.position + 1
              highWater := s.encoder.highWater + 1 } }
  else
    let s1 := setPosition (s.encoder.position + 1) s
    if reverseDepth s1 = 0 then setReverseFlag false s1 else s1

/-- A reverse count while armed (R21, R22). -/
def armedReverse (m : SteeringMap) (s : State) : State :=
  if reverseDepth s = BitVec.allOnes 48 then s
  else
    let s1 := setPosition (s.encoder.position - 1) s
    if (reverseDepth s1).toNat = m.reverseLimit ∧ s1.encoder.reverseFlag = false then
      setReverseFlag true (raise .webReverse s1)
    else s1

/-- A transition acted on (R19 to R21). -/
def actOnTransition (t : Transition) (s : State) : State :=
  match t with
  | .none => s
  | .illegal => bump .encoderFaults (raise .encoderFault s)
  | .forward =>
    match armed s, s.maps.live with
    | true, some m => armedForward m s
    | _, _ => setPosition (s.encoder.position + 1) s
  | .reverse =>
    match armed s, s.maps.live with
    | true, some m => armedReverse m s
    | _, _ => setPosition (s.encoder.position - 1) s

/-- An observation of the phase pair: the first after a reset sets it; a change is a transition (R18). -/
def observePair (pair : PhasePair) (s : State) : State :=
  let s1 := { s with encoder := { s.encoder with lastPair := some pair } }
  match s.encoder.lastPair with
  | none => s1
  | some last =>
    let invert := s.maps.live.any SteeringMap.invert
    actOnTransition (invertTransition invert (classifyPair last pair)) s1

/-- ENCODER_TRANSITION (R18), `elapsed` reference periods after the time the clock holds. -/
def execEncoderTransition (pair : PhasePair) (elapsed : Nat) (s : State) : Host.Outcome State Fault Refusal :=
  unlessReset (fun s => observePair pair (setClock (s.clock + elapsed) s)) s

/-! ### STROBE_PULSE_END (R29) -/

/-- The pulse in progress runs to its end. -/
def endPulse (s : State) : State :=
  match s.strobe.lineUntil with
  | none => s
  | some u => setClock (max s.clock u) s

/-- STROBE_PULSE_END (R29): the strobe line becomes inactive 1 µs after the last issue. -/
def execStrobePulseEnd (s : State) : Host.Outcome State Fault Refusal :=
  unlessReset endPulse s

/-! ### MARK_EDGE (R34) -/

/-- A mark edge acted on: in TRACK mode, with the tracker not IDLE and the web at high water (R34). -/
def actOnEdge (m : SteeringMap) (s : State) : State :=
  if s.tracker.state ≠ .idle ∧ m.mode = .track ∧ atHighWater s then acceptEdge m s else s

/-- An observation of the mark input: the first after a reset sets the level; a change to the asserted level
is a mark edge (R34). -/
def observeMark (level : Bool) (s : State) : State :=
  let s1 := { s with tracker := { s.tracker with markLevel := some level } }
  match s.tracker.markLevel, s.maps.live with
  | some old, some m =>
    if assertedLevel m old = false ∧ assertedLevel m level = true then actOnEdge m s1 else s1
  | _, _ => s1

/-- MARK_EDGE (R34). -/
def execMarkEdge (level : Bool) (s : State) : Host.Outcome State Fault Refusal :=
  unlessReset (observeMark level) s

/-! ### OPENING_OPERATION_BEGIN (R87) -/

/-- OPENING_OPERATION_BEGIN (R87). -/
def execOpeningOperationBegin (s : State) : Host.Outcome State Fault Refusal :=
  unlessReset beginOpening s

end Sys2Proof.Machine
end

