-- ==== Sys2Proof/Machine/Commands.lean ====
section
/-! DEFINITION. The poll timer and the steps of the mailbox commands (chapters 10 and 11). -/

namespace Sys2Proof.Machine

/-! ### POLL_TIMER_EXPIRY (R155) -/

/-- The poll timer expires: its next expiry is one poll period later, and a poll begins if one may. -/
def pollTimerExpires (s : State) : State :=
  let s1 := setClock (max s.clock s.mailbox.nextPoll) s
  let s2 :=
    { s1 with mailbox :=
        { s1.mailbox with
          nextPoll := s1.mailbox.nextPoll + s1.profile.inForce.pollPeriod * Config.pollUnit } }
  if pollMayBegin s2 then beginPoll s2 else s2

/-- POLL_TIMER_EXPIRY (R155). -/
def execPollTimerExpiry (s : State) : Host.Outcome State Fault Refusal :=
  unlessReset pollTimerExpires s

/-! ### The acquisition requests (R142 to R149) -/

/-- ARM (R142). -/
def execArm (s : State) : Host.Outcome State Fault Refusal :=
  unlessReset (carryOut codeArm (commandedRequest requestArm)) s

/-- DISARM (R147). -/
def execDisarm (s : State) : Host.Outcome State Fault Refusal :=
  unlessReset (carryOut codeDisarm (commandedRequest requestDisarm)) s

/-- ABORT (R149). -/
def execAbort (s : State) : Host.Outcome State Fault Refusal :=
  unlessReset (carryOut codeAbort (commandedRequest requestAbort)) s

/-- HOLD (R145). -/
def execHold (s : State) : Host.Outcome State Fault Refusal :=
  unlessReset (carryOut codeHold (commandedRequest requestHold)) s

/-- RESUME (R146). -/
def execResume (s : State) : Host.Outcome State Fault Refusal :=
  unlessReset (carryOut codeResume (commandedRequest requestResume)) s

/-! ### LOAD_MAP, STATUS, ACK and SET_MASK -/

/-- LOAD_MAP (R130). -/
def execLoadMap (s : State) : Host.Outcome State Fault Refusal :=
  unlessReset (carryOut codeLoadMap (refusedIfFaulted takeLoadMap)) s

/-- STATUS taken: the snapshot is formed, and the counters are cleared after it when asked (R159). -/
def takeStatus (c : TakenCommand) (s : State) : State :=
  let data := snapshot s
  let s1 := if paramClear c then { s with counters := Counters.zero } else s
  respond c.seq c.code .ok data s1

/-- STATUS (R159), carried out in FAULTED too (R158). -/
def execStatus (s : State) : Host.Outcome State Fault Refusal :=
  unlessReset (carryOut codeStatus takeStatus) s

/-- ACK taken: the named causes leave the pending set (R160). -/
def takeAck (c : TakenCommand) (s : State) : State :=
  let causes := s.attention.causes &&& ~~~(paramSet c)
  respond c.seq c.code .ok (leBytes 2 causes.toNat)
    { s with attention := { s.attention with causes := causes } }

/-- ACK (R160). -/
def execAck (s : State) : Host.Outcome State Fault Refusal :=
  unlessReset (carryOut codeAck (refusedIfFaulted takeAck)) s

/-- SET_MASK taken: the set becomes the enable mask, and the old mask is answered (R161). -/
def takeSetMask (c : TakenCommand) (s : State) : State :=
  respond c.seq c.code .ok (leBytes 2 s.attention.mask.toNat)
    { s with attention := { s.attention with mask := paramSet c } }

/-- SET_MASK (R161). -/
def execSetMask (s : State) : Host.Outcome State Fault Refusal :=
  unlessReset (carryOut codeSetMask (refusedIfFaulted takeSetMask)) s

/-! ### The profile commands -/

/-- READ_PROFILE taken: the flash bytes, the load status and the lock in force (R166, R169). -/
def takeReadProfile (c : TakenCommand) (s : State) : State :=
  respond c.seq c.code .ok
    (s.profile.flash ++ leBytes 1 (loadStatusNumber s.profile.loadStatus) ++
      leBytes 1 (if s.profile.lockFixed then 1 else 0)) s

/-- READ_PROFILE (R166). -/
def execReadProfile (s : State) : Host.Outcome State Fault Refusal :=
  unlessReset (carryOut codeReadProfile (refusedIfFaulted takeReadProfile)) s

/-- SAVE_PROFILE (R167). -/
def execSaveProfile (s : State) : Host.Outcome State Fault Refusal :=
  unlessReset (carryOut codeSaveProfile (refusedIfFaulted takeSaveProfile)) s

/-- PROFILE_PROGRAMMING_DONE (R167). -/
def execProfileProgrammingDone (s : State) : Host.Outcome State Fault Refusal :=
  unlessReset programmingDone s

/-! ### RESET and the unknown codes -/

/-- RESET taken: the outlet drain begins; with the queue already empty the reset is performed at once (R17,
R168). -/
def takeReset (_ : TakenCommand) (s : State) : State :=
  let s1 := setProgress (some .reset) s
  if s.outlet = [] then resetBridge .command s1 else s1

/-- RESET (R168), carried out in FAULTED too (R158). -/
def execReset (s : State) : Host.Outcome State Fault Refusal :=
  unlessReset (carryOut codeReset takeReset) s

/-- A command of an unknown code is answered UNSUPPORTED in any condition (R158). -/
def answerUnsupported (s : State) : State :=
  match s.mailbox.taken with
  | none => s
  | some c =>
    if knownCodes.contains c.code then s
    else respond c.seq c.code .unsupported [] { s with mailbox := { s.mailbox with taken := none } }

/-- UNSUPPORTED_COMMAND (R158). -/
def execUnsupportedCommand (s : State) : Host.Outcome State Fault Refusal :=
  unlessReset answerUnsupported s

end Sys2Proof.Machine
end

