-- ==== Sys2Proof/Machine/ResetEvents.lean ====
section
/-! DEFINITION. The steps of the job line, the supply and the reset line (R151, R154). -/

namespace Sys2Proof.Machine

/-- JOB_LINE_EDGE (R151). -/
def execJobLineEdge (level : Bool) (s : State) : Host.Outcome State Fault Refusal :=
  unlessReset (observeJobLine level) s

/-- POWER_UP (R154): the supply is established, and a reset with cause POWER is performed. -/
def execPowerUp (s : State) : Host.Outcome State Fault Refusal :=
  .next (resetBridge .power s)

/-- RESET_LINE_ASSERT (R154): the bridge is held from here to the release; the strobe line is inactive. -/
def execResetLineAssert (s : State) : Host.Outcome State Fault Refusal :=
  unlessReset (fun s => { s with resetLine := true, strobe := { s.strobe with lineUntil := none } }) s

/-- RESET_LINE_RELEASE (R154): a line that was asserted is released, and a reset with cause RESET_LINE is
performed. -/
def execResetLineRelease (s : State) : Host.Outcome State Fault Refusal :=
  .next (if s.resetLine then resetBridge .resetLine { s with resetLine := false } else s)

end Sys2Proof.Machine
end

