-- ==== Sys2Proof/Machine/Dispatch.lean ====
section
/-! DEFINITION. The meaning of each step: one arm for each row of spec/opcode_table.json. -/

namespace Sys2Proof.Machine

def exec (i : Instr) (s : State) : Host.Outcome State Fault Refusal :=
  match i with
  | .inletTransactionTaken t => Sys2Proof.Machine.execInletTransactionTaken t s
  | .outletPlaceGrant => Sys2Proof.Machine.execOutletPlaceGrant s
  | .outletTransactionLeaves => Sys2Proof.Machine.execOutletTransactionLeaves s
  | .resetDrainEnd => Sys2Proof.Machine.execResetDrainEnd s
  | .readCompletion c => Sys2Proof.Machine.execReadCompletion c s
  | .tagAssigned => Sys2Proof.Machine.execTagAssigned s
  | .encoderTransition pair elapsed => Sys2Proof.Machine.execEncoderTransition pair elapsed s
  | .strobePulseEnd => Sys2Proof.Machine.execStrobePulseEnd s
  | .markEdge level => Sys2Proof.Machine.execMarkEdge level s
  | .openingOperationBegin => Sys2Proof.Machine.execOpeningOperationBegin s
  | .pollTimerExpiry => Sys2Proof.Machine.execPollTimerExpiry s
  | .arm => Sys2Proof.Machine.execArm s
  | .disarm => Sys2Proof.Machine.execDisarm s
  | .abort => Sys2Proof.Machine.execAbort s
  | .hold => Sys2Proof.Machine.execHold s
  | .resume => Sys2Proof.Machine.execResume s
  | .loadMap => Sys2Proof.Machine.execLoadMap s
  | .status => Sys2Proof.Machine.execStatus s
  | .ack => Sys2Proof.Machine.execAck s
  | .setMask => Sys2Proof.Machine.execSetMask s
  | .readProfile => Sys2Proof.Machine.execReadProfile s
  | .saveProfile => Sys2Proof.Machine.execSaveProfile s
  | .profileProgrammingDone => Sys2Proof.Machine.execProfileProgrammingDone s
  | .reset => Sys2Proof.Machine.execReset s
  | .unsupportedCommand => Sys2Proof.Machine.execUnsupportedCommand s
  | .jobLineEdge level => Sys2Proof.Machine.execJobLineEdge level s
  | .powerUp => Sys2Proof.Machine.execPowerUp s
  | .resetLineAssert => Sys2Proof.Machine.execResetLineAssert s
  | .resetLineRelease => Sys2Proof.Machine.execResetLineRelease s

end Sys2Proof.Machine
end

