-- ==== Sys2Proof/Safety.lean ====
section
/-! DEFINITION. What a safe run of the bridge keeps: the invariants of its blocks, the values every reset leaves,
and the terms the statements use. -/

namespace Sys2Proof.Machine

/-! ### Terms -/

/-- The bridge is not held by the reset line (R154). -/
def Awake (s : State) : Prop := s.resetLine = false

/-- The mailbox has taken a command of this code, and the bridge is awake (R155, R158). -/
def Taken (s : State) (c : TakenCommand) (code : Byte) : Prop :=
  Awake s ∧ s.mailbox.taken = some c ∧ c.code = code

/-- The head of the internal write list is no FILL job that would be discarded there (R107). -/
def ListSettled (s : State) : Prop :=
  s.list.progress = 0 → ∀ f js, s.list.jobs = .fill f :: js → resolveFill s.table.entries f ≠ .discarded

/-- The state with the command answered: it is no longer held, and its RESPONSE job stands at the tail of
the list (R158). -/
def answered (c : TakenCommand) (result : ResultCode) (data : List Byte) (s : State) : State :=
  { s with
    mailbox := { s.mailbox with taken := none }
    list :=
      { s.list with
        jobs := s.list.jobs ++ [.response { seq := c.seq, code := c.code, result := result, data := data }] } }

/-- A cause is pending (R162). -/
def pendingCause (c : Cause) (s : State) : Bool := s.attention.causes.getLsbD (causeBit c)

/-- The jobs of the list that are not FILL jobs, in order. -/
def otherJobs (s : State) : List Job := s.list.jobs.filter fun j => !isFill j

/-- No read has a higher claim on the next outlet place than the internal write list (R12). -/
def NoReadWaits (s : State) : Prop := ∀ r ∈ s.reads, readWaits r = false

/-- No job of the list has an outlet write ready (R12, R107): the list is empty, or its head is a FILL job
that waits for its entry or would be discarded. -/
def ListIdle (s : State) : Prop :=
  ∀ j js, s.list.jobs = j :: js → ∃ f, j = .fill f ∧ ∀ b, resolveFill s.table.entries f ≠ .ready b

/-- A place of the Outlet Queue can be granted (R11, R12, R17). -/
def PlaceFree (s : State) : Prop :=
  Awake s ∧ s.outlet.length < 64 ∧ s.mailbox.inProgress ≠ some .reset

/-- A tag no read holds and no reset held back (R10, R16). -/
def FreeTag (s : State) (t : Tag) : Prop :=
  240 ≤ t.toNat ∧ t ∉ s.heldTags ∧ ∀ r ∈ s.reads, stageTag r.stage ≠ some t

/-- Every request has its tag, and t is the lowest-numbered free one (R10). -/
def NextTag (s : State) (t : Tag) : Prop :=
  (∀ r ∈ s.reads, r.stage ≠ .untagged) ∧ FreeTag s t ∧ ∀ u, FreeTag s u → t.toNat ≤ u.toNat

/-- The state with a bridge read of a unit requested and given tag t (R10). -/
def withRead (u : ReadUnit) (addr len : Nat) (t : Tag) (s : State) : State :=
  { s with reads := s.reads ++ [{ unit := u, addr := addr, len := len, stage := .waiting t }] }

/-- The byte range of the aperture of a map (R3). -/
def inAperture (m : SteeringMap) (b : Nat) : Prop := m.base ≤ b ∧ b < m.base + 8 * m.S * (m.Lp * m.P)

/-- The port can hand the decoder a transaction at once (R2, R13). -/
def PortReady (s : State) : Prop :=
  Awake s ∧ s.mailbox.inProgress ≠ some .reset ∧ s.decode = [] ∧ s.inletHeld = []

/-- The inlet stream is granted the next place, and its head piece is followed by others or nothing waits
behind it (R2, R12). -/
def InletNext (s : State) (p : Piece) (rest : List Piece) : Prop :=
  PlaceFree s ∧ NoReadWaits s ∧ ListIdle s ∧ s.decode = p :: rest ∧ (rest = [] → s.inletHeld = [])

/-- The inlet stream stands next for a place, whatever the port holds behind its pieces (R2, R12). -/
def InletTurn (s : State) (p : Piece) (rest : List Piece) : Prop :=
  PlaceFree s ∧ NoReadWaits s ∧ ListIdle s ∧ s.decode = p :: rest

/-- What the state answers when these transactions are offered at the port one after another (R2, R13). -/
def offeredInTurn : List InletTxn → State → Host.Outcome State Fault Refusal
  | [], s => .next s
  | x :: xs, s =>
    match exec (.inletTransactionTaken x) s with
    | .next t => offeredInTurn xs t
    | .fault f => .fault f
    | .refused r => .refused r

/-- An entry owns a row: its range holds the row, or it is the newest, has no end row and begins at or below
the row (R54, R82). -/
def OwnsRow (s : State) (e : Entry) (r : Nat) : Prop :=
  (e ∈ s.table.entries ∧ e.firstRow ≤ r ∧ ∃ x, e.endRow = some x ∧ r < x) ∨
    (s.table.entries.getLast? = some e ∧ e.endRow = none ∧ e.firstRow ≤ r)

/-- The observation is a forward count, or a reverse count when `fwd` is false, by the table of R18 and the
live map's direction invert. -/
def CountOf (s : State) (new : PhasePair) (fwd : Bool) : Prop :=
  ∃ last, s.encoder.lastPair = some last ∧
    (last, new) ∈
      (if fwd != s.maps.live.any SteeringMap.invert then
        [(⟨false, false⟩, ⟨true, false⟩), (⟨true, false⟩, ⟨true, true⟩), (⟨true, true⟩, ⟨false, true⟩),
          (⟨false, true⟩, ⟨false, false⟩)]
      else
        [(⟨false, false⟩, ⟨false, true⟩), (⟨true, false⟩, ⟨false, false⟩), (⟨true, true⟩, ⟨true, false⟩),
          (⟨false, true⟩, ⟨true, true⟩)] : List (PhasePair × PhasePair))

/-- The bridge is armed with this map live, and the web stands at its high-water mark, below the counter
limit (R21, R23). -/
def AtNewGround (s : State) (m : SteeringMap) : Prop :=
  Awake s ∧ s.acq.state ≠ .disarmed ∧ s.maps.live = some m ∧ s.encoder.position = s.encoder.highWater ∧
    s.encoder.highWater.toNat < 2 ^ 48 - 1

/-- No qualification ends at the next high-water advance (R36). -/
def NoConfirm (s : State) : Prop :=
  ∀ q, s.tracker.qualification = some q → q.confirm ≠ s.encoder.highWater.toNat + 1

/-- A strobe due at time `now` passes the spacing test (R26). -/
def SpacingPasses (m : SteeringMap) (s : State) (now : Nat) : Prop :=
  s.strobe.lastIssue = none ∨ m.minSpacing = 0 ∨
    ∃ t, s.strobe.lastIssue = some t ∧ m.minSpacing ≤ now - t

/-- Nothing waits on the next-strobe number reaching n (R40, R43, R46). -/
def NothingWatched (s : State) (m : SteeringMap) (n : Nat) : Prop :=
  (s.tracker.state = .search →
      s.tracker.searchFault = true ∨ ∀ t, s.tracker.searchStart = some t → n ≠ t + 4 * m.N) ∧
    ((s.tracker.state = .locked ∨ s.tracker.state = .coasting) →
      (m.mode = .track → ∀ f, s.tracker.decisionPoint = some f → n < f) ∧
        (m.mode = .fixed → ∀ e, s.tracker.expected = some e → n ≠ e - m.M))

/-- The state after an encoder observation that moves nothing but time and the last phase pair (R18). -/
def observed (new : PhasePair) (elapsed : Nat) (s : State) : State :=
  { setClock (s.clock + elapsed) s with encoder := { s.encoder with lastPair := some new } }

/-- No entry has retired all of its rows (R93, R96). -/
def NoneComplete (m : SteeringMap) (s : State) : Prop := ∀ e ∈ s.table.entries, allRetired m e = false

/-- At skipped strobe k the row of lane l belongs to entry e (R91). -/
def skipsRowOf (m : SteeringMap) (s : State) (k : Nat) (e : Entry) (l : Lane) : Bool :=
  (m.lanes.get l).any fun lm => decide (lm.lag ≤ k) && decide (lookupRow s (k - lm.lag) = some e)

/-- A boundary decision that finds this acquisition state and request opens a repeat (R143). -/
def opensRepeat (a : Acquisition) : Prop :=
  (a.state = .running ∧ a.request ≠ .hold) ∨ (a.state = .held ∧ a.request = .resume)

/-- The acquisition state after a boundary decision (R143). -/
def acqAfterDecision (a : Acquisition) : Acquisition :=
  { a with
    state :=
      if a.state = .running ∧ a.request = .hold then .held
      else if a.state = .held ∧ a.request = .resume then .running
      else a.state
    request := .none }

/-- The entries with the newest ended at a row with kind MARK, unless it has an end (R83). -/
def endedAt (b : Nat) (es : List Entry) : List Entry :=
  es.dropLast ++
    (es.getLast?.map fun e =>
      if e.endRow = none then { e with endRow := some b, endKind := some (.decided .mark) } else e).toList

/-- A proposed boundary lies in the tracker's window (R42). -/
def InWindow (t : Tracker) (b : Nat) : Prop :=
  ∃ e w, t.expected = some e ∧ t.halfWidth = some w ∧ e ≤ b + w ∧ b ≤ e + w

/-- A FILL job of the entry with a key turned into one of the closed repeat that has the buffer (R94). -/
def boundTo (key : Nat) (b : Buffer) : Job → Job
  | .fill f => if f.target = .entry key then .fill { f with target := .bound b } else .fill f
  | .record r => .record r
  | .response r => .response r

/-! ### Pieces of a line (R58 to R61, R90) -/

/-- The slot record after a piece [x, x + n) of a line whose stamp is decided (R58, R61). -/
def lineAfter (m : SteeringMap) (r : SlotRecord) (x n : Nat) : SlotRecord :=
  { r with
    fillMark := max r.fillMark (min (x + n) (m.Lp * m.P))
    state := if max r.fillMark (min (x + n) (m.Lp * m.P)) = m.Lp * m.P then .retired else r.state }

/-- The lane's counts of the entry after such a piece: its kept gap, its rewrite bytes, and the retirement of a line
that it ends. `fills` says whether gaps are filled (R58, R59, R61, R90). -/
def countsAfter (m : SteeringMap) (p : LanePlacement) (r : SlotRecord) (fills : Bool) (x n : Nat) (c : LaneCounts) :
    LaneCounts :=
  let gap := min x (m.Lp * m.P - p.trimR * m.P) - max r.fillMark (p.trimL * m.P)
  let ends := max r.fillMark (min (x + n) (m.Lp * m.P)) = m.Lp * m.P
  { c with
    retired := if ends then c.retired + 1 else c.retired
    filled := if ends ∧ (r.fillMade = true ∨ (fills = true ∧ 0 < gap)) then c.filled + 1 else c.filled
    gap := satAdd c.gap gap
    discarded := satAdd c.discarded (min (x + n) r.fillMark - x) }

/-! ### Fills offered at a strobe (R56, R59, R62, R91) -/

/-- The placement of a lane in an entry's placement set. -/
def placedBy (e : Entry) (l : Lane) : LanePlacement := (e.placement.get l).getD noPlacement

/-- The FILL job for the line offsets [y1, y2) of a web row of an entry: none for an empty range or a DROPPED
entry (R59). -/
def lineFill (m : SteeringMap) (p : LanePlacement) (e : Entry) (row y1 y2 : Nat) : List Job :=
  if y1 < y2 ∧ e.state ≠ .dropped then
    [.fill
      { target := .entry e.key
        row := row - e.firstRow
        column := p.colStart * m.P + (y1 - p.trimL * m.P)
        len := y2 - y1
        value := p.fill }]
  else []

/-- The fill of the kept bytes of a line not yet accounted for, when it is given up (R62, R65). -/
def leftFill (m : SteeringMap) (s : State) (l : Lane) (r : SlotRecord) : List Job :=
  match recordEntry s r with
  | some e =>
    let p := placedBy e l
    lineFill m p e (r.row.getD 0) (max r.fillMark (p.trimL * m.P)) (m.Lp * m.P - p.trimR * m.P)
  | none => []

/-- The fill of an OPEN line that is given up when its slot is bound again (R62). -/
def givenUpFill (m : SteeringMap) (s : State) (slot : Nat) (l : Lane) : List Job :=
  if (slotRecord s l slot).state = .opened then leftFill m s l (slotRecord s l slot) else []

/-- The OPEN lines of a lane, with the fill mark of one of them raised by its piece: those that end when the lane goes
out of step at that piece (R61, R65). -/
def linesOf (s : State) (l : Lane) (slot mark : Nat) : List SlotRecord :=
  (s.ring.slots.get l).filterMap fun q =>
    if q.2.state = .opened then some (if q.1 = slot then { q.2 with fillMark := mark } else q.2) else none

/-- The fill of the new line of strobe k in a lane OUT_OF_STEP (R56). -/
def newLineFill (m : SteeringMap) (s : State) (k : Nat) (l : Lane) (lm : LaneMap) : List Job :=
  match lookupRow s (k - lm.lag) with
  | some e =>
    if s.ring.step.get l = .outOfStep ∧ lm.lag ≤ k then
      let p := placedBy e l
      lineFill m p e (k - lm.lag) (p.trimL * m.P) (m.Lp * m.P - p.trimR * m.P)
    else []
  | none => []

/-- The fills that the binding of a slot at strobe k offers for a lane (R55, R56, R62). -/
def bindingFills (m : SteeringMap) (s : State) (slot k : Nat) (l : Lane) : List Job :=
  match m.lanes.get l with
  | some lm => if s.ring.step.get l = .off then [] else givenUpFill m s slot l ++ newLineFill m s k l lm
  | none => []

/-- The fill that skipped strobe k offers for a lane: its whole kept range (R91). -/
def skippedFills (m : SteeringMap) (s : State) (k : Nat) (l : Lane) : List Job :=
  match m.lanes.get l with
  | none => []
  | some lm =>
    match lookupRow s (k - lm.lag) with
    | none => []
    | some e =>
      let p := placedBy e l
      if lm.lag ≤ k ∧ e.state ≠ .dropped then
        [.fill
          { target := .entry e.key
            row := k - lm.lag - e.firstRow
            column := p.colStart * m.P
            len := (m.Lp - p.trimL - p.trimR) * m.P
            value := p.fill }]
      else []

/-- FILL jobs that all join the list: it has room for them, and none is discarded as it becomes the head (R104,
R105, R107). -/
def RoomFor (s : State) (fills : List Job) : Prop :=
  ListSettled s ∧ fillCount s + fills.length ≤ 240 ∧
    (s.list.jobs ≠ [] ∨ ∀ f, Job.fill f ∈ fills → resolveFill s.table.entries f ≠ .discarded)

/-- The list of t is that of s with these jobs at its tail, in some order (R104). -/
def JoinsAtTail (s t : State) (jobs : List Job) : Prop :=
  ∃ js, t.list = { s.list with jobs := s.list.jobs ++ js } ∧ js.Perm jobs

/-! ### Pieces (R4, R5) -/

/-- The payload of a piece of a write. -/
def piecePayload : Piece → List Byte
  | .outside _ p => p
  | .aperture _ _ _ p => p
  | .read _ _ _ => []

/-- The inlet address of a piece's first byte, by the arithmetic of R5. -/
def pieceAddress (m : SteeringMap) : Piece → Nat
  | .outside a _ => a
  | .aperture lane slot x _ => m.base + lane.val * windowBytes m + slot * lineBytes m + x
  | .read a _ _ => a

/-- A piece is of the kind R4 and R5 give its bytes: an outside piece lies wholly below the aperture or
wholly at or above its end, and an aperture piece wholly inside one slot of one lane window. -/
def pieceProper (m : SteeringMap) : Piece → Prop
  | .outside a p => a + p.length ≤ m.base ∨ m.base + 8 * windowBytes m ≤ a
  | .aperture _ slot x p => slot < m.S ∧ x + p.length ≤ lineBytes m
  | .read _ _ _ => False

/-- The lane and slot of an aperture piece. -/
def pieceSlot : Piece → Option (Nat × Nat)
  | .aperture lane slot _ _ => some (lane.val, slot)
  | .outside _ _ => none
  | .read _ _ _ => none

/-- Pieces follow one another without hole or overlap from an address on, and none is empty. -/
def piecesFollow (m : SteeringMap) : Nat → List Piece → Prop
  | _, [] => True
  | a, p :: ps =>
    pieceAddress m p = a ∧ piecePayload p ≠ [] ∧ pieceProper m p ∧ piecesFollow m (a + (piecePayload p).length) ps

/-! ### Tiling (R76) -/

/-- Byte c of an image row lies in the band of a lane's placement (R73, R76). -/
def inBand (m : SteeringMap) (p : LanePlacement) (c : Nat) : Prop :=
  p.colStart * m.P ≤ c ∧ c < (p.colStart + keptWidth m.Lp p) * m.P

/-- The placement of an enabled lane of a map. -/
def lanePlacement (m : SteeringMap) (l : Lane) : Option LanePlacement := (m.lanes.get l).map LaneMap.place

/-- The bands of the enabled lanes partition bytes 0 to Iw × P − 1 of an image row (R76). -/
def BandsPartition (m : SteeringMap) : Prop :=
  (∀ l p, lanePlacement m l = some p → p.colStart + keptWidth m.Lp p ≤ m.Iw) ∧
    ∀ c < m.Iw * m.P, ∃! l, ∃ p, lanePlacement m l = some p ∧ inBand m p c

/-! ### Decisions (R36, R39, R42, R83 to R86, R143) -/

/-- Entries are named apart, and no later one takes a name in use (log entry 8). -/
def KeysApart (s : State) : Prop :=
  (s.table.entries.map Entry.key).Nodup ∧ ∀ e ∈ s.table.entries, e.key < s.table.nextKey

/-- Between s and t the newest entry was ended at a row with a kind, unless it had an end (R83, R86). It is still in
the table when it had none and a lane of map n has more rows to retire than one strobe retires. -/
def NewestEnded (k : Kind) (row : Nat) (n : SteeringMap) (s t : State) : Prop :=
  ∀ e, s.table.entries.getLast? = some e →
    (∀ e', findEntry t e.key = some e' →
      (e'.endRow, e'.endKind) =
        if e.endRow = none then (some row, some (.decided k)) else (e.endRow, e.endKind)) ∧
      (e.endRow = none →
        (∃ l, (n.lanes.get l).isSome ∧ (e.counts.get l).retired.toNat + 2 < row - e.firstRow) →
        (findEntry t e.key).isSome)

/-- Between s and t no repeat took a sequence number or a place in the table. -/
def NoneOpened (s t : State) : Prop :=
  t.table.nextSeq = s.table.nextSeq ∧ ∀ e' ∈ t.table.entries, ∃ e ∈ s.table.entries, e.key = e'.key

/-- Between s and t a boundary was decided at a row with a kind, n being the map live after it: the newest entry is
ended, the acquisition state is that of the opening rule, and a repeat that opens takes the next sequence number
and, with fewer than four entries in the table, is its newest entry (R83 to R85, R143). -/
def BoundaryDecided (k : Kind) (row : Nat) (n : SteeringMap) (s t : State) : Prop :=
  NewestEnded k row n s t ∧ t.acq = acqAfterDecision s.acq ∧ (¬opensRepeat s.acq → NoneOpened s t) ∧
    (opensRepeat s.acq →
      t.table.nextSeq = s.table.nextSeq + 1 ∧
        (s.table.entries.length < 4 →
          ∃ e, t.table.entries.getLast? = some e ∧ e.seq = s.table.nextSeq ∧ e.state = .opening ∧
            e.firstRow = row ∧ e.endRow = none ∧ e.startKind = k ∧ e.endKind = none ∧
            e.generation = n.generation ∧ ∀ l, e.placement.get l = lanePlacement n l))

/-- From s to t a confirmed mark that proposes boundary b was judged, n being the map live if it is accepted. -/
def MarkJudged (n : SteeringMap) (b : Nat) (s t : State) : Prop :=
  (s.tracker.state = .search ∨
      ((s.tracker.state = .locked ∨ s.tracker.state = .coasting) ∧ InWindow s.tracker b) →
    t.tracker =
        { state := .locked
          markLevel := s.tracker.markLevel
          qualification := none
          expected := some (b + n.N)
          halfWidth := some n.W
          decisionPoint := some (b + n.N + n.W + n.h + 1 - n.M)
          coast := 0
          searchStart := if s.tracker.state = .search then none else s.tracker.searchStart
          searchFault := if s.tracker.state = .search then false else s.tracker.searchFault } ∧
      t.maps = { live := some n, staged := none } ∧ t.acq = acqAfterDecision s.acq ∧
      t.list = s.list ∧ t.encoder = s.encoder ∧ t.strobe = s.strobe ∧ t.ring = s.ring ∧
      (opensRepeat s.acq → s.table.entries.length < 4 →
        ∃ e, t.table.entries = endedAt b s.table.entries ++ [e] ∧ e.seq = s.table.nextSeq ∧
          e.state = .opening ∧ e.firstRow = b ∧ e.endRow = none ∧ e.startKind = .mark ∧
          e.descIndex = none ∧ e.buffer = none ∧ e.generation = n.generation ∧
          (∀ l, e.placement.get l = lanePlacement n l) ∧
          (∀ l, e.counts.get l = ⟨0, 0, 0, 0, 0, 0⟩) ∧
          t.table.nextSeq = s.table.nextSeq + 1 ∧ t.table.droppedBefore = s.table.droppedBefore ∧
          t.counters = s.counters ∧ t.attention = s.attention) ∧
      (opensRepeat s.acq → 4 ≤ s.table.entries.length →
        t.table =
            { s.table with
              entries := endedAt b s.table.entries
              nextSeq := s.table.nextSeq + 1
              droppedBefore := satInc s.table.droppedBefore } ∧
          t.counters = { s.counters with droppedRepeats := satInc s.counters.droppedRepeats } ∧
          t.attention = { s.attention with causes := s.attention.causes ||| 2 }) ∧
      (¬opensRepeat s.acq →
        t.table = { s.table with entries := endedAt b s.table.entries } ∧
          t.counters = s.counters ∧ t.attention = s.attention)) ∧
    (s.tracker.state = .locked ∨ s.tracker.state = .coasting → ¬InWindow s.tracker b →
      t = { s with counters := { s.counters with strayMarks := satInc s.counters.strayMarks } })

/-! ### The acquisition requests (R141, R151, R152) -/

/-- The edges of the job line that make a request, under the function of the profile in force: the function, the level
the line takes, and the mailbox command of the same request with its code (R151). -/
def lineRequests : List (JobFunction × Bool × Instr × Byte) :=
  [(.hold, false, .hold, 0x04), (.hold, true, .resume, 0x05), (.run, false, .disarm, 0x02),
    (.run, true, .arm, 0x01), (.stop, false, .abort, 0x03)]

/-- The results that make a line request a refused line action (R152). -/
def refusals : List ResultCode := [.already, .busy, .noMap, .deviceFault]

/-! ### The ranges of R128 -/

/-- A map within the ranges of R128's table. -/
def MapInRange (m : SteeringMap) : Prop :=
  (m.P = 1 ∨ m.P = 2 ∨ m.P = 4) ∧ (256 ≤ m.Lp ∧ m.Lp ≤ 16384 ∧ 64 ∣ m.Lp) ∧
    m.S ∈ [16, 32, 64, 128, 256, 512] ∧ (∃ l, (m.lanes.get l).isSome) ∧
    (∀ l lm, m.lanes.get l = some lm → lm.place.trimL + lm.place.trimR ≤ m.Lp - 64 ∧ lm.lag ≤ 4095) ∧
    (1048576 ∣ m.base ∧ m.base + 8 * m.S * (m.Lp * m.P) ≤ 2 ^ 48) ∧ (65536 ≤ m.Q ∧ m.Q ≤ 16777215) ∧
    (64 ≤ m.N ∧ m.N ≤ 16777214 ∧ m.W ≤ m.N / 4 ∧ m.N + m.W ≤ 16777215) ∧ m.W + m.h + 17 ≤ m.M ∧
    1 ≤ m.reverseLimit ∧ (2 ≤ m.B ∧ m.B ≤ 64 ∧ 512 ∣ m.ringBase ∧ m.ringBase + m.B * 512 ≤ 2 ^ 48)

/-- Two maps agree in every frozen field (R129). -/
def FrozenAgree (a b : SteeringMap) : Prop :=
  a.base = b.base ∧ a.P = b.P ∧ a.Lp = b.Lp ∧ a.S = b.S ∧
    (∀ l, (a.lanes.get l).map LaneMap.lag = (b.lanes.get l).map LaneMap.lag) ∧ a.Q = b.Q ∧
    a.minSpacing = b.minSpacing ∧ a.invert = b.invert ∧ a.reverseLimit = b.reverseLimit ∧
    a.activeLow = b.activeLow ∧ a.mode = b.mode ∧ a.M = b.M ∧ a.ringBase = b.ringBase ∧ a.B = b.B

/-- The tiling rule: taken in some order, which is that of colStart, the first enabled lane begins at 0 and each
further one where the lane before it ends (R75). -/
def Tiled (m : SteeringMap) : Prop :=
  ∃ ps : List LanePlacement, ps.Perm (allLanes.filterMap (lanePlacement m)) ∧
    ∀ i p, ps[i]? = some p → p.colStart = ((ps.take i).map (keptWidth m.Lp)).sum

/-- A map record fails the check of this number, as R132 numbers them. -/
def CheckFails (bs : List Byte) (n : Nat) : Prop :=
  let m := readMap bs
  match n with
  | 1 => leNat (bs.take 4) ≠ 1
  | 2 => m.P ∉ [1, 2, 4]
  | 3 => m.Lp < 256 ∨ 16384 < m.Lp ∨ ¬64 ∣ m.Lp
  | 4 => m.S ∉ [16, 32, 64, 128, 256, 512]
  | 5 => ∀ l, m.lanes.get l = none
  | 6 => ∃ l lm, m.lanes.get l = some lm ∧ m.Lp - 64 < lm.place.trimL + lm.place.trimR
  | 7 => ∃ l lm, m.lanes.get l = some lm ∧ 4095 < lm.lag
  | 8 => ¬Tiled m
  | 9 => ¬1048576 ∣ m.base ∨ 2 ^ 48 < m.base + 8 * m.S * (m.Lp * m.P)
  | 10 => m.Q < 65536 ∨ 16777215 < m.Q
  | 11 => m.N < 64 ∨ 16777214 < m.N ∨ m.N / 4 < m.W ∨ 16777215 < m.N + m.W
  | 12 => m.M < m.W + m.h + 17
  | 13 => m.reverseLimit = 0
  | 14 => m.B < 2 ∨ 64 < m.B ∨ ¬512 ∣ m.ringBase ∨ 2 ^ 48 < m.ringBase + m.B * 512
  | _ => False

/-- Two maps differ in the frozen field of this number, as R129 numbers them. -/
def FrozenDiffers (a b : SteeringMap) (n : Nat) : Prop :=
  match n with
  | 1 => a.base ≠ b.base
  | 2 => a.P ≠ b.P
  | 3 => a.Lp ≠ b.Lp
  | 4 => a.S ≠ b.S
  | 5 => ∃ l, (a.lanes.get l).isSome ≠ (b.lanes.get l).isSome
  | 6 => ∃ l x y, a.lanes.get l = some x ∧ b.lanes.get l = some y ∧ x.lag ≠ y.lag
  | 7 => a.Q ≠ b.Q
  | 8 => a.minSpacing ≠ b.minSpacing
  | 9 => a.invert ≠ b.invert
  | 10 => a.reverseLimit ≠ b.reverseLimit
  | 11 => a.activeLow ≠ b.activeLow
  | 12 => a.mode ≠ b.mode
  | 13 => a.M ≠ b.M
  | 14 => a.ringBase ≠ b.ringBase
  | 15 => a.B ≠ b.B
  | _ => False

/-- n is the least number with a property. -/
def IsFirst (p : Nat → Prop) (n : Nat) : Prop := p n ∧ ∀ k < n, ¬p k

/-! ### The ends of an entry (R93 to R96, R99, R101) -/

/-- The record of an entry with a status and a pending dropped-before count, m being the live map: its fields, and the
record area of its descriptor's ring entry (R95, R113). -/
def recordFor (m : SteeringMap) (e : Entry) (status : RecordStatus) (before : BitVec 16) : RecordJob :=
  { seq := e.seq
    generation := e.generation
    firstRow := e.firstRow
    rowCount := (e.endRow.getD e.firstRow) - e.firstRow
    capacity := (e.buffer.map Buffer.capacity).getD 0
    startKind := e.startKind
    endKind := e.endKind
    counts := e.counts
    overspeed := e.overspeed
    fillLost := e.fillLost
    status := status
    droppedBefore := before
    descIndex := e.descIndex.getD 0
    area := m.ringBase + e.descIndex.getD 0 * 512 + 0x40 }

/-- The entries but the one with a key. -/
def otherEntries (s : State) (key : Nat) : List Entry := s.table.entries.filter fun e => decide (e.key ≠ key)

/-- The one entry with a key has an end row and every row of it has retired in every enabled lane, and no other entry
is so (R93, R96). -/
def AloneComplete (m : SteeringMap) (key : Nat) (s : State) : Prop :=
  (s.table.entries.map Entry.key).Nodup ∧
    ∀ e ∈ s.table.entries,
      if e.key = key then
        ∃ r, e.endRow = some r ∧
          ∀ l, (m.lanes.get l).isSome → (e.counts.get l).retired.toNat = r - e.firstRow
      else allRetired m e = false

/-- From s to t the table with these entries left was reported to the acquisition controller, with these causes
pending before it: an empty table in DRAINING ends the drain (R94, R96, R101, R148). -/
def TableReported (left : List Entry) (causes : BitVec 13) (s t : State) : Prop :=
  t.table.entries = left ∧
    (s.acq.state ≠ .draining ∨ left ≠ [] →
      t.acq = s.acq ∧ t.attention = { s.attention with causes := causes }) ∧
    (s.acq.state = .draining → left = [] →
      t.acq.state = .disarmed ∧ t.tracker.state = .idle ∧ t.ring.bindings = [] ∧
        t.attention = { s.attention with causes := causes ||| 4096 })

/-! ### Invariants -/

/-- The queue, the table, the FILL jobs and the coast count stay within their ranges (R11, R43, R82, R105). -/
def Sized (s : State) : Prop :=
  s.outlet.length ≤ 64 ∧ fillCount s ≤ 240 ∧ s.table.entries.length ≤ 4 ∧ s.tracker.coast ≤ 8

/-- Each lane's consecutive-mismatch count is 0 to 3, and below 3 while the lane is IN_STEP (R64, R65). -/
def MismatchesInRange (s : State) : Prop :=
  ∀ l : Lane, s.ring.mismatches.get l ≤ 3 ∧ (s.ring.step.get l = .inStep → s.ring.mismatches.get l ≤ 2)

/-- In DISARMED nothing is in flight: the table is empty, the Line Ring clear, the tracker IDLE with no
qualification and no window, nothing is staged and no request is pending (R38, R67, R127, R140, R148). -/
def DisarmedQuiet (s : State) : Prop :=
  s.acq.state = .disarmed →
    s.table.entries = [] ∧ s.ring.bindings = [] ∧ s.ring.slots = Lanes.every [] ∧
      s.tracker.state = .idle ∧ s.tracker.qualification = none ∧ s.tracker.expected = none ∧
      s.tracker.coast = 0 ∧ s.maps.staged = none ∧ s.acq.request = .none

/-- At most one of: a poll, a command taken, a command in progress, a RESPONSE job (R106, R155, R156). -/
def OneAtATime (s : State) : Prop :=
  s.list.jobs.countP isResponse + (if s.mailbox.poll = .none then 0 else 1) +
    (if s.mailbox.taken.isSome then 1 else 0) + (if s.mailbox.inProgress.isSome then 1 else 0) ≤ 1

/-- In FAULTED the bridge is DISARMED, no map is live, staged or being loaded, and the list holds only
RESPONSE jobs (R15, R165). -/
def FaultedInert (s : State) : Prop :=
  s.profile.faulted = true →
    s.acq.state = .disarmed ∧ s.tracker.state = .idle ∧ s.maps.live = none ∧ s.maps.staged = none ∧
      (∀ j ∈ s.list.jobs, isResponse j = true) ∧ (∀ q a, s.mailbox.inProgress ≠ some (.loadMap q a))

/-- While armed a map is live, and a staged map agrees with it in every frozen field; in DISARMED nothing
is staged (R127, R129, R135). -/
def MapsAgree (s : State) : Prop :=
  (s.acq.state = .disarmed → s.maps.staged = none) ∧
    (s.acq.state ≠ .disarmed →
      ∃ l, s.maps.live = some l ∧ ∀ m, s.maps.staged = some m → FrozenAgree l m)

/-- The account of forward travel while armed: 65,536 × high-water = Q × next-strobe + φ with φ below Q, and
the issue index no greater than the next-strobe number (R24, R25, R28). -/
def TravelAccounted (s : State) : Prop :=
  MapsAgree s ∧ (∀ m, s.maps.live = some m → 65536 ≤ m.Q) ∧
    (s.acq.state ≠ .disarmed →
      ∀ m, s.maps.live = some m →
        65536 * s.encoder.highWater.toNat = m.Q * s.strobe.nextStrobe.toNat + s.strobe.phase ∧
          s.strobe.phase < m.Q ∧ s.strobe.issueIndex.toNat ≤ s.strobe.nextStrobe.toNat)

/-- The record allowance is at most 4, and at most 3 while a return-count read is out (R106). The rest ties
an entry's descriptor index to its state and to the opening operation in progress (R87). -/
def AllowanceKept (s : State) : Prop :=
  recordAllowance s ≤ 4 ∧
    (∀ o, s.ringUnit.opening = some o → o.phase = .returnCount → recordAllowance s ≤ 3) ∧
    (s.table.entries.map Entry.key).Nodup ∧ (∀ e ∈ s.table.entries, e.key < s.table.nextKey) ∧
    (s.acq.state = .disarmed → s.table.entries = []) ∧
    (∀ e ∈ s.table.entries, e.state = .opened → e.descIndex.isSome) ∧
    (∀ e ∈ s.table.entries, e.state = .opening →
      (e.descIndex.isSome ↔ s.ringUnit.opening = some { key := e.key, phase := .descriptor })) ∧
    (∀ o, s.ringUnit.opening = some o → ∃ e ∈ s.table.entries, e.key = o.key ∧ e.state = .opening)

/-- The tags of the reads and the tags held back are reserved ones, each given once (R10, R16). -/
def TagsApart (s : State) : Prop :=
  (s.heldTags ++ s.reads.filterMap fun r => stageTag r.stage).Nodup ∧
    (∀ t ∈ s.heldTags, 240 ≤ t.toNat) ∧ ∀ r ∈ s.reads, ∀ t, stageTag r.stage = some t → 240 ≤ t.toNat

/-- The list's head is settled, and in DISARMED the table is empty (R107, R148). -/
def HeadSettled (s : State) : Prop :=
  ListSettled s ∧ (s.acq.state = .disarmed → s.table.entries = [])

/-- Slots rise strictly in a list of bindings or records. -/
def slotsRise {α : Type} (xs : List (Nat × α)) : Prop := xs.Pairwise fun p q => p.1 < q.1

/-- The Line Ring's lists are in their one canonical form: the slots rising strictly. -/
def RingOrdered (s : State) : Prop :=
  slotsRise s.ring.bindings ∧ ∀ l : Lane, slotsRise (s.ring.slots.get l)

/-! ### What a command may touch -/

/-- The commands that can end in a reset of the bridge (R153, R154, R168). -/
def MayReset (c : Instr) : Prop :=
  c = .resetDrainEnd ∨ c = .reset ∨ (∃ l, c = .jobLineEdge l) ∨ c = .powerUp ∨ c = .resetLineRelease

/-- No counter of the eleven is below what it was. -/
def CountersNotBelow (a b : Counters) : Prop :=
  ∀ p ∈ (counterList a).zip (counterList b), p.1.toNat ≤ p.2.toNat

/-! ### Resets (R154) -/

/-- The values every reset with this cause leaves (R16, R32, R51, R66, R67, R102, R111, R114, R127, R140,
R154, R156, R162, R164, R165, R167). The decoder then takes what the port held, with the aperture absent. The
clock is the model's (log entry 9). -/
def AfterReset (cause : ResetCause) (s t : State) : Prop :=
  t.outlet = [] ∧ t.reads = [] ∧ t.encoder = Encoder.initial ∧
    t.strobe = Strobe.initial ∧ t.tracker = Tracker.initial ∧ t.ring = LineRing.initial ∧
    t.maps = { live := none, staged := none } ∧ t.table.entries = [] ∧ t.table.nextSeq = 0 ∧
    t.table.droppedBefore = 0 ∧ t.list = { jobs := [], progress := 0 } ∧
    (∀ tag, tag ∈ t.heldTags ↔ tag ∈ s.heldTags ∨ ∃ r ∈ s.reads, r.stage = .left tag) ∧
    t.ringUnit = { taken := 0, returned := 0, index := 0, opening := none } ∧
    t.acq = { state := .disarmed, request := .none, jobLevel := none, fallingSeen := false } ∧
    t.mailbox.lastSeen = none ∧ t.mailbox.poll = .none ∧ t.mailbox.taken = none ∧
    t.mailbox.inProgress = none ∧ t.mailbox.resetCause = cause ∧
    t.mailbox.nextPoll = t.clock + t.profile.inForce.pollPeriod * 1000 ∧
    (t.profile.loadStatus, t.profile.inForce) = loadProfile t.profile.flash ∧
    t.profile.lockFixed = t.profile.inForce.lockFixed ∧
    t.profile.faulted = decide (crc16 t.profile.revision ≠ t.profile.revisionCrc) ∧
    t.attention.mask = t.profile.inForce.defaultMask ∧
    t.attention.causes = (if t.profile.loadStatus = .corrupt then 1024 else 0) ∧
    t.clock = s.clock ∧ t.sent = s.sent ∧ t.pending = s.pending ∧
    (s.inletHeld = [] →
      t.decode = [] ∧ t.inletHeld = [] ∧ t.counters = Counters.zero ∧ t.returned = s.returned) ∧
    (t.resetLine = false → ∀ a p rest, s.inletHeld = .write a p :: rest → p ≠ [] →
      t.decode = [.outside a p] ∧ t.inletHeld = rest ∧ t.counters = Counters.zero ∧ t.returned = s.returned) ∧
    (t.resetLine = false → ∀ a n tag rest, s.inletHeld = .read a n tag :: rest → tag.toNat < 240 →
      t.decode = [.read a n tag] ∧ t.inletHeld = rest ∧ t.counters = Counters.zero ∧
        t.returned = s.returned) ∧
    ((∀ q img, s.mailbox.inProgress ≠ some (.saveProgramming q img)) → t.profile.flash = s.profile.flash) ∧
    ((∃ q img, s.mailbox.inProgress = some (.saveProgramming q img)) →
      t.profile.flash.length = 66 ∧
        (t.profile.loadStatus = .corrupt ∨ t.profile.flash = List.replicate 66 0xFF))

end Sys2Proof.Machine
end

