-- ==== Sys2Proof/Certificates/Slice0/Obligations.lean ====
section
/-! DEFINITION. The statements for the provers: what each step of the bridge does, and what every step keeps. -/

open Sys2Proof Sys2Proof.Machine

/-! ### The queue of commands -/

/-- A step carries out the command at the front of the queue on the state with the queue's rest, and every
command answers a next state whose queue it has not touched. With no command waiting the step idles, which is
the model's choice (log entry 4). -/
def Obligations.StepRunsFrontCommand : Prop :=
  (∀ (c : Instr) (rest : List Instr) (s : State),
      step { s with pending := c :: rest } = exec c { s with pending := rest }) ∧
    (∀ (c : Instr) (s : State), ∃ t, exec c s = .next t ∧ t.pending = s.pending) ∧
    ∀ s : State, s.pending = [] → step s = .next s

/-! ### The inline path (chapter 1) -/

/-- R7, R8: a READ taken from a free port is answered with ERROR and counted once when its tag is reserved
or it touches the aperture, and else stands in decode to be forwarded. -/
def Obligations.ReadIsAnsweredOrForwarded : Prop :=
  ∀ (a n : Nat) (tag : Tag) (s : State), PortReady s → 1 ≤ n →
    ((240 ≤ tag.toNat ∨
        (s.profile.faulted = false ∧
          ∃ m, s.maps.live = some m ∧ ∃ b, a ≤ b ∧ b < a + n ∧ inAperture m b)) →
      exec (.inletTransactionTaken (.read a n tag)) s =
        .next
          { s with
            returned := s.returned ++ [{ tag := tag, data := [], ok := false }]
            counters := { s.counters with strayReads := satInc s.counters.strayReads } }) ∧
    ((tag.toNat < 240 ∧
        (s.profile.faulted = true ∨
          ∀ m, s.maps.live = some m → MapInRange m ∧ ∀ b, a ≤ b → b < a + n → ¬inAperture m b)) →
      exec (.inletTransactionTaken (.read a n tag)) s = .next { s with decode := [.read a n tag] })

/-- R3, R4, R5: a WRITE taken from a free port is cut into pieces that follow one another from its address
on, carry its bytes whole and in order, each lie on one side of the aperture edges or in one slot, and
name each slot once; with the aperture absent it is one outside piece. -/
def Obligations.WriteIsCutIntoPieces : Prop :=
  ∀ (a : Nat) (p : List Byte) (s : State), PortReady s → p ≠ [] →
    (∀ m, s.profile.faulted = false → s.maps.live = some m → MapInRange m →
      ∃ pieces, exec (.inletTransactionTaken (.write a p)) s = .next { s with decode := pieces } ∧
        piecesFollow m a pieces ∧ pieces.flatMap piecePayload = p ∧ (pieces.filterMap pieceSlot).Nodup) ∧
    (s.profile.faulted = true ∨ s.maps.live = none →
      exec (.inletTransactionTaken (.write a p)) s = .next { s with decode := [.outside a p] })

/-- R12, R13, R17: a stalled port keeps what the fabric offers behind what it holds, and no place is granted
while the queue is full or the outlet drain of a RESET command is in force. The list of what the
port holds is the model's (log entry 10). -/
def Obligations.StallsHoldTraffic : Prop :=
  (∀ (x : InletTxn) (s : State),
      s.decode ≠ [] ∨ ¬Awake s ∨ s.mailbox.inProgress = some .reset →
        exec (.inletTransactionTaken x) s = .next { s with inletHeld := s.inletHeld ++ [x] }) ∧
    ∀ s : State,
      ¬Awake s ∨ 64 ≤ s.outlet.length ∨ s.mailbox.inProgress = some .reset →
        exec .outletPlaceGrant s = .next s

/-- R10, R12: a place goes to a bridge read that holds a tag before any other source, and to one of the Ring
Unit before another's; the read enters the queue with its address, length and tag. -/
def Obligations.PlaceGoesToBridgeReadsFirst : Prop :=
  ∀ (s : State) (xs ys : List BridgeRead) (r : BridgeRead) (tag : Tag),
    PlaceFree s → s.reads = xs ++ r :: ys → r.stage = .waiting tag →
      (∀ x ∈ xs, x.stage ≠ .waiting tag) →
      (if r.unit = .ring then ∀ x ∈ xs, readWaits x = true → x.unit ≠ .ring
        else (∀ x ∈ xs, readWaits x = false) ∧ ∀ x ∈ ys, readWaits x = true → x.unit ≠ .ring) →
      exec .outletPlaceGrant s =
        .next
          { s with
            outlet := s.outlet ++ [.read r.addr r.len tag]
            reads := xs ++ { r with stage := .queued tag } :: ys }

/-- R74, R107, R108: a ready FILL job at the head issues its next write of up to 512 bytes at the place of its
next byte, each byte the one of the fill value that belongs at its row byte offset; the job leaves at its last
write and else its progress rises by one. -/
def Obligations.FillJobIssuesItsWrites : Prop :=
  ∀ (s : State) (f : FillJob) (js : List Job) (b : Buffer),
    PlaceFree s → NoReadWaits s → s.list.jobs = .fill f :: js → f.row < b.capacity → f.value ≠ [] →
      (f.target = .bound b ∨
        ∃ e k, f.target = .entry k ∧ findEntry s k = some e ∧ e.state = .opened ∧ e.buffer = some b) →
      s.list.progress * 512 < f.len →
      ∃ t bytes, exec .outletPlaceGrant s = .next t ∧
        t.outlet =
          s.outlet ++
            [.write ((b.base + f.row * b.stride + (f.column + s.list.progress * 512)) % 2 ^ 48) bytes] ∧
        bytes.length = min 512 (f.len - s.list.progress * 512) ∧
        (∀ i < bytes.length,
          bytes[i]? = f.value[(f.column + s.list.progress * 512 + i) % f.value.length]?) ∧
        (if f.len ≤ s.list.progress * 512 + 512 then
          t.list.progress = 0 ∧ t.list.jobs <:+ js ∧ otherJobs t = otherJobs s
        else t.list = { jobs := s.list.jobs, progress := s.list.progress + 1 }) ∧
        t.table = s.table ∧ t.attention = s.attention ∧ t.reads = s.reads

/-- R106, R109, R124: a RECORD job at the head issues its one write of the record to the area it carries, leaves
the list, and raises REPEAT_DONE. An opening operation that waits on the record allowance makes its return-count read
at this event when the allowance falls below 4. -/
def Obligations.RecordJobIssuesItsWrite : Prop :=
  ∀ (s : State) (r : RecordJob) (js : List Job),
    PlaceFree s → NoReadWaits s → s.list.jobs = .record r :: js →
      ∃ t, exec .outletPlaceGrant s = .next t ∧
        t.outlet = s.outlet ++ [.write r.area (recordBytes r)] ∧ t.list.jobs <:+ js ∧
        otherJobs t = js.filter (fun j => !isFill j) ∧ t.list.progress = 0 ∧
        t.attention = { s.attention with causes := s.attention.causes ||| 1 } ∧ t.table = s.table ∧
        t.counters = s.counters ∧
        ((∀ o, s.ringUnit.opening = some o → o.phase = .allowance → 4 < recordAllowance s) →
          t.ringUnit = s.ringUnit ∧ t.reads = s.reads) ∧
        ∀ o tag, s.ringUnit.opening = some o → o.phase = .allowance → recordAllowance s ≤ 4 → NextTag s tag →
          t.ringUnit = { s.ringUnit with opening := some { o with phase := .returnCount } } ∧
            t.reads =
              s.reads ++
                [{ unit := .ring
                   addr := s.profile.inForce.controlBlock + 0xF00
                   len := 4
                   stage := .waiting tag }]

/-- R110, R169: a RESPONSE job at the head writes its result data first, from 0x080 of the control block up
in writes of up to 512 bytes, and last the eight bytes at 0x040, with the result's code as the manual numbers it; at
that write it leaves and COMMAND_DONE is raised. -/
def Obligations.ResponseJobIssuesItsWrites : Prop :=
  ∀ (s : State) (r : Response) (js : List Job),
    PlaceFree s → NoReadWaits s → s.list.jobs = .response r :: js →
      (s.list.progress * 512 < r.data.length →
        exec .outletPlaceGrant s =
          .next
            { s with
              outlet :=
                s.outlet ++
                  [.write (s.profile.inForce.controlBlock + 0x80 + s.list.progress * 512)
                    ((r.data.drop (s.list.progress * 512)).take 512)]
              list := { s.list with progress := s.list.progress + 1 } }) ∧
      ∀ code : Byte,
        (r.result, code) ∈
          ([(.ok, 0x00), (.staged, 0x01), (.live, 0x02), (.already, 0x03), (.aborted, 0x04), (.ready, 0x05),
            (.busy, 0x10), (.noMap, 0x11), (.refusedFrozen, 0x12), (.invalidMap, 0x13), (.readFault, 0x14),
            (.locked, 0x15), (.invalidParam, 0x16), (.unsupported, 0x1E),
            (.deviceFault, 0x1F)] : List (ResultCode × Byte)) →
        r.data.length ≤ s.list.progress * 512 →
        ∃ t, exec .outletPlaceGrant s = .next t ∧
          t.outlet =
            s.outlet ++
              [.write (s.profile.inForce.controlBlock + 0x40)
                (leBytes 4 r.seq.toNat ++ [r.code, code] ++ leBytes 2 r.data.length)] ∧
          t.list.jobs <:+ js ∧ otherJobs t = js.filter (fun j => !isFill j) ∧
          t.attention = { s.attention with causes := s.attention.causes ||| 2048 } ∧ t.table = s.table

/-- R2, R4, R6, R7, R13: at its grant an outside piece or a forwarded READ enters the queue unchanged; a head piece
whose slot is OPEN for a repeat in OPENING is not handed on, and the place stays free. At the grant of the last piece
of a transaction, of whatever kind, the decoder takes what the port holds, as if it were offered in turn after a grant
with nothing held (what the port holds is the model's, log entry 10). -/
def Obligations.PassThroughEntersUnchanged : Prop :=
  (∀ (s : State) (a : Nat) (p : List Byte) (rest : List Piece), InletNext s (.outside a p) rest →
      exec .outletPlaceGrant s =
        .next { s with decode := rest, outlet := s.outlet ++ [.write a p] }) ∧
    (∀ (s : State) (a n : Nat) (tag : Tag) (rest : List Piece), InletNext s (.read a n tag) rest →
      exec .outletPlaceGrant s =
        .next { s with decode := rest, outlet := s.outlet ++ [.read a n tag] }) ∧
    (∀ (s : State) (l : Lane) (slot x k : Nat) (p : List Byte) (rest : List Piece) (e : Entry),
      InletTurn s (.aperture l slot x p) rest → (slotRecord s l slot).state = .opened →
        (slotRecord s l slot).ref = some (.entry k) → findEntry s k = some e → e.state = .opening →
        exec .outletPlaceGrant s = .next s) ∧
    ∀ (s t : State) (p : Piece), InletTurn s p [] →
      exec .outletPlaceGrant { s with inletHeld := [] } = .next t → t.decode = [] →
        exec .outletPlaceGrant s = offeredInTurn s.inletHeld t

/-- R57 to R61, R90: pieces that place nothing. One that finds no OPEN line is absorbed whole and changes nothing but
one counter: absorbed writes when its lane is OUT_OF_STEP, else stray writes. One on an OPEN line bound to ABSORB, or to
a DROPPED entry, is counted once as an absorbed write; it writes nothing and fills nothing, the fill mark moves, the
line retires when it reaches the line's length, and the DROPPED entry counts gap, rewrite and retirement. Of such
lines the statement takes those whose stamp is decided, with no entry complete. -/
def Obligations.UnplacedPieceIsAbsorbed : Prop :=
  ∀ (s : State) (l : Lane) (slot x : Nat) (p : List Byte) (rest : List Piece),
    InletNext s (.aperture l slot x p) rest →
      ((slotRecord s l slot).state ≠ .opened → s.maps.live ≠ none ∧ s.ring.step.get l = .outOfStep →
        exec .outletPlaceGrant s =
          .next
            { s with
              decode := rest
              counters := { s.counters with absorbedWrites := satInc s.counters.absorbedWrites } }) ∧
      ((slotRecord s l slot).state ≠ .opened → s.maps.live = none ∨ s.ring.step.get l ≠ .outOfStep →
        exec .outletPlaceGrant s =
          .next
            { s with
              decode := rest
              counters := { s.counters with strayWrites := satInc s.counters.strayWrites } }) ∧
      ∀ m, s.maps.live = some m → NoneComplete m s → s.ring.step.get l = .inStep →
        (slotRecord s l slot).state = .opened → (slotRecord s l slot).stamp ≠ .unchecked →
        ((slotRecord s l slot).ref = some .absorb →
          ∃ t, exec .outletPlaceGrant s = .next t ∧ t.decode = rest ∧
            slotRecord t l slot = lineAfter m (slotRecord s l slot) x p.length ∧ t.table = s.table ∧
            t.list = s.list ∧ t.outlet = s.outlet ∧ t.attention = s.attention ∧ t.ring.step = s.ring.step ∧
            t.counters = { s.counters with absorbedWrites := satInc s.counters.absorbedWrites }) ∧
        ∀ k e, (slotRecord s l slot).ref = some (.entry k) → findEntry s k = some e → e.state = .dropped →
          (e.endRow = none ∨ max (slotRecord s l slot).fillMark (x + p.length) < m.Lp * m.P) →
          ∃ t, exec .outletPlaceGrant s = .next t ∧ t.decode = rest ∧
            slotRecord t l slot = lineAfter m (slotRecord s l slot) x p.length ∧
            findEntry t k =
              some
                { e with
                  counts :=
                    (e.counts.set l
                      (countsAfter m (placedBy e l) (slotRecord s l slot) false x p.length
                        (e.counts.get l))) } ∧
            t.list = s.list ∧ t.outlet = s.outlet ∧ t.attention = s.attention ∧ t.ring.step = s.ring.step ∧
            t.counters = { s.counters with absorbedWrites := satInc s.counters.absorbedWrites }

/-! ### The Line Ring and placement (chapters 4, 5 and 7) -/

/-- R58, R60, R61, R72, R73, R74, R90: a piece accounted against an OPEN line of an OPEN repeat raises the fill mark to
max(m, min(x + n, lb)); its new kept bytes leave as one write at the target of R73, or nothing does when there
are none or their row is at or beyond the capacity. Where the line's stamp is decided, the entry's counts of the lane
become those of the piece: kept gap, rewrite bytes, and the retired and filled rows of a line that it ends. -/
def Obligations.KeptRunIsPlaced : Prop :=
  ∀ (s : State) (m : SteeringMap) (l : Lane) (slot x k q lo hi : Nat) (bytes : List Byte) (rest : List Piece)
    (e : Entry) (p : LanePlacement) (b : Buffer),
    InletNext s (.aperture l slot x bytes) rest → s.maps.live = some m →
      s.ring.step.get l = .inStep → (slotRecord s l slot).state = .opened →
      (slotRecord s l slot).ref = some (.entry k) → (slotRecord s l slot).row = some (e.firstRow + q) →
      findEntry s k = some e → e.state = .opened → e.buffer = some b → e.placement.get l = some p →
      lo = max x (max (slotRecord s l slot).fillMark (p.trimL * m.P)) →
      hi = min (x + bytes.length) (m.Lp * m.P - p.trimR * m.P) →
      ∃ t, exec .outletPlaceGrant s = .next t ∧ t.decode = rest ∧
        t.outlet =
          s.outlet ++
            (if lo < hi ∧ q < b.capacity then
              [.write
                ((b.base + q * b.stride + (p.colStart * m.P + (lo - p.trimL * m.P))) % 2 ^ 48)
                ((bytes.drop (lo - x)).take (hi - lo))]
            else []) ∧
        t.counters.absorbedWrites = s.counters.absorbedWrites ∧
        t.counters.strayWrites = s.counters.strayWrites ∧
        (s.acq.state ≠ .draining →
          (slotRecord t l slot).fillMark =
              max (slotRecord s l slot).fillMark (min (x + bytes.length) (m.Lp * m.P)) ∧
            (max (slotRecord s l slot).fillMark (min (x + bytes.length) (m.Lp * m.P)) = m.Lp * m.P →
              (slotRecord t l slot).state = .retired)) ∧
        ((slotRecord s l slot).stamp ≠ .unchecked →
          (∀ e', findEntry t k = some e' →
            e'.counts =
              e.counts.set l (countsAfter m p (slotRecord s l slot) true x bytes.length (e.counts.get l))) ∧
          (e.endRow = none → (findEntry t k).isSome))

/-- R59, R90, R104, R105: the kept part of a gap that a piece passed over is offered as one FILL job at the tail of
the list, with its row, its byte offset in the row, its length and the lane's fill value. With 240 FILL jobs on
the list it is lost instead: the entry's flag is set, FILL_LOST raised and the loss counted. Either way the gap
bytes are counted in the entry and the line's fill-made flag is set. -/
def Obligations.GapIsFilled : Prop :=
  ∀ (s : State) (m : SteeringMap) (l : Lane) (slot x k q y1 y2 : Nat) (bytes : List Byte) (rest : List Piece)
    (e : Entry) (p : LanePlacement),
    InletNext s (.aperture l slot x bytes) rest → ListSettled s →
      (s.list.jobs ≠ [] ∨ ∃ b, e.buffer = some b ∧ q < b.capacity) →
      s.maps.live = some m → NoneComplete m s → s.ring.step.get l = .inStep →
      (slotRecord s l slot).state = .opened → (slotRecord s l slot).stamp ≠ .unchecked →
      (slotRecord s l slot).ref = some (.entry k) → (slotRecord s l slot).row = some (e.firstRow + q) →
      findEntry s k = some e → e.state = .opened → e.placement.get l = some p →
      max (slotRecord s l slot).fillMark (x + bytes.length) < m.Lp * m.P →
      y1 = max (slotRecord s l slot).fillMark (p.trimL * m.P) → y2 = min x (m.Lp * m.P - p.trimR * m.P) →
      y1 < y2 →
      ∃ t e', exec .outletPlaceGrant s = .next t ∧ t.decode = rest ∧ (slotRecord t l slot).fillMade = true ∧
        findEntry t k = some e' ∧ (e'.counts.get l).gap = satAdd (e.counts.get l).gap (y2 - y1) ∧
        (∀ l', l' ≠ l → e'.counts.get l' = e.counts.get l') ∧
        (fillCount s < 240 →
          t.list.jobs =
              s.list.jobs ++
                [.fill
                  { target := .entry k
                    row := q
                    column := p.colStart * m.P + (y1 - p.trimL * m.P)
                    len := y2 - y1
                    value := p.fill }] ∧
            e'.fillLost = e.fillLost ∧ t.counters.fillsLost = s.counters.fillsLost ∧
            t.attention = s.attention) ∧
        (240 ≤ fillCount s →
          t.list = s.list ∧ e'.fillLost = true ∧
            t.counters.fillsLost = satInc s.counters.fillsLost ∧
            t.attention = { s.attention with causes := s.attention.causes ||| 512 })

/-- R61, R63, R64, R65, R104: the stamp of a line is decided at its first piece. One of at least two bytes at offset 0, with the
check enabled for the referenced entry's lane or for ABSORB's in the live map, matches or mismatches the binding. A
match sets the lane's count to 0; a mismatch adds one, to the entry's count too, and the third in a row puts the
lane OUT_OF_STEP, raises LANE_FAULT and leaves the lane no OPEN line: each OPEN line of the lane, that of the piece
among them, counts one retired row in its entry, and one filled row if it has had a fill or its kept bytes not yet
accounted for are filled now, and none is a short line. The counts are those of an entry still in the table after the
event, and while no entry leaves it those fills are what joins the list. Any other first piece decides SKIPPED and
counts nothing. -/
def Obligations.StampIsChecked : Prop :=
  ∀ (s : State) (m : SteeringMap) (l : Lane) (slot x : Nat) (i : BitVec 48) (bytes : List Byte)
    (rest : List Piece) (p : LanePlacement),
    InletNext s (.aperture l slot x bytes) rest → s.acq.state ≠ .draining → s.maps.live = some m →
      s.ring.step.get l = .inStep → (slotRecord s l slot).state = .opened →
      (slotRecord s l slot).stamp = .unchecked → slotFind slot s.ring.bindings = some i →
      ((∃ k e, (slotRecord s l slot).ref = some (.entry k) ∧ findEntry s k = some e ∧ e.state ≠ .opening ∧
          e.placement.get l = some p) ∨
        ((slotRecord s l slot).ref = some .absorb ∧ lanePlacement m l = some p)) →
      ∃ t, exec .outletPlaceGrant s = .next t ∧ t.decode = rest ∧
        (x = 0 ∧ 2 ≤ bytes.length ∧ p.stampCheck = true →
          if leNat (bytes.take 2) = i.toNat % 65536 then
            t.ring.mismatches.get l = 0 ∧ t.ring.step = s.ring.step ∧ (slotRecord t l slot).stamp = .matched
          else
            t.ring.mismatches.get l = s.ring.mismatches.get l + 1 ∧
              (slotRecord t l slot).stamp = .mismatched ∧
              (s.ring.mismatches.get l < 2 → t.ring.step = s.ring.step) ∧
              (2 ≤ s.ring.mismatches.get l →
                t.ring.step.get l = .outOfStep ∧ pendingCause .laneFault t = true ∧
                  (∀ slot', (slotRecord t l slot').state ≠ .opened) ∧
                  ∀ lines fills, RingOrdered s → (s.table.entries.map Entry.key).Nodup →
                    lines =
                      linesOf s l slot
                        (max (slotRecord s l slot).fillMark (min bytes.length (m.Lp * m.P))) →
                    fills = lines.flatMap (leftFill m s l) →
                    (∀ k e e', findEntry s k = some e → findEntry t k = some e' →
                      (e'.counts.get l).retired =
                          (e.counts.get l).retired +
                            BitVec.ofNat 32 (lines.countP fun r => decide (r.ref = some (.entry k))) ∧
                        (e'.counts.get l).filled =
                          (e.counts.get l).filled +
                            BitVec.ofNat 32
                              (lines.countP fun r =>
                                decide (r.ref = some (.entry k)) &&
                                  (r.fillMade || decide (leftFill m s l r ≠ []))) ∧
                        (e'.counts.get l).shortLines = (e.counts.get l).shortLines) ∧
                    (RoomFor s fills → t.table.entries.length = s.table.entries.length →
                      JoinsAtTail s t fills))) ∧
        (x ≠ 0 ∨ bytes.length < 2 ∨ p.stampCheck = false →
          t.ring.mismatches = s.ring.mismatches ∧ t.ring.step = s.ring.step ∧
            (slotRecord t l slot).stamp = .skipped) ∧
        (∀ k e, (slotRecord s l slot).ref = some (.entry k) → findEntry s k = some e →
          (e.endRow = none → (findEntry t k).isSome) ∧
            ∀ e', findEntry t k = some e' →
              (e'.counts.get l).mismatches =
                if x = 0 ∧ 2 ≤ bytes.length ∧ p.stampCheck = true ∧
                    leNat (bytes.take 2) ≠ i.toNat % 65536 then
                  satInc (e.counts.get l).mismatches
                else (e.counts.get l).mismatches) ∧
        ∀ l', l' ≠ l →
          t.ring.mismatches.get l' = s.ring.mismatches.get l' ∧ t.ring.step.get l' = s.ring.step.get l' ∧
            t.ring.slots.get l' = s.ring.slots.get l'

/-- R61, R93, R94, R95, R96, R101, R144: the piece that ends the last line of the last lane of an entry, while the other
entries have rows to retire. An OPEN entry closes: it leaves, its FILL jobs on the list are bound to its buffer where
they stand, and its one record is queued behind all of them, clean, with the pending dropped-before count. A DROPPED
entry is freed: it leaves with its FILL jobs and without a record. In DRAINING the table that is then empty ends the
drain. The statement takes a line whose stamp is decided and a list whose head has issued nothing. -/
def Obligations.RepeatClosesWithItsRecord : Prop :=
  ∀ (s : State) (m : SteeringMap) (l : Lane) (slot x r : Nat) (bytes : List Byte) (rest : List Piece)
    (e : Entry) (xs ys : List Entry),
    InletNext s (.aperture l slot x bytes) rest → s.maps.live = some m → (m.lanes.get l).isSome →
      s.ring.step.get l = .inStep → (slotRecord s l slot).state = .opened →
      (slotRecord s l slot).stamp ≠ .unchecked → (slotRecord s l slot).ref = some (.entry e.key) →
      s.table.entries = xs ++ e :: ys → (∀ y ∈ xs ++ ys, y.key ≠ e.key ∧ allRetired m y = false) →
      e.endRow = some r → r - e.firstRow < 2 ^ 32 → x ≤ (slotRecord s l slot).fillMark →
      (slotRecord s l slot).fillMark ≤ m.Lp * m.P → m.Lp * m.P ≤ x + bytes.length →
      (∀ l', (m.lanes.get l').isSome →
        (e.counts.get l').retired.toNat + (if l' = l then 1 else 0) = r - e.firstRow) →
      (e.state = .opened ∧ e.buffer.isSome ∨ e.state = .dropped) → ListSettled s → s.list.progress = 0 →
      ∃ t, exec .outletPlaceGrant s = .next t ∧ t.decode = rest ∧ t.table.entries = xs ++ ys ∧
        t.table.nextSeq = s.table.nextSeq ∧
        (e.state = .opened → ∀ b, e.buffer = some b →
          t.list =
              { jobs :=
                  s.list.jobs.map (boundTo e.key b) ++
                    [.record
                      { seq := e.seq
                        generation := e.generation
                        firstRow := e.firstRow
                        rowCount := r - e.firstRow
                        capacity := b.capacity
                        startKind := e.startKind
                        endKind := e.endKind
                        counts :=
                          e.counts.set l
                            { e.counts.get l with
                              retired := (e.counts.get l).retired + 1
                              filled :=
                                if (slotRecord s l slot).fillMade then (e.counts.get l).filled + 1
                                else (e.counts.get l).filled
                              discarded :=
                                satAdd (e.counts.get l).discarded ((slotRecord s l slot).fillMark - x) }
                        overspeed := e.overspeed
                        fillLost := e.fillLost
                        status := .clean
                        droppedBefore := s.table.droppedBefore
                        descIndex := e.descIndex.getD 0
                        area := m.ringBase + e.descIndex.getD 0 * 512 + 0x40 }]
                progress := 0 } ∧
            t.table.droppedBefore = 0 ∧ t.counters = s.counters) ∧
        (e.state = .dropped →
          t.list = { jobs := s.list.jobs.filter (fun j => !isFillOf e.key j), progress := 0 } ∧
            t.table.droppedBefore = s.table.droppedBefore ∧ t.outlet = s.outlet ∧
            t.counters = { s.counters with absorbedWrites := satInc s.counters.absorbedWrites }) ∧
        (s.acq.state ≠ .draining ∨ xs ++ ys ≠ [] →
          t.acq = s.acq ∧ t.attention = s.attention) ∧
        (s.acq.state = .draining → xs ++ ys = [] →
          t.acq.state = .disarmed ∧ t.tracker.state = .idle ∧ t.ring.bindings = [] ∧
            t.attention = { s.attention with causes := s.attention.causes ||| 4096 })

/-! ### The outlet, completions and tags (chapter 1) -/

/-- R9, R11, R16: the head of the Outlet Queue leaves; a bridge read that leaves is then outstanding outside. A
completion on a grabber tag goes back to the grabber unchanged in any condition; one on a reserved tag that no
read holds is discarded, and frees its tag if a reset held it back. -/
def Obligations.TrafficPassesTheOutletPort : Prop :=
  (∀ (s : State) (a : Nat) (p : List Byte) (rest : List OutTxn), Awake s → s.outlet = .write a p :: rest →
      exec .outletTransactionLeaves s =
        .next { s with outlet := rest, sent := s.sent ++ [.write a p] }) ∧
    (∀ (s : State) (a n : Nat) (tag : Tag) (rest : List OutTxn) (xs ys : List BridgeRead) (r : BridgeRead),
      Awake s → s.outlet = .read a n tag :: rest → s.reads = xs ++ r :: ys → r.stage = .queued tag →
        (∀ x ∈ xs, x.stage ≠ .queued tag) →
        exec .outletTransactionLeaves s =
          .next
            { s with
              outlet := rest
              sent := s.sent ++ [.read a n tag]
              reads := xs ++ { r with stage := .left tag } :: ys }) ∧
    ∀ (c : Completion) (s : State),
      (c.tag.toNat < 240 → exec (.readCompletion c) s = .next { s with returned := s.returned ++ [c] }) ∧
        (240 ≤ c.tag.toNat → (∀ r ∈ s.reads, stageTag r.stage ≠ some c.tag) →
          exec (.readCompletion c) s =
            .next { s with heldTags := s.heldTags.filter fun t => decide (t ≠ c.tag) })

/-- R10: the one request that waits for a tag is given the lowest-numbered free one, and waits on while none
is free. -/
def Obligations.LowestFreeTagIsGiven : Prop :=
  ∀ (s : State) (xs ys : List BridgeRead) (r : BridgeRead),
    Awake s → s.reads = xs ++ r :: ys → r.stage = .untagged → (∀ x ∈ xs ++ ys, x.stage ≠ .untagged) →
      (∀ t, FreeTag s t → (∀ u, FreeTag s u → t.toNat ≤ u.toNat) →
        exec .tagAssigned s = .next { s with reads := xs ++ { r with stage := .waiting t } :: ys }) ∧
      ((∀ t, ¬FreeTag s t) → exec .tagAssigned s = .next s)

/-! ### The web (chapters 2 and 3) -/

/-- R18, R19, R20: in DISARMED each forward count adds one to the position and each reverse count subtracts
one, modulo 2^48. In any state an unchanged pair and the first observation make no count, and a transition in
which both phases changed makes none either: it raises ENCODER_FAULT and counts an encoder fault. The pair
observed becomes the last phase pair, and nothing else moves but time. -/
def Obligations.TransitionsAreCounted : Prop :=
  ∀ (new : PhasePair) (elapsed : Nat) (s : State), Awake s →
    (s.acq.state = .disarmed → CountOf s new true →
      exec (.encoderTransition new elapsed) s =
        .next
          { observed new elapsed s with
            encoder := { s.encoder with lastPair := some new, position := s.encoder.position + 1 } }) ∧
    (s.acq.state = .disarmed → CountOf s new false →
      exec (.encoderTransition new elapsed) s =
        .next
          { observed new elapsed s with
            encoder := { s.encoder with lastPair := some new, position := s.encoder.position - 1 } }) ∧
    ((s.encoder.lastPair = none ∨ s.encoder.lastPair = some new) →
      exec (.encoderTransition new elapsed) s = .next (observed new elapsed s)) ∧
    ∀ last, s.encoder.lastPair = some last → new.a ≠ last.a → new.b ≠ last.b →
      exec (.encoderTransition new elapsed) s =
        .next
          { observed new elapsed s with
            attention := { s.attention with causes := s.attention.causes ||| 64 }
            counters := { s.counters with encoderFaults := satInc s.counters.encoderFaults } }

/-- R21, R22: behind the high-water mark, and at a reverse count, only the position moves; WEB_REVERSE is
raised when the depth becomes equal to the reverse limit with the flag clear, and the flag is cleared when the
depth returns to 0. -/
def Obligations.ReverseTravelMovesNoStrobe : Prop :=
  ∀ (new : PhasePair) (elapsed : Nat) (m : SteeringMap) (s : State), Awake s → s.acq.state ≠ .disarmed →
    s.maps.live = some m →
    (CountOf s new true → s.encoder.highWater ≠ s.encoder.position →
      exec (.encoderTransition new elapsed) s =
        .next
          { observed new elapsed s with
            encoder :=
              { s.encoder with
                lastPair := some new
                position := s.encoder.position + 1
                reverseFlag :=
                  if s.encoder.position + 1 = s.encoder.highWater then false else s.encoder.reverseFlag } }) ∧
    (CountOf s new false → (s.encoder.highWater - s.encoder.position).toNat < 2 ^ 48 - 1 →
      exec (.encoderTransition new elapsed) s =
        .next
          (if (s.encoder.highWater - s.encoder.position).toNat + 1 = m.reverseLimit ∧
              s.encoder.reverseFlag = false then
            { observed new elapsed s with
              encoder :=
                { s.encoder with
                  lastPair := some new, position := s.encoder.position - 1, reverseFlag := true }
              attention := { s.attention with causes := s.attention.causes ||| 32 } }
          else
            { observed new elapsed s with
              encoder := { s.encoder with lastPair := some new, position := s.encoder.position - 1 } })) ∧
    (CountOf s new false → (s.encoder.highWater - s.encoder.position).toNat = 2 ^ 48 - 1 →
      exec (.encoderTransition new elapsed) s = .next (observed new elapsed s))

/-- R21, R24, R36: a forward count at new ground raises the position and the high-water mark, and φ by 65,536; while
φ stays below Q no strobe falls due and nothing else changes, but that a qualification whose confirm point is
reached with the input deasserted ends there and is counted as a rejected mark. -/
def Obligations.PhaseStepWithoutStrobe : Prop :=
  ∀ (new : PhasePair) (elapsed : Nat) (m : SteeringMap) (s t : State), AtNewGround s m → CountOf s new true →
    s.strobe.phase + 65536 < m.Q →
    t =
      { observed new elapsed s with
        encoder :=
          { s.encoder with
            lastPair := some new
            position := s.encoder.position + 1
            highWater := s.encoder.highWater + 1 }
        strobe := { (observed new elapsed s).strobe with phase := s.strobe.phase + 65536 } } →
      (NoConfirm s → exec (.encoderTransition new elapsed) s = .next t) ∧
      ∀ q level, s.tracker.qualification = some q → q.confirm = s.encoder.highWater.toNat + 1 →
        s.tracker.markLevel = some level → (level = true ↔ m.activeLow = true) →
        exec (.encoderTransition new elapsed) s =
          .next
            { t with
              tracker := { s.tracker with qualification := none }
              counters := { s.counters with rejectedMarks := satInc s.counters.rejectedMarks } }

/-- R24 to R29: at the phase step at which φ reaches Q a strobe falls due: φ falls by Q and the next-strobe
number rises by one. A strobe that passes the spacing test is issued: it takes the issue index, sets the
last-issue time and drives the line for 100 periods; another is skipped and counted, and OVERSPEED is raised.
It holds in every armed state, whatever else comes about at the advance and in whatever order; in DRAINING the
table is not empty. -/
def Obligations.StrobeFallsDue : Prop :=
  ∀ (new : PhasePair) (elapsed : Nat) (m : SteeringMap) (s : State), AtNewGround s m → CountOf s new true →
    (s.acq.state = .draining → s.table.entries ≠ []) → m.Q ≤ s.strobe.phase + 65536 →
      ∃ t, exec (.encoderTransition new elapsed) s = .next t ∧
        t.encoder =
          { s.encoder with
            lastPair := some new
            position := s.encoder.position + 1
            highWater := s.encoder.highWater + 1 } ∧
        (SpacingPasses m s (s.clock + elapsed) →
          t.strobe =
              { phase := s.strobe.phase + 65536 - m.Q
                nextStrobe := s.strobe.nextStrobe + 1
                issueIndex := s.strobe.issueIndex + 1
                lastIssue := some (s.clock + elapsed)
                lineUntil := some (s.clock + elapsed + 100) } ∧
            t.counters.skippedStrobes = s.counters.skippedStrobes) ∧
        (¬SpacingPasses m s (s.clock + elapsed) →
          t.strobe =
              { (observed new elapsed s).strobe with
                phase := s.strobe.phase + 65536 - m.Q, nextStrobe := s.strobe.nextStrobe + 1 } ∧
            t.counters.skippedStrobes = satInc s.counters.skippedStrobes ∧
            pendingCause .overspeed t = true)

/-- R52, R54, R55: an issued strobe k with issue index i writes i into the binding ring at slot i mod S, and
binds that slot in each enabled lane IN_STEP to row k − D and the entry that owns it, or to ABSORB; a lane that
is OFF is not bound. -/
def Obligations.IssuedStrobeBindsSlots : Prop :=
  ∀ (new : PhasePair) (elapsed : Nat) (m : SteeringMap) (s : State), AtNewGround s m → CountOf s new true →
    s.acq.state ≠ .draining → m.Q ≤ s.strobe.phase + 65536 → SpacingPasses m s (s.clock + elapsed) →
    NoConfirm s → NothingWatched s m (s.strobe.nextStrobe + 1).toNat →
      ∃ t, exec (.encoderTransition new elapsed) s = .next t ∧
        slotFind (s.strobe.issueIndex.toNat % m.S) t.ring.bindings = some s.strobe.issueIndex ∧
        t.ring.step = s.ring.step ∧
        (∀ l, s.ring.step.get l = .off → t.ring.slots.get l = s.ring.slots.get l) ∧
        ∀ l lm, m.lanes.get l = some lm → s.ring.step.get l = .inStep →
          ∃ row ref,
            slotRecord t l (s.strobe.issueIndex.toNat % m.S) =
              { state := .opened, fillMark := 0, row := row, ref := some ref, stamp := .unchecked,
                fillMade := false } ∧
            (s.strobe.nextStrobe.toNat < lm.lag → row = none ∧ ref = .absorb) ∧
            (lm.lag ≤ s.strobe.nextStrobe.toNat →
              row = some (s.strobe.nextStrobe.toNat - lm.lag) ∧
                (∀ k, ref = .entry k →
                  ∃ e, OwnsRow s e (s.strobe.nextStrobe.toNat - lm.lag) ∧ e.key = k) ∧
                (ref = .absorb → ∀ e, ¬OwnsRow s e (s.strobe.nextStrobe.toNat - lm.lag)))

/-- R55, R56, R59, R61, R62, R90, R104: at the binding of an issued strobe, an OPEN line of a lane IN_STEP that stands in
the slot is given up: it counts one short line and one retired row in its entry, and one filled row if it has had a
fill or its kept bytes not yet accounted for are filled now. In a lane OUT_OF_STEP the new line is retired at once,
with a fill when its entry is not DROPPED and the kept range is not empty. The counts are those of an entry that is
still in the table after the event. While no entry leaves the table, the FILL jobs of both kinds, with their row, byte
offset, length and value, are what joins the list. -/
def Obligations.RebindingGivesLinesUp : Prop :=
  ∀ (new : PhasePair) (elapsed : Nat) (m : SteeringMap) (s : State), AtNewGround s m → CountOf s new true →
    s.acq.state ≠ .draining → m.Q ≤ s.strobe.phase + 65536 → SpacingPasses m s (s.clock + elapsed) →
    NoConfirm s → NothingWatched s m (s.strobe.nextStrobe + 1).toNat →
      ∃ t, exec (.encoderTransition new elapsed) s = .next t ∧
        (∀ l lm slot, m.lanes.get l = some lm → slot = s.strobe.issueIndex.toNat % m.S →
          (∀ k e e' p, s.ring.step.get l = .inStep → (slotRecord s l slot).state = .opened →
            (slotRecord s l slot).ref = some (.entry k) → findEntry s k = some e →
            e.placement.get l = some p → findEntry t k = some e' →
            e'.counts.get l =
              { e.counts.get l with
                retired := (e.counts.get l).retired + 1
                shortLines := satInc (e.counts.get l).shortLines
                filled :=
                  if (slotRecord s l slot).fillMade = true ∨
                      (e.state ≠ .dropped ∧
                        max (slotRecord s l slot).fillMark (p.trimL * m.P) < m.Lp * m.P - p.trimR * m.P) then
                    (e.counts.get l).filled + 1
                  else (e.counts.get l).filled }) ∧
          (s.ring.step.get l = .outOfStep → (slotRecord s l slot).state ≠ .opened →
            (slotRecord t l slot).state = .retired ∧ (slotRecord t l slot).stamp = .skipped ∧
              ∀ e e' p, lm.lag ≤ s.strobe.nextStrobe.toNat →
                lookupRow s (s.strobe.nextStrobe.toNat - lm.lag) = some e →
                (s.table.entries.map Entry.key).Nodup → e.placement.get l = some p →
                findEntry t e.key = some e' →
                e'.counts.get l =
                  { e.counts.get l with
                    retired := (e.counts.get l).retired + 1
                    filled :=
                      if e.state ≠ .dropped ∧ p.trimL * m.P < m.Lp * m.P - p.trimR * m.P then
                        (e.counts.get l).filled + 1
                      else (e.counts.get l).filled })) ∧
        ∀ fills,
          fills =
            allLanes.flatMap
              (bindingFills m s (s.strobe.issueIndex.toNat % m.S) s.strobe.nextStrobe.toNat) →
          RoomFor s fills → (s.table.entries.map Entry.key).Nodup →
          t.table.entries.length = s.table.entries.length → JoinsAtTail s t fills

/-- R82, R91, R104: a skipped strobe k retires row k − D of each enabled lane whose row an entry owns: one retired row each in
that entry, one filled row each in an OPENING or OPEN entry and none in a DROPPED one, and one overspeed row each.
The other counts stand, and an entry without an end row stays in the table. While no entry leaves it, a FILL job of the
lane's whole kept range for each such row of an OPENING or OPEN entry is what joins the list. -/
def Obligations.SkippedRowsRetire : Prop :=
  ∀ (new : PhasePair) (elapsed : Nat) (m : SteeringMap) (s : State), AtNewGround s m →
    CountOf s new true → m.Q ≤ s.strobe.phase + 65536 → ¬SpacingPasses m s (s.clock + elapsed) →
    NoConfirm s → NothingWatched s m (s.strobe.nextStrobe + 1).toNat →
    (s.table.entries.map Entry.key).Nodup → (∀ e ∈ s.table.entries, e.overspeed.toNat + 8 < 2 ^ 32) →
      ∃ t, exec (.encoderTransition new elapsed) s = .next t ∧
        (∀ e' ∈ t.table.entries, ∃ e ∈ s.table.entries,
          e'.key = e.key ∧ e'.state = e.state ∧ e'.firstRow = e.firstRow ∧ e'.endRow = e.endRow ∧
            (∀ l, e'.counts.get l =
              (if skipsRowOf m s s.strobe.nextStrobe.toNat e l then
                { e.counts.get l with
                  retired := (e.counts.get l).retired + 1
                  filled :=
                    if e.state = .dropped then (e.counts.get l).filled else (e.counts.get l).filled + 1 }
              else e.counts.get l)) ∧
            e'.overspeed =
              e.overspeed +
                BitVec.ofNat 32 (allLanes.countP (skipsRowOf m s s.strobe.nextStrobe.toNat e))) ∧
        (∀ e ∈ s.table.entries, e.endRow = none → ∃ e' ∈ t.table.entries, e'.key = e.key) ∧
        (s.acq.state ≠ .draining → t.ring.slots = s.ring.slots) ∧
        ∀ fills, fills = allLanes.flatMap (skippedFills m s s.strobe.nextStrobe.toNat) →
          RoomFor s fills → t.table.entries.length = s.table.entries.length → JoinsAtTail s t fills

/-- R30, R149, R150: a forward count at the counter limit is not applied; the run is aborted, the bridge is
DISARMED with an empty table, and RUN_ENDED is raised. No strobe number is taken. -/
def Obligations.CounterLimitAborts : Prop :=
  ∀ (new : PhasePair) (elapsed : Nat) (m : SteeringMap) (s : State), Awake s → s.acq.state ≠ .disarmed →
    s.maps.live = some m → CountOf s new true → s.encoder.position = s.encoder.highWater →
    s.encoder.highWater.toNat = 2 ^ 48 - 1 →
      ∃ t, exec (.encoderTransition new elapsed) s = .next t ∧
        t.encoder = { s.encoder with lastPair := some new } ∧
        t.strobe = (observed new elapsed s).strobe ∧ t.acq.state = .disarmed ∧ t.acq.request = .none ∧
        t.table.entries = [] ∧ t.tracker.state = .idle ∧ t.ring.bindings = [] ∧
        t.attention.causes = s.attention.causes ||| 4096 ∧ t.counters = s.counters ∧
        (∀ j ∈ t.list.jobs, isEntryFill j = false) ∧ t.mailbox = s.mailbox

/-- R29: at the end of its pulse the strobe line becomes inactive; time is then no earlier than that end (the clock is the
model's, log entry 9). -/
def Obligations.StrobePulseEnds : Prop :=
  ∀ (u : Nat) (s : State), Awake s → s.strobe.lineUntil = some u →
    exec .strobePulseEnd s =
        .next { s with clock := max s.clock u, strobe := { s.strobe with lineUntil := none } } ∧
      strobeLineActive s = true

/-- R34, R35: a mark edge at high-water in an armed TRACK run begins a qualification that records the
next-strobe number and the confirm point h counts above the high-water mark; while one is pending the edge is
ignored and counted; in IDLE, in FIXED mode or behind the high-water mark it has no effect. An observation that is no
edge, the first after a reset, one of an unchanged level and one of the deasserted level, sets the last observed level
and nothing else. -/
def Obligations.MarkEdgeBeginsQualification : Prop :=
  (∀ (level : Bool) (m : SteeringMap) (s : State), Awake s → s.maps.live = some m →
      s.tracker.markLevel = some (!level) → (level = true ↔ m.activeLow = false) →
      (s.tracker.state ≠ .idle → m.mode = .track → s.acq.state ≠ .disarmed →
        s.encoder.position = s.encoder.highWater →
        (s.tracker.qualification = none → 0 < m.h →
          exec (.markEdge level) s =
            .next
              { s with tracker :=
                  { s.tracker with
                    markLevel := some level
                    qualification :=
                      some
                        { edge := s.strobe.nextStrobe.toNat
                          confirm := s.encoder.highWater.toNat + m.h } } }) ∧
        (s.tracker.qualification ≠ none →
          exec (.markEdge level) s =
            .next
              { s with
                tracker := { s.tracker with markLevel := some level }
                counters := { s.counters with rejectedMarks := satInc s.counters.rejectedMarks } })) ∧
      (s.tracker.state = .idle ∨ m.mode = .fixed ∨ s.encoder.position ≠ s.encoder.highWater →
        exec (.markEdge level) s = .next { s with tracker := { s.tracker with markLevel := some level } })) ∧
    ∀ (level : Bool) (s : State), Awake s →
      (s.tracker.markLevel = none ∨ s.tracker.markLevel = some level ∨
          ∃ m, s.maps.live = some m ∧ (level = true ↔ m.activeLow = true)) →
        exec (.markEdge level) s = .next { s with tracker := { s.tracker with markLevel := some level } }

/-- R35, R36, R39, R41, R42, R47, R83, R84, R85, R89, R136, R143: with a hold of 0 a mark is judged at its edge, and with
a longer one at the high-water advance that reaches its confirm point, if the input is then asserted; the statement
takes an advance at which no strobe falls due. It proposes the boundary at the next-strobe number of its edge plus M.
In SEARCH, and in LOCKED or COASTING inside the window, it is accepted: a staged map becomes live, the tracker is LOCKED
with its window set up from the map then live, the newest entry is ended there with kind MARK unless it has an end,
and the opening rule decides whether a repeat opens. One that opens takes the next sequence number and is created in
OPENING with that map's generation and placement set, or is dropped when the table is full. Outside the window the
mark is counted as a stray. -/
def Obligations.MarkIsJudged : Prop :=
  ∀ (m n : SteeringMap) (s : State), Awake s → s.maps.live = some m → n = s.maps.staged.getD m →
    n.mode = .track → m.mode = .track → s.acq.state ≠ .disarmed →
    (s.acq.state = .draining → s.table.entries ≠ []) → s.encoder.position = s.encoder.highWater →
    (s.table.entries.map Entry.key).Nodup →
      (∀ level : Bool, s.tracker.markLevel = some (!level) → (level = true ↔ m.activeLow = false) → m.h = 0 →
        s.tracker.qualification = none → s.tracker.state ≠ .idle →
        ∃ t, exec (.markEdge level) s = .next t ∧
          MarkJudged n (s.strobe.nextStrobe.toNat + m.M)
            { s with tracker := { s.tracker with markLevel := some level } } t) ∧
      ∀ (new : PhasePair) (elapsed : Nat) (q : Qualification) (level : Bool), AtNewGround s m →
        CountOf s new true → s.strobe.phase + 65536 < m.Q → s.tracker.qualification = some q →
        q.confirm = s.encoder.highWater.toNat + 1 → s.tracker.markLevel = some level →
        (level = true ↔ m.activeLow = false) →
        ∃ t, exec (.encoderTransition new elapsed) s = .next t ∧
          MarkJudged n (q.edge + m.M)
            { observed new elapsed s with
              encoder :=
                { s.encoder with
                  lastPair := some new
                  position := s.encoder.position + 1
                  highWater := s.encoder.highWater + 1 }
              strobe := { (observed new elapsed s).strobe with phase := s.strobe.phase + 65536 }
              tracker := { s.tracker with qualification := none } }
            t

/-- R40, R43, R44, R46, R47, R48, R83, R84, R86, R136, R143: what the increase of the next-strobe number to n sets off in
a RUNNING or HELD bridge, whatever the order of the things that come about at the advance: a flywheel decision at E
with a coast count below 8, the lost decision at 8, the FIXED decision at E − M, and the search fault. A decision ends
the newest entry with its kind; after a flywheel or FIXED decision the acquisition state is that of the opening rule
and a repeat that opens is created with the decision's kind; at a lost decision none opens. -/
def Obligations.NextStrobeSetsOffDecisions : Prop :=
  ∀ (new : PhasePair) (elapsed : Nat) (m l : SteeringMap) (s : State) (e f : Nat), AtNewGround s m →
    CountOf s new true → s.acq.state ≠ .draining → m.Q ≤ s.strobe.phase + 65536 → NoConfirm s →
    l = s.maps.staged.getD m → l.mode = m.mode → KeysApart s →
    ∃ t, exec (.encoderTransition new elapsed) s = .next t ∧
      (m.mode = .track → s.tracker.state = .locked ∨ s.tracker.state = .coasting →
        s.tracker.expected = some e → s.tracker.decisionPoint = some f →
        f ≤ (s.strobe.nextStrobe + 1).toNat →
        (s.tracker.coast < 8 →
          t.tracker =
            { s.tracker with
              state := .coasting
              expected := some (e + l.N)
              halfWidth := some l.W
              decisionPoint := some (e + l.N + l.W + l.h + 1 - l.M)
              coast := s.tracker.coast + 1 } ∧
          t.maps = { live := some l, staged := none } ∧ BoundaryDecided .flywheel e l s t) ∧
        (s.tracker.coast = 8 →
          t.tracker =
            { s.tracker with
              state := .search
              qualification := none
              expected := none
              halfWidth := none
              decisionPoint := none
              coast := 0
              searchStart := some (s.strobe.nextStrobe + 1).toNat
              searchFault := false } ∧
          t.maps = s.maps ∧ t.acq = s.acq ∧ pendingCause .markFault t = true ∧
          NewestEnded .flywheel e m s t ∧ NoneOpened s t ∧
          t.counters.rejectedMarks =
            (if s.tracker.qualification.isSome then satInc s.counters.rejectedMarks
            else s.counters.rejectedMarks))) ∧
      (m.mode = .fixed → s.tracker.state = .locked → s.tracker.expected = some e →
        (s.strobe.nextStrobe + 1).toNat = e - m.M →
        t.tracker =
            { s.tracker with
              expected := some (e + l.N), halfWidth := some l.W, decisionPoint := some (e + l.N - l.M) } ∧
          t.maps = { live := some l, staged := none } ∧ BoundaryDecided .fixed e l s t) ∧
      (s.tracker.state = .search → s.tracker.searchFault = false →
        s.tracker.searchStart = some f → (s.strobe.nextStrobe + 1).toNat = f + 4 * m.N →
        t.tracker = { s.tracker with searchFault := true } ∧ pendingCause .markFault t = true ∧
          t.maps = s.maps ∧ t.acq = s.acq ∧ NoneOpened s t)

/-! ### The acquisition requests (chapter 10) -/

/-- R145, R146: HOLD sets the pending request in RUNNING and cancels a pending RESUME in HELD; RESUME sets it in
HELD and cancels a pending HOLD in RUNNING; both are answered OK then and ALREADY otherwise, and nothing else
changes. -/
def Obligations.HoldAndResumeAreAnswered : Prop :=
  ∀ (s : State) (c : TakenCommand), s.profile.faulted = false → ListSettled s →
    (Taken s c 0x04 →
      exec .hold s =
        .next
          (if s.acq.state = .running ∧ s.acq.request = .none then
            answered c .ok [] { s with acq := { s.acq with request := .hold } }
          else if s.acq.state = .held ∧ s.acq.request = .resume then
            answered c .ok [] { s with acq := { s.acq with request := .none } }
          else answered c .already [] s)) ∧
    (Taken s c 0x05 →
      exec .resume s =
        .next
          (if s.acq.state = .held ∧ s.acq.request = .none then
            answered c .ok [] { s with acq := { s.acq with request := .resume } }
          else if s.acq.state = .running ∧ s.acq.request = .hold then
            answered c .ok [] { s with acq := { s.acq with request := .none } }
          else answered c .already [] s))

/-- R147, R148: DISARM with entries in the table starts the drain; with an empty table it enters DISARMED at
once: the tracker becomes IDLE, the Line Ring is cleared, a staged map becomes live and RUN_ENDED is raised; in
DRAINING and DISARMED it is answered ALREADY. -/
def Obligations.DisarmDrainsOrEnds : Prop :=
  ∀ (s : State) (c : TakenCommand), s.profile.faulted = false → ListSettled s → Taken s c 0x02 →
    (s.acq.state = .disarmed ∨ s.acq.state = .draining → exec .disarm s = .next (answered c .already [] s)) ∧
    (s.acq.state = .running ∨ s.acq.state = .held → s.table.entries ≠ [] →
      exec .disarm s =
        .next (answered c .ok [3] { s with acq := { s.acq with state := .draining, request := .none } })) ∧
    (s.acq.state = .running ∨ s.acq.state = .held → s.table.entries = [] →
      ∃ t, exec .disarm s = .next t ∧ t.acq = { s.acq with state := .disarmed, request := .none } ∧
        t.tracker = { Tracker.initial with markLevel := s.tracker.markLevel } ∧ t.ring.bindings = [] ∧
        t.ring.slots = Lanes.every [] ∧ t.maps.staged = none ∧
        t.maps.live = (s.maps.staged.orElse fun _ => s.maps.live) ∧
        t.attention = { s.attention with causes := s.attention.causes ||| 4096 } ∧ t.table = s.table ∧
        t.list.jobs =
          s.list.jobs ++ [.response { seq := c.seq, code := c.code, result := .ok, data := [0] }] ∧
        t.counters = s.counters ∧ t.strobe = s.strobe ∧ t.encoder = s.encoder ∧ t.outlet = s.outlet)

/-- R33, R38, R46, R66, R67, R102, R142: ARM with a map live begins the run: position, high-water mark, φ, numbers
and counts of the run become 0, the Line Ring is clear with the enabled lanes IN_STEP, the tracker is in SEARCH
in TRACK mode; in FIXED mode the boundary at row M is decided at once and its repeat opens. With no map live it
is answered NO_MAP, while armed BUSY. -/
def Obligations.ArmBeginsTheRun : Prop :=
  ∀ (s : State) (c : TakenCommand), s.profile.faulted = false → ListSettled s → Taken s c 0x01 →
    (s.acq.state = .disarmed → s.maps.live = none → exec .arm s = .next (answered c .noMap [] s)) ∧
    (s.acq.state ≠ .disarmed → exec .arm s = .next (answered c .busy [] s)) ∧
    ∀ m, s.acq.state = .disarmed → s.maps.live = some m → s.maps.staged = none → s.table.entries = [] →
      ∃ t, exec .arm s = .next t ∧ t.acq = { s.acq with state := .running, request := .none } ∧
        t.encoder = { s.encoder with position := 0, highWater := 0, reverseFlag := false } ∧
        t.strobe =
          { s.strobe with phase := 0, nextStrobe := 0, issueIndex := 0, lastIssue := none } ∧
        t.ring.bindings = [] ∧ t.ring.slots = Lanes.every [] ∧ t.ring.mismatches = Lanes.every 0 ∧
        (∀ l, t.ring.step.get l = if (m.lanes.get l).isSome then .inStep else .off) ∧
        t.table.droppedBefore = 0 ∧ t.ringUnit = s.ringUnit ∧ t.counters = s.counters ∧ t.maps = s.maps ∧
        t.mailbox = { s.mailbox with taken := none } ∧ t.attention = s.attention ∧ t.outlet = s.outlet ∧
        t.decode = s.decode ∧
        t.list.jobs =
          s.list.jobs ++ [.response { seq := c.seq, code := c.code, result := .ok, data := [] }] ∧
        (m.mode = .track →
          t.tracker =
            { Tracker.initial with
              state := .search, markLevel := s.tracker.markLevel, searchStart := some 0 } ∧
          t.table.entries = [] ∧ t.table.nextSeq = 0) ∧
        (m.mode = .fixed →
          t.tracker =
            { Tracker.initial with
              state := .locked
              markLevel := s.tracker.markLevel
              expected := some (m.M + m.N)
              halfWidth := some m.W
              decisionPoint := some (m.M + m.N - m.M) } ∧
          t.table.nextSeq = 1 ∧
          ∃ e, t.table.entries = [e] ∧ e.seq = 0 ∧ e.state = .opening ∧ e.firstRow = m.M ∧
            e.endRow = none ∧ e.startKind = .fixed ∧ e.generation = m.generation)

/-- R95, R99, R149: ABORT while armed queues one CANCELLED record for each entry that is OPEN, or OPENING with a
descriptor index, in order of the table, before the response that counts them; each holds its entry's fields, goes to
the record area of its descriptor, and has end kind CANCELLED when the entry has no end row; every FILL job of the table's
entries is removed, the table is cleared, the opening operation ends and the bridge is DISARMED. -/
def Obligations.AbortCancelsTheRun : Prop :=
  ∀ (s : State) (c : TakenCommand), s.profile.faulted = false → Taken s c 0x03 →
    (s.acq.state = .disarmed → ListSettled s → exec .abort s = .next (answered c .already [] s)) ∧
    (s.acq.state ≠ .disarmed →
      ∃ t rs, exec .abort s = .next t ∧
        otherJobs t =
          otherJobs s ++ rs.map Job.record ++
            [.response
              { seq := c.seq, code := c.code, result := .aborted, data := leBytes 1 rs.length }] ∧
        rs.map (fun r => (r.seq, r.firstRow, r.counts)) =
          (s.table.entries.filter fun e =>
              decide (e.state = .opened) || (decide (e.state = .opening) && e.descIndex.isSome)).map
            (fun e => (e.seq, e.firstRow, e.counts)) ∧
        (∀ m, s.maps.live = some m →
          rs.map (fun r => { r with droppedBefore := 0 }) =
            (s.table.entries.filter fun e =>
                decide (e.state = .opened) || (decide (e.state = .opening) && e.descIndex.isSome)).map
              (fun e =>
                recordFor m
                  { e with endKind := if e.endRow = none then some .cancelled else e.endKind } .cancelled 0)) ∧
        (∀ r ∈ rs, r.status = .cancelled) ∧ (∀ r rest, rs = r :: rest →
          r.droppedBefore = s.table.droppedBefore ∧ ∀ r' ∈ rest, r'.droppedBefore = 0) ∧
        (∀ j ∈ t.list.jobs, isEntryFill j = false) ∧ t.table.entries = [] ∧
        t.table.nextSeq = s.table.nextSeq ∧
        t.ringUnit.opening = none ∧ t.acq = { s.acq with state := .disarmed, request := .none } ∧
        t.tracker.state = .idle ∧ t.ring.bindings = [] ∧ t.ring.slots = Lanes.every [] ∧
        t.attention = { s.attention with causes := s.attention.causes ||| 4096 } ∧ t.outlet = s.outlet ∧
        t.counters = s.counters)

/-! ### The mailbox (chapter 11) -/

/-- R141, R158: in FAULTED every command but STATUS and RESET is answered DEVICE_FAULT and changes no state; a code
outside the table is answered UNSUPPORTED in any condition and changes no state. -/
def Obligations.RefusedAndUnknownCommands : Prop :=
  (∀ (s : State) (c : TakenCommand) (i : Instr) (code : Byte),
      (i, code) ∈
        ([(.arm, 0x01), (.disarm, 0x02), (.abort, 0x03), (.hold, 0x04), (.resume, 0x05), (.loadMap, 0x10),
          (.ack, 0x21), (.setMask, 0x22), (.readProfile, 0x30), (.saveProfile, 0x31)] : List (Instr × Byte)) →
        s.profile.faulted = true → ListSettled s → Taken s c code →
        exec i s = .next (answered c .deviceFault [] s)) ∧
    ∀ (s : State) (c : TakenCommand), Awake s → s.mailbox.taken = some c → ListSettled s →
      c.code ∉ ([0x01, 0x02, 0x03, 0x04, 0x05, 0x10, 0x20, 0x21, 0x22, 0x30, 0x31, 0x3F] : List Byte) →
      exec .unsupportedCommand s = .next (answered c .unsupported [] s)

/-- R155, R156: at an expiry of the poll timer the next is one poll period later. A poll begins with a read of
the 4-byte command sequence when none is in progress and polling runs; else the expiry is passed over. The clock is
the model's (log entry 9). -/
def Obligations.PollTimerExpires : Prop :=
  ∀ (s : State), Awake s →
    ((∃ j ∈ s.list.jobs, isResponse j = true) ∨ s.mailbox.inProgress ≠ none ∨ s.mailbox.poll ≠ .none →
      exec .pollTimerExpiry s =
        .next
          { setClock (max s.clock s.mailbox.nextPoll) s with
            mailbox :=
              { s.mailbox with
                nextPoll := s.mailbox.nextPoll + s.profile.inForce.pollPeriod * 1000 } }) ∧
    ∀ tag, (∀ j ∈ s.list.jobs, isResponse j = false) → s.mailbox.inProgress = none →
      s.mailbox.poll = .none → s.mailbox.taken = none → NextTag s tag →
      exec .pollTimerExpiry s =
        .next
          (withRead .mailbox s.profile.inForce.controlBlock 4 tag
            { setClock (max s.clock s.mailbox.nextPoll) s with
              mailbox :=
                { s.mailbox with
                  poll := .sequence
                  nextPoll := s.mailbox.nextPoll + s.profile.inForce.pollPeriod * 1000 } })

/-- R9, R155, R157: what a completion does to a poll. A failed read raises and counts BUS_FAULT and ends it. The
first sequence read after a reset is adopted and READY queued; an unchanged sequence ends the poll; a changed
one leads to the read of the command area, and a command with a new sequence is taken from that read. That it then stands in
`taken` until its own row carries it out is the model's choice (log entry 3). -/
def Obligations.PollReadsComplete : Prop :=
  ∀ (s : State) (c : Completion) (xs ys : List BridgeRead) (r : BridgeRead), Awake s →
    s.reads = xs ++ r :: ys → r.unit = .mailbox → stageTag r.stage = some c.tag →
    (∀ x ∈ xs, stageTag x.stage ≠ some c.tag) → 240 ≤ c.tag.toNat →
    (s.mailbox.poll ≠ .none → (c.ok = false ∨ c.data.length ≠ r.len) →
      exec (.readCompletion c) s =
        .next
          { s with
            reads := xs ++ ys
            mailbox := { s.mailbox with poll := .none }
            attention := { s.attention with causes := s.attention.causes ||| 256 }
            counters := { s.counters with busFaults := satInc s.counters.busFaults } }) ∧
    (s.mailbox.poll = .sequence → c.ok = true → c.data.length = r.len → r.len = 4 →
      ∀ v, v = BitVec.ofNat 32 (leNat c.data) →
        (s.mailbox.lastSeen = none → ListSettled s →
          exec (.readCompletion c) s =
            .next
              { s with
                reads := xs ++ ys
                mailbox := { s.mailbox with lastSeen := some v, poll := .none }
                list :=
                  { s.list with
                    jobs :=
                      s.list.jobs ++
                        [.response
                          { seq := v
                            code := 0
                            result := .ready
                            data :=
                              [match s.mailbox.resetCause with
                                | .power => 0
                                | .resetLine => 1
                                | .jobLine => 2
                                | .command => 3,
                                match s.profile.loadStatus with
                                | .loaded => 0
                                | .erased => 1
                                | .corrupt => 2,
                                if s.profile.faulted then 1 else 0, 0] }] } }) ∧
        (s.mailbox.lastSeen = some v →
          exec (.readCompletion c) s =
            .next { s with reads := xs ++ ys, mailbox := { s.mailbox with poll := .none } }) ∧
        ∀ w tag, s.mailbox.lastSeen = some w → w ≠ v → NextTag { s with reads := xs ++ ys } tag →
          exec (.readCompletion c) s =
            .next
              (withRead .mailbox s.profile.inForce.controlBlock 64 tag
                { s with reads := xs ++ ys, mailbox := { s.mailbox with poll := .command } })) ∧
    (s.mailbox.poll = .command → c.ok = true → c.data.length = r.len → r.len = 64 →
      exec (.readCompletion c) s =
        .next
          { s with
            reads := xs ++ ys
            mailbox :=
              if s.mailbox.lastSeen = some (BitVec.ofNat 32 (leNat (c.data.take 4))) then
                { s.mailbox with poll := .none }
              else
                { s.mailbox with
                  poll := .none
                  lastSeen := some (BitVec.ofNat 32 (leNat (c.data.take 4)))
                  taken :=
                    some
                      { seq := BitVec.ofNat 32 (leNat (c.data.take 4))
                        code := c.data.getD 4 0
                        params := (c.data.drop 8).take 56 } } })

/-- R159, R166: STATUS answers the snapshot of the state as it stands, and with bit 0 of its parameter set the
eleven counters become 0 after it; READ_PROFILE answers the flash bytes, the load status and the lock in force. -/
def Obligations.ReportsAreAnswered : Prop :=
  ∀ (s : State) (c : TakenCommand), ListSettled s →
    (∀ b rest, Taken s c 0x20 → c.params = b :: rest →
      exec .status s =
        .next
          (answered c .ok (snapshot s)
            (if b.getLsbD 0 then { s with counters := ⟨0, 0, 0, 0, 0, 0, 0, 0, 0, 0, 0⟩ } else s))) ∧
    (Taken s c 0x30 → s.profile.faulted = false →
      exec .readProfile s =
        .next
          (answered c .ok
            (s.profile.flash ++
              ([match s.profile.loadStatus with
                | .loaded => 0
                | .erased => 1
                | .corrupt => 2,
                if s.profile.lockFixed then 1 else 0] : List Byte))
            s))

/-- R160, R161: ACK removes the causes its parameter names from the pending set and answers the set that is
left; SET_MASK makes its parameter the enable mask and answers the old mask; bits that name no cause are
disregarded. After either the attention line takes the level of R163 at the same event: it stands high exactly when it
is asserted, the two sets sharing a cause, under polarity ACTIVE_HIGH, or deasserted under ACTIVE_LOW. -/
def Obligations.AckAndSetMaskAreAnswered : Prop :=
  ∀ (s : State) (c : TakenCommand) (b0 b1 : Byte) (rest : List Byte), s.profile.faulted = false →
    ListSettled s → c.params = b0 :: b1 :: rest →
    (Taken s c 0x21 →
      ∃ t left, left = s.attention.causes &&& ~~~(BitVec.setWidth 13 (b1 ++ b0)) ∧
        exec .ack s = .next t ∧
        t =
          answered c .ok [BitVec.ofNat 8 left.toNat, BitVec.ofNat 8 (left.toNat / 256)]
            { s with attention := { s.attention with causes := left } } ∧
        (attentionLineHigh t = true ↔
          (left &&& s.attention.mask ≠ 0 ↔ s.profile.inForce.activeHigh = true))) ∧
    (Taken s c 0x22 →
      ∃ t, exec .setMask s = .next t ∧
        t =
          answered c .ok
            [BitVec.ofNat 8 s.attention.mask.toNat, BitVec.ofNat 8 (s.attention.mask.toNat / 256)]
            { s with attention := { s.attention with mask := BitVec.setWidth 13 (b1 ++ b0) } } ∧
        (attentionLineHigh t = true ↔
          (s.attention.causes &&& BitVec.setWidth 13 (b1 ++ b0) ≠ 0 ↔
            s.profile.inForce.activeHigh = true)))

/-- R164, R167: a save. Under a FIXED lock it is answered LOCKED, and with an address whose image would reach past 2^48
INVALID_PARAM; else a read of 64 bytes is requested. A failed read ends it with READ_FAULT and is counted, an image out
of range with INVALID_PARAM, and one in range begins to be programmed. At the end of programming flash holds the
image and its CRC, a saved lock of FIXED comes into force and the save is answered OK; nothing else in force
changes. -/
def Obligations.ProfileIsSaved : Prop :=
  (∀ (s : State) (c : TakenCommand) (a : Nat), s.profile.faulted = false → ListSettled s →
      a = leNat (c.params.take 8) → Taken s c 0x31 →
      (s.profile.lockFixed = true → exec .saveProfile s = .next (answered c .locked [] s)) ∧
      (s.profile.lockFixed = false → 2 ^ 48 < a + 64 →
        exec .saveProfile s = .next (answered c .invalidParam [] s)) ∧
      ∀ tag, s.profile.lockFixed = false → a + 64 ≤ 2 ^ 48 → NextTag s tag →
        exec .saveProfile s =
          .next
            (withRead .profile a 64 tag
              { s with mailbox :=
                  { s.mailbox with taken := none, inProgress := some (.saveReading c.seq a) } })) ∧
    (∀ (s : State) (c : Completion) (xs ys : List BridgeRead) (r : BridgeRead) (q : BitVec 32) (a : Nat), Awake s →
      s.reads = xs ++ r :: ys → r.unit = .profile → stageTag r.stage = some c.tag →
      (∀ x ∈ xs, stageTag x.stage ≠ some c.tag) → 240 ≤ c.tag.toNat → r.len = 64 → ListSettled s →
      s.mailbox.inProgress = some (.saveReading q a) →
      ∃ t, exec (.readCompletion c) s = .next t ∧
        (c.ok = false ∨ c.data.length ≠ 64 →
          t =
            { s with
              reads := xs ++ ys
              mailbox := { s.mailbox with inProgress := none }
              counters := { s.counters with busFaults := satInc s.counters.busFaults }
              list :=
                { s.list with jobs :=
                    s.list.jobs ++ [.response { seq := q, code := 0x31, result := .readFault, data := [] }] } }) ∧
        (c.ok = true → c.data.length = 64 → readProfileImage c.data = none →
          t =
            { s with
              reads := xs ++ ys
              mailbox := { s.mailbox with inProgress := none }
              list :=
                { s.list with jobs :=
                    s.list.jobs ++
                      [.response { seq := q, code := 0x31, result := .invalidParam, data := [] }] } }) ∧
        (c.ok = true → c.data.length = 64 → readProfileImage c.data ≠ none →
          t =
            { s with
              reads := xs ++ ys
              mailbox := { s.mailbox with inProgress := some (.saveProgramming q c.data) } })) ∧
    ∀ (s : State) (q : BitVec 32) (img : List Byte) (p : Profile), Awake s → ListSettled s →
      s.mailbox.inProgress = some (.saveProgramming q img) → readProfileImage img = some p →
        exec .profileProgrammingDone s =
          .next
            { s with
              profile :=
                { s.profile with
                  flash := img ++ leBytes 2 (crc16 img).toNat
                  lockFixed := s.profile.lockFixed || p.lockFixed }
              mailbox := { s.mailbox with inProgress := none }
              list :=
                { s.list with
                  jobs :=
                    s.list.jobs ++ [.response { seq := q, code := 0x31, result := .ok, data := [] }] } }

/-- R66, R75, R114, R129, R130, R131, R132, R133, R134, R135: a load of a map. LOAD_MAP with an address whose record
would reach past 2^48 is answered INVALID_PARAM; else a read of 512 bytes is requested and the command is in progress.
A failed read ends it with READ_FAULT, a record that fails a check with INVALID_MAP and the number of the first it
fails, each check as the manual numbers it. An accepted map becomes live in DISARMED; while armed it is staged when it
agrees with the live map in every frozen field, and else refused with the number of the first that differs, each field
as the manual numbers it. At a map that becomes live the Line Ring is cleared, an enabled lane that was OFF is IN_STEP, one
not enabled is OFF, and the ring counts become 0 when the descriptor ring is another; at no other outcome do these
change. -/
def Obligations.MapIsLoaded : Prop :=
  (∀ (s : State) (c : TakenCommand) (a : Nat), s.profile.faulted = false → ListSettled s →
      a = leNat (c.params.take 8) → Taken s c 0x10 →
      (2 ^ 48 < a + 512 → exec .loadMap s = .next (answered c .invalidParam [] s)) ∧
      ∀ tag, a + 512 ≤ 2 ^ 48 → NextTag s tag →
        exec .loadMap s =
          .next
            (withRead .maps a 512 tag
              { s with mailbox :=
                  { s.mailbox with taken := none, inProgress := some (.loadMap c.seq a) } })) ∧
    ∀ (s : State) (c : Completion) (xs ys : List BridgeRead) (r : BridgeRead) (q : BitVec 32) (a : Nat), Awake s →
      s.reads = xs ++ r :: ys → r.unit = .maps → stageTag r.stage = some c.tag →
      (∀ x ∈ xs, stageTag x.stage ≠ some c.tag) → 240 ≤ c.tag.toNat → r.len = 512 → ListSettled s →
      s.mailbox.inProgress = some (.loadMap q a) →
      ∃ t result data, exec (.readCompletion c) s = .next t ∧
        t.mailbox = { s.mailbox with inProgress := none } ∧ t.reads = xs ++ ys ∧
        t.list.jobs = s.list.jobs ++ [.response { seq := q, code := 0x10, result := result, data := data }] ∧
        t.attention = s.attention ∧ t.table = s.table ∧ t.tracker = s.tracker ∧ t.strobe = s.strobe ∧
        (result ≠ .live → t.ring = s.ring ∧ t.ringUnit = s.ringUnit) ∧
        (c.ok = false ∨ c.data.length ≠ 512 →
          result = .readFault ∧ data = [] ∧ t.maps = s.maps ∧
            t.counters = { s.counters with busFaults := satInc s.counters.busFaults }) ∧
        (c.ok = true → c.data.length = 512 → t.counters = s.counters ∧
          (∀ n, IsFirst (CheckFails c.data) n →
            result = .invalidMap ∧ data = [BitVec.ofNat 8 n] ∧ t.maps = s.maps) ∧
          ((∀ n, ¬CheckFails c.data n) →
            (s.acq.state = .disarmed →
              result = .live ∧ t.maps = { s.maps with live := some (readMap c.data) } ∧
                t.ring.bindings = [] ∧ t.ring.slots = Lanes.every [] ∧
                (∀ ln,
                  (t.ring.step.get ln, t.ring.mismatches.get ln) =
                    if ((readMap c.data).lanes.get ln).isNone then (.off, 0)
                    else if s.ring.step.get ln = .off then (.inStep, 0)
                    else (s.ring.step.get ln, s.ring.mismatches.get ln)) ∧
                ((∀ old, s.maps.live = some old →
                    old.ringBase ≠ (readMap c.data).ringBase ∨ old.B ≠ (readMap c.data).B) →
                  t.ringUnit = { s.ringUnit with taken := 0, returned := 0, index := 0 }) ∧
                ∀ old, s.maps.live = some old → old.ringBase = (readMap c.data).ringBase →
                  old.B = (readMap c.data).B → t.ringUnit = s.ringUnit) ∧
            (s.acq.state ≠ .disarmed → ∀ m, s.maps.live = some m →
              (∀ n, IsFirst (FrozenDiffers m (readMap c.data)) n →
                result = .refusedFrozen ∧ data = [BitVec.ofNat 8 n] ∧ t.maps = s.maps) ∧
              ((∀ n, ¬FrozenDiffers m (readMap c.data) n) →
                FrozenAgree m (readMap c.data) ∧ result = .staged ∧
                  t.maps = { live := some m, staged := some (readMap c.data) })) ∧
            (result = .live ∨ result = .staged → data = leBytes 4 (readMap c.data).generation.toNat)))

/-! ### The Ring Unit (chapters 6 and 8) -/

/-- R87, R106, R116: with no operation in progress and no read of the Ring Unit out, the opening operation of the
oldest entry in OPENING begins; its return-count read is requested when the record allowance is below 4, and
waits while it is 4. -/
def Obligations.OpeningOperationBegins : Prop :=
  ∀ (s : State) (es fs : List Entry) (e : Entry), Awake s → s.ringUnit.opening = none →
    (∀ r ∈ s.reads, r.unit ≠ .ring) → s.table.entries = es ++ e :: fs → e.state = .opening →
    (∀ x ∈ es, x.state ≠ .opening) →
    (4 ≤ recordAllowance s →
      exec .openingOperationBegin s =
        .next { s with ringUnit := { s.ringUnit with opening := some { key := e.key, phase := .allowance } } }) ∧
    ∀ tag, recordAllowance s < 4 → NextTag s tag →
      exec .openingOperationBegin s =
        .next
          (withRead .ring (s.profile.inForce.controlBlock + 0xF00) 4 tag
            { s with ringUnit :=
                { s.ringUnit with opening := some { key := e.key, phase := .returnCount } } })

/-- R115 to R118, R87, R88, R89, R93, R96, R101: the return count that was read is accepted when its advance is at most
the outstanding count, and else rejected with RING_FAULT; a failed read raises and counts BUS_FAULT. Then, with fewer than B
descriptors outstanding, the descriptor at the ring index is taken for the entry and its read requested; else
the entry becomes DROPPED and the drop is counted. An entry whose rows all retired while it was OPENING is freed at
that event, with its FILL jobs and without a record. Where that free ends a drain, a staged map becomes live, and what
is said of the ring counts takes one that agrees with the live map in every frozen field, as TravelStaysAccounted keeps
it. -/
def Obligations.ReturnCountIsJudged : Prop :=
  ∀ (s : State) (c : Completion) (xs ys : List BridgeRead) (r : BridgeRead) (k : Nat) (m : SteeringMap)
    (ret : BitVec 32) (causes : BitVec 13) (tag : Tag), Awake s →
    s.reads = xs ++ r :: ys → r.unit = .ring → stageTag r.stage = some c.tag →
    (∀ x ∈ xs, stageTag x.stage ≠ some c.tag) → 240 ≤ c.tag.toNat → r.len = 4 → s.maps.live = some m →
    s.ringUnit.opening = some { key := k, phase := .returnCount } →
    NextTag { s with reads := xs ++ ys } tag →
    (ret, causes) =
      (if c.ok = false ∨ c.data.length ≠ 4 then (s.ringUnit.returned, s.attention.causes ||| 256)
      else if BitVec.ofNat 32 (leNat c.data) - s.ringUnit.returned ≤ s.ringUnit.taken - s.ringUnit.returned then
        (BitVec.ofNat 32 (leNat c.data), s.attention.causes)
      else (s.ringUnit.returned, s.attention.causes ||| 128)) →
    ∃ t, exec (.readCompletion c) s = .next t ∧ (MapsAgree s → t.ringUnit.returned = ret) ∧
      t.counters.busFaults =
        (if c.ok = false ∨ c.data.length ≠ 4 then satInc s.counters.busFaults else s.counters.busFaults) ∧
      ((s.ringUnit.taken - ret).toNat < m.B →
        t.ringUnit =
            { taken := s.ringUnit.taken + 1
              returned := ret
              index := (s.ringUnit.index + 1) % m.B
              opening := some { key := k, phase := .descriptor } } ∧
          t.reads =
            xs ++ ys ++
              [{ unit := .ring, addr := m.ringBase + s.ringUnit.index * 512, len := 64, stage := .waiting tag }] ∧
          t.table.entries =
            (s.table.entries.map fun e =>
              if e.key = k then { e with descIndex := some s.ringUnit.index } else e) ∧
          t.attention.causes = causes ∧ t.counters.droppedRepeats = s.counters.droppedRepeats) ∧
      (m.B ≤ (s.ringUnit.taken - ret).toNat → NoneComplete m s →
        t.ringUnit = { s.ringUnit with returned := ret, opening := none } ∧ t.reads = xs ++ ys ∧
          t.table.entries =
            (s.table.entries.map fun e => if e.key = k then { e with state := .dropped } else e) ∧
          t.table.droppedBefore = satInc s.table.droppedBefore ∧ t.attention.causes = causes ||| 2 ∧
          t.counters.droppedRepeats = satInc s.counters.droppedRepeats) ∧
      (m.B ≤ (s.ringUnit.taken - ret).toNat → AloneComplete m k s → (findEntry s k).isSome →
        t.ringUnit.opening = none ∧ t.reads = xs ++ ys ∧
          (MapsAgree s → t.ringUnit = { s.ringUnit with returned := ret, opening := none }) ∧
          TableReported (otherEntries s k) (causes ||| 2) s t ∧
          t.table.droppedBefore = satInc s.table.droppedBefore ∧
          t.counters.droppedRepeats = satInc s.counters.droppedRepeats ∧ otherJobs t = otherJobs s ∧
          (∀ j ∈ t.list.jobs, isFillOf k j = false) ∧
          ∀ left, left = s.list.jobs.filter (fun j => !isFillOf k j) →
            ListSettled { s with list := { jobs := left, progress := 0 } } → t.list.jobs = left)

/-- R87, R88, R93 to R96, R100, R101, R119, R120: the descriptor's completion ends the opening operation. A valid
descriptor makes the entry OPEN with its buffer; a failed read or an invalid descriptor makes it DROPPED and queues its
DESCRIPTOR_FAULT record, which takes the dropped-before count before the drop is counted. A failed read raises and
counts BUS_FAULT besides. An entry whose rows all retired while it was OPENING leaves the table at that event: it closes
with its FILL jobs bound and its clean record behind them, or is freed with its FILL jobs after its DESCRIPTOR_FAULT
record. A completion of the Ring Unit that arrives after ABORT ended its operation is discarded and ends its read. -/
def Obligations.DescriptorEndsTheOpening : Prop :=
  (∀ (s : State) (c : Completion) (xs ys : List BridgeRead) (r : BridgeRead) (k : Nat) (m : SteeringMap)
    (e : Entry) (b : Buffer) (failed : Bool) (causes : BitVec 13) (counters : Counters), Awake s →
    s.reads = xs ++ r :: ys → r.unit = .ring → stageTag r.stage = some c.tag →
    (∀ x ∈ xs, stageTag x.stage ≠ some c.tag) → 240 ≤ c.tag.toNat → r.len = 64 → s.maps.live = some m →
    s.ringUnit.opening = some { key := k, phase := .descriptor } → findEntry s k = some e →
    e.buffer = none →
    b = { base := leNat (c.data.take 8)
          stride := leNat ((c.data.drop 8).take 4)
          capacity := leNat ((c.data.drop 12).take 4) } →
    failed = (!c.ok || decide (c.data.length ≠ 64)) →
    causes = (if failed then s.attention.causes ||| 256 else s.attention.causes) ||| 2 →
    counters =
      { s.counters with
        droppedRepeats := satInc s.counters.droppedRepeats
        busFaults := if failed then satInc s.counters.busFaults else s.counters.busFaults } →
    ∃ t, exec (.readCompletion c) s = .next t ∧ t.ringUnit.opening = none ∧ t.reads = xs ++ ys ∧
      (NoneComplete m s →
        t.ringUnit = { s.ringUnit with opening := none } ∧
        (failed = false → descriptorValid b (imageWidth m.Lp e.placement * m.P) = true →
          t.table =
              { s.table with entries :=
                  s.table.entries.map fun x =>
                    if x.key = k then { x with state := .opened, buffer := some b } else x } ∧
            otherJobs t = otherJobs s ∧ t.attention = s.attention ∧ t.counters = s.counters) ∧
        (failed = true ∨ descriptorValid b (imageWidth m.Lp e.placement * m.P) = false →
          t.table =
              { s.table with
                entries := s.table.entries.map fun x => if x.key = k then { x with state := .dropped } else x
                droppedBefore := 1 } ∧
            otherJobs t =
              otherJobs s ++ [.record (recordFor m e .descriptorFault s.table.droppedBefore)] ∧
            t.attention = { s.attention with causes := causes } ∧ t.counters = counters)) ∧
      (AloneComplete m k s →
        (failed = false → descriptorValid b (imageWidth m.Lp e.placement * m.P) = true →
          ∀ rec, rec = recordFor m { e with buffer := some b } .clean s.table.droppedBefore →
            TableReported (otherEntries s k) s.attention.causes s t ∧ t.table.droppedBefore = 0 ∧
              t.counters = s.counters ∧ otherJobs t = otherJobs s ++ [.record rec] ∧
              (ListSettled s →
                (∀ f js, s.list.jobs = .fill f :: js → f.target = .entry k → f.row < b.capacity) →
                t.list = { s.list with jobs := s.list.jobs.map (boundTo k b) ++ [.record rec] })) ∧
        (failed = true ∨ descriptorValid b (imageWidth m.Lp e.placement * m.P) = false →
          ∀ rec, rec = recordFor m e .descriptorFault s.table.droppedBefore →
            TableReported (otherEntries s k) causes s t ∧ t.table.droppedBefore = 1 ∧
              t.counters = counters ∧ otherJobs t = otherJobs s ++ [.record rec] ∧
              (∀ j ∈ t.list.jobs, isFillOf k j = false) ∧
              ∀ left, left = s.list.jobs.filter (fun j => !isFillOf k j) →
                ListSettled { s with list := { jobs := left, progress := 0 } } →
                t.list.jobs = left ++ [.record rec]))) ∧
    ∀ (s : State) (c : Completion) (xs ys : List BridgeRead) (r : BridgeRead),
      s.reads = xs ++ r :: ys → r.unit = .ring → stageTag r.stage = some c.tag →
      (∀ x ∈ xs, stageTag x.stage ≠ some c.tag) → 240 ≤ c.tag.toNat → s.ringUnit.opening = none →
      exec (.readCompletion c) s = .next { s with reads := xs ++ ys }

/-- R119: the five checks of a descriptor. The fifth is about every row of the buffer: no row's image bytes
straddle a multiple of 2^48. -/
def Obligations.DescriptorChecksAreThoseOfTheManual : Prop :=
  ∀ (b : Buffer) (width : Nat), 1 ≤ width →
    (descriptorValid b width = true ↔
      (b.base < 2 ^ 48 ∧ 64 ∣ b.base) ∧ (1 ≤ b.capacity ∧ b.capacity ≤ 16777215) ∧ 64 ∣ b.stride ∧
        width ≤ b.stride ∧ ∀ q < b.capacity, (b.base + q * b.stride) % 2 ^ 48 + width ≤ 2 ^ 48)

/-! ### Resets, the job line and the profile (chapters 10 and 11) -/

/-- R16, R17, R32, R51, R66, R67, R102, R111, R114, R127, R140, R153, R154, R156, R162, R164, R167: the four resets, and
the values each leaves. The tags of reads that had left stay held back beside those held back before, and what an
interrupted programming left is erased or CORRUPT. The reset line and the RESET command's drain come first in their
cases, and a RESET command is taken with no other command in progress. That a POWER_UP leaves the level of the reset
line as it is (log entry 14) and that the clock stands over a reset (log entry 9) are the model's choices. -/
def Obligations.ResetsLeaveTheirValues : Prop :=
  ∀ s : State,
    (∃ t, exec .powerUp s = .next t ∧ AfterReset .power s t ∧ t.resetLine = s.resetLine) ∧
    (s.resetLine = true →
      ∃ t, exec .resetLineRelease s = .next t ∧ AfterReset .resetLine s t ∧ t.resetLine = false) ∧
    (Awake s → s.mailbox.inProgress = some .reset → s.outlet = [] →
      ∃ t, exec .resetDrainEnd s = .next t ∧ AfterReset .command s t ∧ t.resetLine = false) ∧
    (∀ c, OneAtATime s → Taken s c 0x3F → s.outlet = [] →
      ∃ t, exec .reset s = .next t ∧ AfterReset .command s t ∧ t.resetLine = false) ∧
    (Awake s → s.profile.inForce.jobFunction = .reset → s.acq.jobLevel = some false →
      s.acq.fallingSeen = true →
      ∃ t, exec (.jobLineEdge true) s = .next t ∧ AfterReset .jobLine s t ∧ t.resetLine = false)

/-- R17, R153, R154, R168: RESET taken with transactions in the Outlet Queue starts the drain, and queues no
response; the assertion of the reset line holds the bridge with its strobe line inactive and its attention line
high; and while it is asserted no step but a reset at its release, a power-up, the arrival of inlet traffic
and that of completions changes anything. A completion on a reserved tag that then ends the read outstanding on its tag
is discarded. -/
def Obligations.DrainAndResetLineHold : Prop :=
  (∀ (s : State) (c : TakenCommand), Taken s c 0x3F → s.outlet ≠ [] →
      exec .reset s =
        .next { s with mailbox := { s.mailbox with taken := none, inProgress := some .reset } }) ∧
    (∀ s : State, Awake s →
      ∃ t, exec .resetLineAssert s = .next t ∧
        t = { s with resetLine := true, strobe := { s.strobe with lineUntil := none } } ∧
        strobeLineActive t = false ∧ attentionLineHigh t = true) ∧
    (∀ (s : State) (i : Instr), s.resetLine = true → i ≠ .powerUp → i ≠ .resetLineRelease →
      (∀ x, i ≠ .inletTransactionTaken x) → (∀ c, i ≠ .readCompletion c) → exec i s = .next s) ∧
    ∀ (s : State) (c : Completion) (xs ys : List BridgeRead) (r : BridgeRead), s.resetLine = true →
      s.reads = xs ++ r :: ys → stageTag r.stage = some c.tag →
      (∀ x ∈ xs, stageTag x.stage ≠ some c.tag) → 240 ≤ c.tag.toNat →
      exec (.readCompletion c) s = .next { s with reads := xs ++ ys }

/-- R141, R151, R152, R153: an edge of the job line is given the action of the profile's function. A request is carried
out as the mailbox's command of the same request would be, but for the response: the statement sets the two side by
side, in any acquisition state and in FAULTED. A refused request changes nothing but the refused line actions counter,
and the first observation, an unchanged level and an edge with no action change nothing but the level. -/
def Obligations.JobLineRequests : Prop :=
  ∀ (s : State) (level : Bool), Awake s →
    (s.acq.jobLevel = none ∨ s.acq.jobLevel = some level ∨ s.profile.inForce.jobFunction = .none ∨
        (s.profile.inForce.jobFunction = .stop ∧ level = true) ∨
        (s.profile.inForce.jobFunction = .reset ∧ level = true ∧ s.acq.fallingSeen = false) →
      exec (.jobLineEdge level) s = .next { s with acq := { s.acq with jobLevel := some level } }) ∧
    (s.acq.jobLevel = some (!level) →
      (s.profile.inForce.jobFunction = .reset → level = false →
        exec (.jobLineEdge level) s =
          .next { s with acq := { s.acq with jobLevel := some level, fallingSeen := true } }) ∧
      (s.profile.inForce.jobFunction = .hold → level = false → s.profile.faulted = false →
        s.acq.state = .running → s.acq.request = .none →
        exec (.jobLineEdge level) s =
          .next { s with acq := { s.acq with jobLevel := some level, request := .hold } }) ∧
      (s.profile.inForce.jobFunction = .hold → level = true → s.profile.faulted = false →
        s.acq.state = .held → s.acq.request = .none →
        exec (.jobLineEdge level) s =
          .next { s with acq := { s.acq with jobLevel := some level, request := .resume } }) ∧
      (s.profile.inForce.jobFunction = .hold → s.profile.faulted = false →
        (level = false ∧ s.acq.state = .held ∧ s.acq.request = .resume ∨
          level = true ∧ s.acq.state = .running ∧ s.acq.request = .hold) →
        exec (.jobLineEdge level) s =
          .next { s with acq := { s.acq with jobLevel := some level, request := .none } }) ∧
      (∀ (i : Instr) (c : TakenCommand) (s0 : State), ListSettled s → s.mailbox.taken = none →
        (s.acq.state = .disarmed → s.table.entries = []) →
        (s.profile.inForce.jobFunction, level, i, c.code) ∈ lineRequests →
        s0 = { s with acq := { s.acq with jobLevel := some level } } →
        ∃ t result data,
          exec i { s0 with mailbox := { s0.mailbox with taken := some c } } =
              .next (answered c result data t) ∧
            exec (.jobLineEdge level) s =
              .next
                (if result ∈ refusals then
                  { t with counters := { t.counters with refusedLine := satInc t.counters.refusedLine } }
                else t) ∧
            t.mailbox = s.mailbox) ∧
      ((s.profile.faulted = true ∧ s.profile.inForce.jobFunction ∈ [JobFunction.hold, .run] ∨
          s.profile.faulted = true ∧ s.profile.inForce.jobFunction = .stop ∧ level = false ∨
          s.acq.state = .disarmed ∧ s.profile.inForce.jobFunction = .hold ∨
          s.acq.state = .disarmed ∧ s.profile.inForce.jobFunction ∈ [JobFunction.run, .stop] ∧ level = false ∨
          s.acq.state = .disarmed ∧ s.maps.live = none ∧ s.profile.inForce.jobFunction = .run ∨
          s.acq.state ≠ .disarmed ∧ s.profile.inForce.jobFunction = .run ∧ level = true ∨
          s.acq.state = .draining ∧ s.profile.inForce.jobFunction = .hold ∨
          s.acq.state = .draining ∧ s.profile.inForce.jobFunction = .run ∧ level = false ∨
          s.profile.inForce.jobFunction = .hold ∧ level = false ∧
            ¬(s.acq.state = .running ∧ s.acq.request = .none) ∧
            ¬(s.acq.state = .held ∧ s.acq.request = .resume) ∨
          s.profile.inForce.jobFunction = .hold ∧ level = true ∧
            ¬(s.acq.state = .held ∧ s.acq.request = .none) ∧
            ¬(s.acq.state = .running ∧ s.acq.request = .hold)) →
        exec (.jobLineEdge level) s =
          .next
            { s with
              acq := { s.acq with jobLevel := some level }
              counters := { s.counters with refusedLine := satInc s.counters.refusedLine } }))

/-- R164 and section 12.4: what a load of the profile area finds: erased flash gives the factory profile; an image whose
CRC is the one stored after it and whose fields are all in range gives itself; anything else is CORRUPT and gives the
factory profile. The fields stand at the manual's offsets, with its ranges and its byte for each name. -/
def Obligations.ProfileLoadIsDecided : Prop :=
  (loadProfile (List.replicate 66 0xFF) = (.erased, factoryProfile)) ∧
    ∀ img : List Byte, img.length = 64 →
      (∀ p, readProfileImage img = some p → loadProfile (img ++ leBytes 2 (crc16 img).toNat) = (.loaded, p)) ∧
      (readProfileImage img = none →
        img ++ leBytes 2 (crc16 img).toNat ≠ List.replicate 66 0xFF →
        loadProfile (img ++ leBytes 2 (crc16 img).toNat) = (.corrupt, factoryProfile)) ∧
      (∀ x y : Byte, [x, y] ≠ leBytes 2 (crc16 img).toNat → img ++ [x, y] ≠ List.replicate 66 0xFF →
        loadProfile (img ++ [x, y]) = (.corrupt, factoryProfile)) ∧
      ∀ p,
        readProfileImage img = some p ↔
          field img 0x00 8 = p.controlBlock ∧ 4096 ∣ p.controlBlock ∧ p.controlBlock + 4096 ≤ 2 ^ 48 ∧
            field img 0x08 2 = p.pollPeriod ∧ 1 ≤ p.pollPeriod ∧ p.pollPeriod ≤ 10000 ∧
            field img 0x0A 1 =
              (match p.jobFunction with | .none => 0 | .hold => 1 | .run => 2 | .stop => 3 | .reset => 4) ∧
            field img 0x0B 1 = (if p.activeHigh then 1 else 0) ∧ field img 0x0C 2 = p.defaultMask.toNat ∧
            field img 0x0E 1 = (if p.lockFixed then 1 else 0)

/-! ### The formats (chapters 9 and 12) -/

/-- R75, R76, R128, R132, R170: a map record passes every check exactly when its format code is 1, its fields are within
the ranges of the map table, and the bands of its enabled lanes partition the bytes of an image row. The fields stand
at the manual's offsets, a two-valued field in bit 0 of its byte, and the image width is the sum of the kept widths. -/
def Obligations.AcceptedMapsPartitionTheRow : Prop :=
  ∀ bs : List Byte,
    (failingCheck bs = none ↔
      leNat (bs.take 4) = 1 ∧ MapInRange (readMap bs) ∧ BandsPartition (readMap bs)) ∧
    ∀ m, m = readMap bs →
      (m.generation.toNat = field bs 0x004 4 ∧ m.base = field bs 0x008 8 ∧ m.P = field bs 0x010 1 ∧
        m.S = field bs 0x012 2 ∧ m.Lp = field bs 0x014 2 ∧ m.minSpacing = field bs 0x016 2 ∧
        m.Q = field bs 0x018 4 ∧ m.reverseLimit = field bs 0x01C 2 ∧
        m.invert = (field bs 0x01E 1).testBit 0 ∧ m.activeLow = (field bs 0x01F 1).testBit 0 ∧
        m.mode = (if (field bs 0x020 1).testBit 0 then .fixed else .track) ∧ m.h = field bs 0x021 1 ∧
        m.M = field bs 0x022 2 ∧ m.N = field bs 0x024 4 ∧ m.W = field bs 0x028 4 ∧
        m.ringBase = field bs 0x030 8 ∧ m.B = field bs 0x038 1) ∧
      (∀ l : Lane,
        ((m.lanes.get l).isSome ↔ (field bs 0x011 1).testBit l.val = true) ∧
          ∀ lm, m.lanes.get l = some lm →
            lm.place.colStart = field bs (0x080 + 16 * l.val) 4 ∧
              lm.place.trimL = field bs (0x084 + 16 * l.val) 2 ∧
              lm.place.trimR = field bs (0x086 + 16 * l.val) 2 ∧ lm.lag = field bs (0x088 + 16 * l.val) 2 ∧
              lm.place.stampCheck = (field bs (0x08A + 16 * l.val) 1).testBit 0 ∧
              ∀ i, lm.place.fill[i]? = if i < min 4 m.P then bs[0x08C + 16 * l.val + i]? else none) ∧
      m.Iw =
        (allLanes.map fun l =>
          ((lanePlacement m l).map fun p => m.Lp - p.trimL - p.trimR).getD 0).sum

/-- R121, R122, R123, R171: a completion record is 256 bytes that hold its fields at the manual's offsets, with the
bytes the table does not assign 0, and its five status flags say what the record's content says. -/
def Obligations.RecordHoldsItsFields : Prop :=
  ∀ r : RecordJob, r.firstRow < 2 ^ 48 → r.rowCount < 2 ^ 32 → r.capacity < 2 ^ 32 →
    (recordBytes r).length = 256 ∧
      (field (recordBytes r) 0x00 4 = r.seq.toNat ∧ field (recordBytes r) 0x04 4 = r.generation.toNat ∧
        field (recordBytes r) 0x08 8 = r.firstRow ∧ field (recordBytes r) 0x10 4 = r.rowCount ∧
        field (recordBytes r) 0x14 4 = min r.rowCount r.capacity ∧
        field (recordBytes r) 0x18 4 = r.capacity ∧
        field (recordBytes r) 0x1C 4 = r.overspeed.toNat ∧
        field (recordBytes r) 0x20 2 = r.droppedBefore.toNat ∧
        field (recordBytes r) 0x23 1 = (match r.startKind with | .mark => 1 | .flywheel => 2 | .fixed => 3) ∧
        field (recordBytes r) 0x24 1 =
          (match r.endKind with
          | none => 0
          | some (.decided .mark) => 1
          | some (.decided .flywheel) => 2
          | some (.decided .fixed) => 3
          | some .cancelled => 4) ∧
        field (recordBytes r) 0x25 59 = 0) ∧
      (field (recordBytes r) 0x22 1 < 32 ∧
        ((field (recordBytes r) 0x22 1).testBit 0 = true ↔
          r.overspeed ≠ 0 ∨
            ∃ l, (r.counts.get l).filled ≠ 0 ∨ (r.counts.get l).gap ≠ 0 ∨ (r.counts.get l).discarded ≠ 0 ∨
              (r.counts.get l).shortLines ≠ 0 ∨ (r.counts.get l).mismatches ≠ 0) ∧
        ((field (recordBytes r) 0x22 1).testBit 1 = true ↔ 1 ≤ r.capacity ∧ r.capacity < r.rowCount) ∧
        ((field (recordBytes r) 0x22 1).testBit 2 = true ↔ r.fillLost = true) ∧
        ((field (recordBytes r) 0x22 1).testBit 3 = true ↔ r.status = .cancelled) ∧
        ((field (recordBytes r) 0x22 1).testBit 4 = true ↔ r.status = .descriptorFault)) ∧
      ∀ l : Lane,
        field (recordBytes r) (0x60 + 20 * l.val) 4 = (r.counts.get l).retired.toNat ∧
          field (recordBytes r) (0x64 + 20 * l.val) 4 = (r.counts.get l).filled.toNat ∧
          field (recordBytes r) (0x68 + 20 * l.val) 4 = (r.counts.get l).gap.toNat ∧
          field (recordBytes r) (0x6C + 20 * l.val) 4 = (r.counts.get l).discarded.toNat ∧
          field (recordBytes r) (0x70 + 20 * l.val) 2 = (r.counts.get l).shortLines.toNat ∧
          field (recordBytes r) (0x72 + 20 * l.val) 2 = (r.counts.get l).mismatches.toNat

/-- R159 and section 12.4: the STATUS snapshot is 384 bytes that hold the state's fields at the manual's offsets, and
an entry of the table beyond the count is written 0. -/
def Obligations.SnapshotHoldsItsFields : Prop :=
  ∀ s : State, s.table.entries.length ≤ 4 → s.tracker.coast ≤ 8 →
    (snapshot s).length = 384 ∧
      (field (snapshot s) 0x000 1 =
          (match s.acq.state with | .disarmed => 0 | .running => 1 | .held => 2 | .draining => 3) ∧
        field (snapshot s) 0x001 1 =
          (match s.tracker.state with | .idle => 0 | .search => 1 | .locked => 2 | .coasting => 3) ∧
        field (snapshot s) 0x002 1 = s.tracker.coast ∧
        field (snapshot s) 0x003 1 =
          (match s.mailbox.resetCause with | .power => 0 | .resetLine => 1 | .jobLine => 2 | .command => 3) ∧
        field (snapshot s) 0x004 1 = s.table.entries.length ∧
        field (snapshot s) 0x005 1 =
          (if s.maps.live = none then 0 else 1) + (if s.maps.staged = none then 0 else 2) ∧
        field (snapshot s) 0x006 2 = s.attention.causes.toNat ∧
        field (snapshot s) 0x008 2 = s.attention.mask.toNat ∧
        ∀ l : Lane,
          field (snapshot s) (0x00A + l.val) 1 =
            (match s.ring.step.get l with | .off => 0 | .inStep => 1 | .outOfStep => 2)) ∧
      (field (snapshot s) 0x018 8 = s.strobe.nextStrobe.toNat ∧
        field (snapshot s) 0x020 8 = s.strobe.issueIndex.toNat ∧
        field (snapshot s) 0x028 8 = s.encoder.position.toNat ∧
        field (snapshot s) 0x030 8 = s.encoder.highWater.toNat ∧
        (∀ m, s.maps.live = some m → field (snapshot s) 0x038 4 = m.generation.toNat) ∧
        (∀ m, s.maps.staged = some m → field (snapshot s) 0x03C 4 = m.generation.toNat) ∧
        (s.maps.live = none → field (snapshot s) 0x038 4 = 0) ∧
        (s.maps.staged = none → field (snapshot s) 0x03C 4 = 0) ∧
        field (snapshot s) 0x040 4 = s.ringUnit.taken.toNat ∧
        field (snapshot s) 0x044 4 = s.ringUnit.returned.toNat ∧
        field (snapshot s) 0x048 4 = s.counters.strayWrites.toNat ∧
        field (snapshot s) 0x04C 4 = s.counters.strayReads.toNat ∧
        field (snapshot s) 0x050 4 = s.counters.absorbedWrites.toNat ∧
        field (snapshot s) 0x054 4 = s.counters.skippedStrobes.toNat ∧
        field (snapshot s) 0x058 4 = s.counters.rejectedMarks.toNat ∧
        field (snapshot s) 0x05C 4 = s.counters.strayMarks.toNat ∧
        field (snapshot s) 0x060 4 = s.counters.encoderFaults.toNat ∧
        field (snapshot s) 0x064 4 = s.counters.droppedRepeats.toNat ∧
        field (snapshot s) 0x068 4 = s.counters.fillsLost.toNat ∧
        field (snapshot s) 0x06C 4 = s.counters.busFaults.toNat ∧
        field (snapshot s) 0x070 4 = s.counters.refusedLine.toNat) ∧
      (∀ n e, s.table.entries[n]? = some e → e.firstRow < 2 ^ 48 → (∀ x, e.endRow = some x → x < 2 ^ 48) →
        field (snapshot s) (0x080 + 64 * n) 1 =
            (match e.state with | .opening => 1 | .opened => 2 | .dropped => 3) ∧
          field (snapshot s) (0x081 + 64 * n) 1 = (if e.endRow = none then 0 else 1) ∧
          field (snapshot s) (0x084 + 64 * n) 4 = e.seq.toNat ∧
          field (snapshot s) (0x088 + 64 * n) 8 = e.firstRow ∧
          field (snapshot s) (0x090 + 64 * n) 8 = e.endRow.getD 0 ∧
          ∀ l : Lane, field (snapshot s) (0x098 + 64 * n + 4 * l.val) 4 = (e.counts.get l).retired.toNat) ∧
      ∀ n < 4, s.table.entries.length ≤ n → field (snapshot s) (0x080 + 64 * n) 64 = 0

/-! ### What every command leaves alone -/

/-- R11: transactions leave the outlet in the order in which they entered the queue. Whatever command is carried
out, what has left followed by what stands in the queue only grows at its end; a reset alone empties the queue,
and loses no transaction that has left. -/
def Obligations.OutletKeepsItsOrder : Prop :=
  ∀ (c : Instr) (s t : State), exec c s = .next t →
    (∃ xs, t.sent ++ t.outlet = s.sent ++ s.outlet ++ xs) ∨ (MayReset c ∧ t.outlet = [] ∧ t.sent = s.sent)

/-- The frames of the commands that cannot reset the bridge (R19, R23, R31, R118, R155, R160 to R162, R164, R167):
the encoder and the strobe numbers move with the web and at ARM only, the phase pair with the encoder only; the
mark level with MARK_EDGE and the job line's with JOB_LINE_EDGE; a cause leaves the pending set by ACK only, and
the mask changes by SET_MASK only; the stored profile changes at PROFILE_PROGRAMMING_DONE and the profile in force
not at all; a counter falls at STATUS only; the last sequence seen and the tags held back change at completions, and
the ring counts at these and at what can enter DISARMED; the transaction in decode changes when one is taken or
handed on. And whatever is carried out, a reset too, what has been returned to the grabber stays returned. -/
def Obligations.CommandsKeepTheirFrames : Prop :=
  ∀ (c : Instr) (s t : State), exec c s = .next t →
    s.returned <+: t.returned ∧
      (¬MayReset c →
        (t.profile.inForce = s.profile.inForce ∧ t.profile.faulted = s.profile.faulted ∧
          t.profile.loadStatus = s.profile.loadStatus ∧ t.profile.revision = s.profile.revision ∧
          t.mailbox.resetCause = s.mailbox.resetCause) ∧
        (c ≠ .profileProgrammingDone → t.profile = s.profile) ∧
        (c ≠ .ack → s.attention.causes &&& t.attention.causes = s.attention.causes) ∧
        (c ≠ .setMask → t.attention.mask = s.attention.mask) ∧
        (c ≠ .status → CountersNotBelow s.counters t.counters) ∧
        ((∀ p n, c ≠ .encoderTransition p n) →
          t.encoder.lastPair = s.encoder.lastPair ∧
            (c ≠ .arm →
              t.encoder = s.encoder ∧
                { t.strobe with lineUntil := none } = { s.strobe with lineUntil := none })) ∧
        ((∀ l, c ≠ .markEdge l) → t.tracker.markLevel = s.tracker.markLevel) ∧
        (t.acq.jobLevel = s.acq.jobLevel ∧ t.acq.fallingSeen = s.acq.fallingSeen) ∧
        ((∀ x, c ≠ .readCompletion x) →
          t.mailbox.lastSeen = s.mailbox.lastSeen ∧ t.heldTags = s.heldTags) ∧
        ((∀ x, c ≠ .readCompletion x) → c ≠ .outletPlaceGrant →
          (∀ p n, c ≠ .encoderTransition p n) → (∀ l, c ≠ .markEdge l) → c ≠ .disarm → c ≠ .abort →
            (t.ringUnit.taken = s.ringUnit.taken ∧ t.ringUnit.returned = s.ringUnit.returned ∧
              t.ringUnit.index = s.ringUnit.index)) ∧
        ((∀ x, c ≠ .inletTransactionTaken x) → c ≠ .outletPlaceGrant →
          t.decode = s.decode ∧ t.inletHeld = s.inletHeld) ∧
        (c ≠ .resetLineAssert → t.resetLine = s.resetLine))

/-! ### What every step keeps -/

/-- R11, R43, R65, R82, R105: the queue holds at most 64 transactions, the list at most 240 FILL jobs, the table at
most four entries and the coast count is at most 8; a lane's consecutive mismatches are 0 to 3, and below 3 while
it is IN_STEP; and the Line Ring's lists keep their one canonical form. -/
def Obligations.SizesAreKept : Prop :=
  ∀ s t : State, step s = .next t →
    (Sized s → Sized t) ∧ (MismatchesInRange s → MismatchesInRange t) ∧ (RingOrdered s → RingOrdered t)

/-- R38, R67, R127, R140, R148, R165: in DISARMED nothing of a run is in flight; and in FAULTED the bridge is DISARMED
with no map and with nothing but responses to write. -/
def Obligations.DisarmedAndFaultedStayQuiet : Prop :=
  ∀ s t : State, step s = .next t → (DisarmedQuiet s → DisarmedQuiet t) ∧ (FaultedInert s → FaultedInert t)

/-- R106, R155, R156: at most one of a poll, a command taken, a command in progress and a RESPONSE job exists. -/
def Obligations.OneMailboxActivityAtATime : Prop :=
  ∀ s t : State, OneAtATime s → step s = .next t → OneAtATime t

/-- R24, R25, R127, R129: while armed a map is live, a staged map agrees with it in every frozen field, and 65,536 ×
the high-water mark is Q × the next-strobe number + φ with φ below Q: no strobe is lost or made twice. -/
def Obligations.TravelStaysAccounted : Prop :=
  ∀ s t : State, TravelAccounted s → step s = .next t → TravelAccounted t

/-- R106: the record allowance never exceeds 4. -/
def Obligations.RecordAllowanceStaysBounded : Prop :=
  ∀ s t : State, AllowanceKept s → step s = .next t → AllowanceKept t

/-- R10, R16: no tag is ever given to two reads, nor to one while a reset still holds it back. -/
def Obligations.TagsStayApart : Prop :=
  ∀ s t : State, TagsApart s → step s = .next t → TagsApart t

/-- R107: a FILL job that is to be discarded never stands at the head of the list after an event. -/
def Obligations.ListHeadStaysSettled : Prop :=
  ∀ s t : State, HeadSettled s → step s = .next t → HeadSettled t

/-- The state right after reset has every invariant of this file. -/
def Obligations.ResetHasTheInvariants : Prop :=
  Sized State.reset ∧ MismatchesInRange State.reset ∧ RingOrdered State.reset ∧ DisarmedQuiet State.reset ∧
    FaultedInert State.reset ∧ OneAtATime State.reset ∧ TravelAccounted State.reset ∧
    AllowanceKept State.reset ∧ TagsApart State.reset ∧ HeadSettled State.reset
end

