-- ==== Sys2Proof/Laws/State.lean ====
section
/-! SUPPORT. What each named update of the state leaves as it was: one lemma for each update and each field it
does not write, for simp. -/

namespace Sys2Proof.Machine

variable (s : State)

/-! ### raise -/

@[simp] theorem raise_clock (c : Cause) : (raise c s).clock = s.clock := rfl
@[simp] theorem raise_inletHeld (c : Cause) : (raise c s).inletHeld = s.inletHeld := rfl
@[simp] theorem raise_decode (c : Cause) : (raise c s).decode = s.decode := rfl
@[simp] theorem raise_outlet (c : Cause) : (raise c s).outlet = s.outlet := rfl
@[simp] theorem raise_reads (c : Cause) : (raise c s).reads = s.reads := rfl
@[simp] theorem raise_heldTags (c : Cause) : (raise c s).heldTags = s.heldTags := rfl
@[simp] theorem raise_returned (c : Cause) : (raise c s).returned = s.returned := rfl
@[simp] theorem raise_sent (c : Cause) : (raise c s).sent = s.sent := rfl
@[simp] theorem raise_encoder (c : Cause) : (raise c s).encoder = s.encoder := rfl
@[simp] theorem raise_strobe (c : Cause) : (raise c s).strobe = s.strobe := rfl
@[simp] theorem raise_tracker (c : Cause) : (raise c s).tracker = s.tracker := rfl
@[simp] theorem raise_ring (c : Cause) : (raise c s).ring = s.ring := rfl
@[simp] theorem raise_maps (c : Cause) : (raise c s).maps = s.maps := rfl
@[simp] theorem raise_table (c : Cause) : (raise c s).table = s.table := rfl
@[simp] theorem raise_list (c : Cause) : (raise c s).list = s.list := rfl
@[simp] theorem raise_ringUnit (c : Cause) : (raise c s).ringUnit = s.ringUnit := rfl
@[simp] theorem raise_acq (c : Cause) : (raise c s).acq = s.acq := rfl
@[simp] theorem raise_mailbox (c : Cause) : (raise c s).mailbox = s.mailbox := rfl
@[simp] theorem raise_profile (c : Cause) : (raise c s).profile = s.profile := rfl
@[simp] theorem raise_counters (c : Cause) : (raise c s).counters = s.counters := rfl
@[simp] theorem raise_resetLine (c : Cause) : (raise c s).resetLine = s.resetLine := rfl
@[simp] theorem raise_choices (c : Cause) : (raise c s).choices = s.choices := rfl
@[simp] theorem raise_choiceCount (c : Cause) : (raise c s).choiceCount = s.choiceCount := rfl
@[simp] theorem raise_pending (c : Cause) : (raise c s).pending = s.pending := rfl

/-! ### bump -/

@[simp] theorem bump_clock (k : Counter) : (bump k s).clock = s.clock := rfl
@[simp] theorem bump_inletHeld (k : Counter) : (bump k s).inletHeld = s.inletHeld := rfl
@[simp] theorem bump_decode (k : Counter) : (bump k s).decode = s.decode := rfl
@[simp] theorem bump_outlet (k : Counter) : (bump k s).outlet = s.outlet := rfl
@[simp] theorem bump_reads (k : Counter) : (bump k s).reads = s.reads := rfl
@[simp] theorem bump_heldTags (k : Counter) : (bump k s).heldTags = s.heldTags := rfl
@[simp] theorem bump_returned (k : Counter) : (bump k s).returned = s.returned := rfl
@[simp] theorem bump_sent (k : Counter) : (bump k s).sent = s.sent := rfl
@[simp] theorem bump_encoder (k : Counter) : (bump k s).encoder = s.encoder := rfl
@[simp] theorem bump_strobe (k : Counter) : (bump k s).strobe = s.strobe := rfl
@[simp] theorem bump_tracker (k : Counter) : (bump k s).tracker = s.tracker := rfl
@[simp] theorem bump_ring (k : Counter) : (bump k s).ring = s.ring := rfl
@[simp] theorem bump_maps (k : Counter) : (bump k s).maps = s.maps := rfl
@[simp] theorem bump_table (k : Counter) : (bump k s).table = s.table := rfl
@[simp] theorem bump_list (k : Counter) : (bump k s).list = s.list := rfl
@[simp] theorem bump_ringUnit (k : Counter) : (bump k s).ringUnit = s.ringUnit := rfl
@[simp] theorem bump_acq (k : Counter) : (bump k s).acq = s.acq := rfl
@[simp] theorem bump_mailbox (k : Counter) : (bump k s).mailbox = s.mailbox := rfl
@[simp] theorem bump_attention (k : Counter) : (bump k s).attention = s.attention := rfl
@[simp] theorem bump_profile (k : Counter) : (bump k s).profile = s.profile := rfl
@[simp] theorem bump_resetLine (k : Counter) : (bump k s).resetLine = s.resetLine := rfl
@[simp] theorem bump_choices (k : Counter) : (bump k s).choices = s.choices := rfl
@[simp] theorem bump_choiceCount (k : Counter) : (bump k s).choiceCount = s.choiceCount := rfl
@[simp] theorem bump_pending (k : Counter) : (bump k s).pending = s.pending := rfl

/-! ### setClock -/

@[simp] theorem setClock_inletHeld (t : Nat) : (setClock t s).inletHeld = s.inletHeld := rfl
@[simp] theorem setClock_decode (t : Nat) : (setClock t s).decode = s.decode := rfl
@[simp] theorem setClock_outlet (t : Nat) : (setClock t s).outlet = s.outlet := rfl
@[simp] theorem setClock_reads (t : Nat) : (setClock t s).reads = s.reads := rfl
@[simp] theorem setClock_heldTags (t : Nat) : (setClock t s).heldTags = s.heldTags := rfl
@[simp] theorem setClock_returned (t : Nat) : (setClock t s).returned = s.returned := rfl
@[simp] theorem setClock_sent (t : Nat) : (setClock t s).sent = s.sent := rfl
@[simp] theorem setClock_encoder (t : Nat) : (setClock t s).encoder = s.encoder := rfl
@[simp] theorem setClock_tracker (t : Nat) : (setClock t s).tracker = s.tracker := rfl
@[simp] theorem setClock_ring (t : Nat) : (setClock t s).ring = s.ring := rfl
@[simp] theorem setClock_maps (t : Nat) : (setClock t s).maps = s.maps := rfl
@[simp] theorem setClock_table (t : Nat) : (setClock t s).table = s.table := rfl
@[simp] theorem setClock_list (t : Nat) : (setClock t s).list = s.list := rfl
@[simp] theorem setClock_ringUnit (t : Nat) : (setClock t s).ringUnit = s.ringUnit := rfl
@[simp] theorem setClock_acq (t : Nat) : (setClock t s).acq = s.acq := rfl
@[simp] theorem setClock_mailbox (t : Nat) : (setClock t s).mailbox = s.mailbox := rfl
@[simp] theorem setClock_attention (t : Nat) : (setClock t s).attention = s.attention := rfl
@[simp] theorem setClock_profile (t : Nat) : (setClock t s).profile = s.profile := rfl
@[simp] theorem setClock_counters (t : Nat) : (setClock t s).counters = s.counters := rfl
@[simp] theorem setClock_resetLine (t : Nat) : (setClock t s).resetLine = s.resetLine := rfl
@[simp] theorem setClock_choices (t : Nat) : (setClock t s).choices = s.choices := rfl
@[simp] theorem setClock_choiceCount (t : Nat) : (setClock t s).choiceCount = s.choiceCount := rfl
@[simp] theorem setClock_pending (t : Nat) : (setClock t s).pending = s.pending := rfl

/-! ### setSlot -/

@[simp] theorem setSlot_clock (l : Lane) (i : Nat) (r : SlotRecord) : (setSlot l i r s).clock = s.clock := rfl
@[simp] theorem setSlot_inletHeld (l : Lane) (i : Nat) (r : SlotRecord) :
    (setSlot l i r s).inletHeld = s.inletHeld := rfl
@[simp] theorem setSlot_decode (l : Lane) (i : Nat) (r : SlotRecord) :
    (setSlot l i r s).decode = s.decode := rfl
@[simp] theorem setSlot_outlet (l : Lane) (i : Nat) (r : SlotRecord) :
    (setSlot l i r s).outlet = s.outlet := rfl
@[simp] theorem setSlot_reads (l : Lane) (i : Nat) (r : SlotRecord) : (setSlot l i r s).reads = s.reads := rfl
@[simp] theorem setSlot_heldTags (l : Lane) (i : Nat) (r : SlotRecord) :
    (setSlot l i r s).heldTags = s.heldTags := rfl
@[simp] theorem setSlot_returned (l : Lane) (i : Nat) (r : SlotRecord) :
    (setSlot l i r s).returned = s.returned := rfl
@[simp] theorem setSlot_sent (l : Lane) (i : Nat) (r : SlotRecord) : (setSlot l i r s).sent = s.sent := rfl
@[simp] theorem setSlot_encoder (l : Lane) (i : Nat) (r : SlotRecord) :
    (setSlot l i r s).encoder = s.encoder := rfl
@[simp] theorem setSlot_strobe (l : Lane) (i : Nat) (r : SlotRecord) :
    (setSlot l i r s).strobe = s.strobe := rfl
@[simp] theorem setSlot_tracker (l : Lane) (i : Nat) (r : SlotRecord) :
    (setSlot l i r s).tracker = s.tracker := rfl
@[simp] theorem setSlot_maps (l : Lane) (i : Nat) (r : SlotRecord) : (setSlot l i r s).maps = s.maps := rfl
@[simp] theorem setSlot_table (l : Lane) (i : Nat) (r : SlotRecord) : (setSlot l i r s).table = s.table := rfl
@[simp] theorem setSlot_list (l : Lane) (i : Nat) (r : SlotRecord) : (setSlot l i r s).list = s.list := rfl
@[simp] theorem setSlot_ringUnit (l : Lane) (i : Nat) (r : SlotRecord) :
    (setSlot l i r s).ringUnit = s.ringUnit := rfl
@[simp] theorem setSlot_acq (l : Lane) (i : Nat) (r : SlotRecord) : (setSlot l i r s).acq = s.acq := rfl
@[simp] theorem setSlot_mailbox (l : Lane) (i : Nat) (r : SlotRecord) :
    (setSlot l i r s).mailbox = s.mailbox := rfl
@[simp] theorem setSlot_attention (l : Lane) (i : Nat) (r : SlotRecord) :
    (setSlot l i r s).attention = s.attention := rfl
@[simp] theorem setSlot_profile (l : Lane) (i : Nat) (r : SlotRecord) :
    (setSlot l i r s).profile = s.profile := rfl
@[simp] theorem setSlot_counters (l : Lane) (i : Nat) (r : SlotRecord) :
    (setSlot l i r s).counters = s.counters := rfl
@[simp] theorem setSlot_resetLine (l : Lane) (i : Nat) (r : SlotRecord) :
    (setSlot l i r s).resetLine = s.resetLine := rfl
@[simp] theorem setSlot_choices (l : Lane) (i : Nat) (r : SlotRecord) :
    (setSlot l i r s).choices = s.choices := rfl
@[simp] theorem setSlot_choiceCount (l : Lane) (i : Nat) (r : SlotRecord) :
    (setSlot l i r s).choiceCount = s.choiceCount := rfl
@[simp] theorem setSlot_pending (l : Lane) (i : Nat) (r : SlotRecord) :
    (setSlot l i r s).pending = s.pending := rfl

/-! ### updateEntry -/

@[simp] theorem updateEntry_clock (k : Nat) (f : Entry → Entry) : (updateEntry k f s).clock = s.clock := rfl
@[simp] theorem updateEntry_inletHeld (k : Nat) (f : Entry → Entry) :
    (updateEntry k f s).inletHeld = s.inletHeld := rfl
@[simp] theorem updateEntry_decode (k : Nat) (f : Entry → Entry) :
    (updateEntry k f s).decode = s.decode := rfl
@[simp] theorem updateEntry_outlet (k : Nat) (f : Entry → Entry) :
    (updateEntry k f s).outlet = s.outlet := rfl
@[simp] theorem updateEntry_reads (k : Nat) (f : Entry → Entry) : (updateEntry k f s).reads = s.reads := rfl
@[simp] theorem updateEntry_heldTags (k : Nat) (f : Entry → Entry) :
    (updateEntry k f s).heldTags = s.heldTags := rfl
@[simp] theorem updateEntry_returned (k : Nat) (f : Entry → Entry) :
    (updateEntry k f s).returned = s.returned := rfl
@[simp] theorem updateEntry_sent (k : Nat) (f : Entry → Entry) : (updateEntry k f s).sent = s.sent := rfl
@[simp] theorem updateEntry_encoder (k : Nat) (f : Entry → Entry) :
    (updateEntry k f s).encoder = s.encoder := rfl
@[simp] theorem updateEntry_strobe (k : Nat) (f : Entry → Entry) :
    (updateEntry k f s).strobe = s.strobe := rfl
@[simp] theorem updateEntry_tracker (k : Nat) (f : Entry → Entry) :
    (updateEntry k f s).tracker = s.tracker := rfl
@[simp] theorem updateEntry_ring (k : Nat) (f : Entry → Entry) : (updateEntry k f s).ring = s.ring := rfl
@[simp] theorem updateEntry_maps (k : Nat) (f : Entry → Entry) : (updateEntry k f s).maps = s.maps := rfl
@[simp] theorem updateEntry_list (k : Nat) (f : Entry → Entry) : (updateEntry k f s).list = s.list := rfl
@[simp] theorem updateEntry_ringUnit (k : Nat) (f : Entry → Entry) :
    (updateEntry k f s).ringUnit = s.ringUnit := rfl
@[simp] theorem updateEntry_acq (k : Nat) (f : Entry → Entry) : (updateEntry k f s).acq = s.acq := rfl
@[simp] theorem updateEntry_mailbox (k : Nat) (f : Entry → Entry) :
    (updateEntry k f s).mailbox = s.mailbox := rfl
@[simp] theorem updateEntry_attention (k : Nat) (f : Entry → Entry) :
    (updateEntry k f s).attention = s.attention := rfl
@[simp] theorem updateEntry_profile (k : Nat) (f : Entry → Entry) :
    (updateEntry k f s).profile = s.profile := rfl
@[simp] theorem updateEntry_counters (k : Nat) (f : Entry → Entry) :
    (updateEntry k f s).counters = s.counters := rfl
@[simp] theorem updateEntry_resetLine (k : Nat) (f : Entry → Entry) :
    (updateEntry k f s).resetLine = s.resetLine := rfl
@[simp] theorem updateEntry_choices (k : Nat) (f : Entry → Entry) :
    (updateEntry k f s).choices = s.choices := rfl
@[simp] theorem updateEntry_choiceCount (k : Nat) (f : Entry → Entry) :
    (updateEntry k f s).choiceCount = s.choiceCount := rfl
@[simp] theorem updateEntry_pending (k : Nat) (f : Entry → Entry) :
    (updateEntry k f s).pending = s.pending := rfl

/-! ### clearRing -/

@[simp] theorem clearRing_clock : (clearRing s).clock = s.clock := rfl
@[simp] theorem clearRing_inletHeld : (clearRing s).inletHeld = s.inletHeld := rfl
@[simp] theorem clearRing_decode : (clearRing s).decode = s.decode := rfl
@[simp] theorem clearRing_outlet : (clearRing s).outlet = s.outlet := rfl
@[simp] theorem clearRing_reads : (clearRing s).reads = s.reads := rfl
@[simp] theorem clearRing_heldTags : (clearRing s).heldTags = s.heldTags := rfl
@[simp] theorem clearRing_returned : (clearRing s).returned = s.returned := rfl
@[simp] theorem clearRing_sent : (clearRing s).sent = s.sent := rfl
@[simp] theorem clearRing_encoder : (clearRing s).encoder = s.encoder := rfl
@[simp] theorem clearRing_strobe : (clearRing s).strobe = s.strobe := rfl
@[simp] theorem clearRing_tracker : (clearRing s).tracker = s.tracker := rfl
@[simp] theorem clearRing_maps : (clearRing s).maps = s.maps := rfl
@[simp] theorem clearRing_table : (clearRing s).table = s.table := rfl
@[simp] theorem clearRing_list : (clearRing s).list = s.list := rfl
@[simp] theorem clearRing_ringUnit : (clearRing s).ringUnit = s.ringUnit := rfl
@[simp] theorem clearRing_acq : (clearRing s).acq = s.acq := rfl
@[simp] theorem clearRing_mailbox : (clearRing s).mailbox = s.mailbox := rfl
@[simp] theorem clearRing_attention : (clearRing s).attention = s.attention := rfl
@[simp] theorem clearRing_profile : (clearRing s).profile = s.profile := rfl
@[simp] theorem clearRing_counters : (clearRing s).counters = s.counters := rfl
@[simp] theorem clearRing_resetLine : (clearRing s).resetLine = s.resetLine := rfl
@[simp] theorem clearRing_choices : (clearRing s).choices = s.choices := rfl
@[simp] theorem clearRing_choiceCount : (clearRing s).choiceCount = s.choiceCount := rfl
@[simp] theorem clearRing_pending : (clearRing s).pending = s.pending := rfl

/-! ### enterOutlet -/

@[simp] theorem enterOutlet_clock (t : OutTxn) : (enterOutlet t s).clock = s.clock := rfl
@[simp] theorem enterOutlet_inletHeld (t : OutTxn) : (enterOutlet t s).inletHeld = s.inletHeld := rfl
@[simp] theorem enterOutlet_decode (t : OutTxn) : (enterOutlet t s).decode = s.decode := rfl
@[simp] theorem enterOutlet_reads (t : OutTxn) : (enterOutlet t s).reads = s.reads := rfl
@[simp] theorem enterOutlet_heldTags (t : OutTxn) : (enterOutlet t s).heldTags = s.heldTags := rfl
@[simp] theorem enterOutlet_returned (t : OutTxn) : (enterOutlet t s).returned = s.returned := rfl
@[simp] theorem enterOutlet_sent (t : OutTxn) : (enterOutlet t s).sent = s.sent := rfl
@[simp] theorem enterOutlet_encoder (t : OutTxn) : (enterOutlet t s).encoder = s.encoder := rfl
@[simp] theorem enterOutlet_strobe (t : OutTxn) : (enterOutlet t s).strobe = s.strobe := rfl
@[simp] theorem enterOutlet_tracker (t : OutTxn) : (enterOutlet t s).tracker = s.tracker := rfl
@[simp] theorem enterOutlet_ring (t : OutTxn) : (enterOutlet t s).ring = s.ring := rfl
@[simp] theorem enterOutlet_maps (t : OutTxn) : (enterOutlet t s).maps = s.maps := rfl
@[simp] theorem enterOutlet_table (t : OutTxn) : (enterOutlet t s).table = s.table := rfl
@[simp] theorem enterOutlet_list (t : OutTxn) : (enterOutlet t s).list = s.list := rfl
@[simp] theorem enterOutlet_ringUnit (t : OutTxn) : (enterOutlet t s).ringUnit = s.ringUnit := rfl
@[simp] theorem enterOutlet_acq (t : OutTxn) : (enterOutlet t s).acq = s.acq := rfl
@[simp] theorem enterOutlet_mailbox (t : OutTxn) : (enterOutlet t s).mailbox = s.mailbox := rfl
@[simp] theorem enterOutlet_attention (t : OutTxn) : (enterOutlet t s).attention = s.attention := rfl
@[simp] theorem enterOutlet_profile (t : OutTxn) : (enterOutlet t s).profile = s.profile := rfl
@[simp] theorem enterOutlet_counters (t : OutTxn) : (enterOutlet t s).counters = s.counters := rfl
@[simp] theorem enterOutlet_resetLine (t : OutTxn) : (enterOutlet t s).resetLine = s.resetLine := rfl
@[simp] theorem enterOutlet_choices (t : OutTxn) : (enterOutlet t s).choices = s.choices := rfl
@[simp] theorem enterOutlet_choiceCount (t : OutTxn) : (enterOutlet t s).choiceCount = s.choiceCount := rfl
@[simp] theorem enterOutlet_pending (t : OutTxn) : (enterOutlet t s).pending = s.pending := rfl

/-! ### returnToInlet -/

@[simp] theorem returnToInlet_clock (c : Completion) : (returnToInlet c s).clock = s.clock := rfl
@[simp] theorem returnToInlet_inletHeld (c : Completion) : (returnToInlet c s).inletHeld = s.inletHeld := rfl
@[simp] theorem returnToInlet_decode (c : Completion) : (returnToInlet c s).decode = s.decode := rfl
@[simp] theorem returnToInlet_outlet (c : Completion) : (returnToInlet c s).outlet = s.outlet := rfl
@[simp] theorem returnToInlet_reads (c : Completion) : (returnToInlet c s).reads = s.reads := rfl
@[simp] theorem returnToInlet_heldTags (c : Completion) : (returnToInlet c s).heldTags = s.heldTags := rfl
@[simp] theorem returnToInlet_sent (c : Completion) : (returnToInlet c s).sent = s.sent := rfl
@[simp] theorem returnToInlet_encoder (c : Completion) : (returnToInlet c s).encoder = s.encoder := rfl
@[simp] theorem returnToInlet_strobe (c : Completion) : (returnToInlet c s).strobe = s.strobe := rfl
@[simp] theorem returnToInlet_tracker (c : Completion) : (returnToInlet c s).tracker = s.tracker := rfl
@[simp] theorem returnToInlet_ring (c : Completion) : (returnToInlet c s).ring = s.ring := rfl
@[simp] theorem returnToInlet_maps (c : Completion) : (returnToInlet c s).maps = s.maps := rfl
@[simp] theorem returnToInlet_table (c : Completion) : (returnToInlet c s).table = s.table := rfl
@[simp] theorem returnToInlet_list (c : Completion) : (returnToInlet c s).list = s.list := rfl
@[simp] theorem returnToInlet_ringUnit (c : Completion) : (returnToInlet c s).ringUnit = s.ringUnit := rfl
@[simp] theorem returnToInlet_acq (c : Completion) : (returnToInlet c s).acq = s.acq := rfl
@[simp] theorem returnToInlet_mailbox (c : Completion) : (returnToInlet c s).mailbox = s.mailbox := rfl
@[simp] theorem returnToInlet_attention (c : Completion) : (returnToInlet c s).attention = s.attention := rfl
@[simp] theorem returnToInlet_profile (c : Completion) : (returnToInlet c s).profile = s.profile := rfl
@[simp] theorem returnToInlet_counters (c : Completion) : (returnToInlet c s).counters = s.counters := rfl
@[simp] theorem returnToInlet_resetLine (c : Completion) : (returnToInlet c s).resetLine = s.resetLine := rfl
@[simp] theorem returnToInlet_choices (c : Completion) : (returnToInlet c s).choices = s.choices := rfl
@[simp] theorem returnToInlet_choiceCount (c : Completion) :
    (returnToInlet c s).choiceCount = s.choiceCount := rfl
@[simp] theorem returnToInlet_pending (c : Completion) : (returnToInlet c s).pending = s.pending := rfl

/-! ### setAcq -/

@[simp] theorem setAcq_clock (a : AcqState) (q : Request) : (setAcq a q s).clock = s.clock := rfl
@[simp] theorem setAcq_inletHeld (a : AcqState) (q : Request) : (setAcq a q s).inletHeld = s.inletHeld := rfl
@[simp] theorem setAcq_decode (a : AcqState) (q : Request) : (setAcq a q s).decode = s.decode := rfl
@[simp] theorem setAcq_outlet (a : AcqState) (q : Request) : (setAcq a q s).outlet = s.outlet := rfl
@[simp] theorem setAcq_reads (a : AcqState) (q : Request) : (setAcq a q s).reads = s.reads := rfl
@[simp] theorem setAcq_heldTags (a : AcqState) (q : Request) : (setAcq a q s).heldTags = s.heldTags := rfl
@[simp] theorem setAcq_returned (a : AcqState) (q : Request) : (setAcq a q s).returned = s.returned := rfl
@[simp] theorem setAcq_sent (a : AcqState) (q : Request) : (setAcq a q s).sent = s.sent := rfl
@[simp] theorem setAcq_encoder (a : AcqState) (q : Request) : (setAcq a q s).encoder = s.encoder := rfl
@[simp] theorem setAcq_strobe (a : AcqState) (q : Request) : (setAcq a q s).strobe = s.strobe := rfl
@[simp] theorem setAcq_tracker (a : AcqState) (q : Request) : (setAcq a q s).tracker = s.tracker := rfl
@[simp] theorem setAcq_ring (a : AcqState) (q : Request) : (setAcq a q s).ring = s.ring := rfl
@[simp] theorem setAcq_maps (a : AcqState) (q : Request) : (setAcq a q s).maps = s.maps := rfl
@[simp] theorem setAcq_table (a : AcqState) (q : Request) : (setAcq a q s).table = s.table := rfl
@[simp] theorem setAcq_list (a : AcqState) (q : Request) : (setAcq a q s).list = s.list := rfl
@[simp] theorem setAcq_ringUnit (a : AcqState) (q : Request) : (setAcq a q s).ringUnit = s.ringUnit := rfl
@[simp] theorem setAcq_mailbox (a : AcqState) (q : Request) : (setAcq a q s).mailbox = s.mailbox := rfl
@[simp] theorem setAcq_attention (a : AcqState) (q : Request) : (setAcq a q s).attention = s.attention := rfl
@[simp] theorem setAcq_profile (a : AcqState) (q : Request) : (setAcq a q s).profile = s.profile := rfl
@[simp] theorem setAcq_counters (a : AcqState) (q : Request) : (setAcq a q s).counters = s.counters := rfl
@[simp] theorem setAcq_resetLine (a : AcqState) (q : Request) : (setAcq a q s).resetLine = s.resetLine := rfl
@[simp] theorem setAcq_choices (a : AcqState) (q : Request) : (setAcq a q s).choices = s.choices := rfl
@[simp] theorem setAcq_choiceCount (a : AcqState) (q : Request) :
    (setAcq a q s).choiceCount = s.choiceCount := rfl
@[simp] theorem setAcq_pending (a : AcqState) (q : Request) : (setAcq a q s).pending = s.pending := rfl

/-! ### setRequest -/

@[simp] theorem setRequest_clock (q : Request) : (setRequest q s).clock = s.clock := rfl
@[simp] theorem setRequest_inletHeld (q : Request) : (setRequest q s).inletHeld = s.inletHeld := rfl
@[simp] theorem setRequest_decode (q : Request) : (setRequest q s).decode = s.decode := rfl
@[simp] theorem setRequest_outlet (q : Request) : (setRequest q s).outlet = s.outlet := rfl
@[simp] theorem setRequest_reads (q : Request) : (setRequest q s).reads = s.reads := rfl
@[simp] theorem setRequest_heldTags (q : Request) : (setRequest q s).heldTags = s.heldTags := rfl
@[simp] theorem setRequest_returned (q : Request) : (setRequest q s).returned = s.returned := rfl
@[simp] theorem setRequest_sent (q : Request) : (setRequest q s).sent = s.sent := rfl
@[simp] theorem setRequest_encoder (q : Request) : (setRequest q s).encoder = s.encoder := rfl
@[simp] theorem setRequest_strobe (q : Request) : (setRequest q s).strobe = s.strobe := rfl
@[simp] theorem setRequest_tracker (q : Request) : (setRequest q s).tracker = s.tracker := rfl
@[simp] theorem setRequest_ring (q : Request) : (setRequest q s).ring = s.ring := rfl
@[simp] theorem setRequest_maps (q : Request) : (setRequest q s).maps = s.maps := rfl
@[simp] theorem setRequest_table (q : Request) : (setRequest q s).table = s.table := rfl
@[simp] theorem setRequest_list (q : Request) : (setRequest q s).list = s.list := rfl
@[simp] theorem setRequest_ringUnit (q : Request) : (setRequest q s).ringUnit = s.ringUnit := rfl
@[simp] theorem setRequest_mailbox (q : Request) : (setRequest q s).mailbox = s.mailbox := rfl
@[simp] theorem setRequest_attention (q : Request) : (setRequest q s).attention = s.attention := rfl
@[simp] theorem setRequest_profile (q : Request) : (setRequest q s).profile = s.profile := rfl
@[simp] theorem setRequest_counters (q : Request) : (setRequest q s).counters = s.counters := rfl
@[simp] theorem setRequest_resetLine (q : Request) : (setRequest q s).resetLine = s.resetLine := rfl
@[simp] theorem setRequest_choices (q : Request) : (setRequest q s).choices = s.choices := rfl
@[simp] theorem setRequest_choiceCount (q : Request) : (setRequest q s).choiceCount = s.choiceCount := rfl
@[simp] theorem setRequest_pending (q : Request) : (setRequest q s).pending = s.pending := rfl

/-! ### trackerIdle -/

@[simp] theorem trackerIdle_clock : (trackerIdle s).clock = s.clock := rfl
@[simp] theorem trackerIdle_inletHeld : (trackerIdle s).inletHeld = s.inletHeld := rfl
@[simp] theorem trackerIdle_decode : (trackerIdle s).decode = s.decode := rfl
@[simp] theorem trackerIdle_outlet : (trackerIdle s).outlet = s.outlet := rfl
@[simp] theorem trackerIdle_reads : (trackerIdle s).reads = s.reads := rfl
@[simp] theorem trackerIdle_heldTags : (trackerIdle s).heldTags = s.heldTags := rfl
@[simp] theorem trackerIdle_returned : (trackerIdle s).returned = s.returned := rfl
@[simp] theorem trackerIdle_sent : (trackerIdle s).sent = s.sent := rfl
@[simp] theorem trackerIdle_encoder : (trackerIdle s).encoder = s.encoder := rfl
@[simp] theorem trackerIdle_strobe : (trackerIdle s).strobe = s.strobe := rfl
@[simp] theorem trackerIdle_ring : (trackerIdle s).ring = s.ring := rfl
@[simp] theorem trackerIdle_maps : (trackerIdle s).maps = s.maps := rfl
@[simp] theorem trackerIdle_table : (trackerIdle s).table = s.table := rfl
@[simp] theorem trackerIdle_list : (trackerIdle s).list = s.list := rfl
@[simp] theorem trackerIdle_ringUnit : (trackerIdle s).ringUnit = s.ringUnit := rfl
@[simp] theorem trackerIdle_acq : (trackerIdle s).acq = s.acq := rfl
@[simp] theorem trackerIdle_mailbox : (trackerIdle s).mailbox = s.mailbox := rfl
@[simp] theorem trackerIdle_attention : (trackerIdle s).attention = s.attention := rfl
@[simp] theorem trackerIdle_profile : (trackerIdle s).profile = s.profile := rfl
@[simp] theorem trackerIdle_counters : (trackerIdle s).counters = s.counters := rfl
@[simp] theorem trackerIdle_resetLine : (trackerIdle s).resetLine = s.resetLine := rfl
@[simp] theorem trackerIdle_choices : (trackerIdle s).choices = s.choices := rfl
@[simp] theorem trackerIdle_choiceCount : (trackerIdle s).choiceCount = s.choiceCount := rfl
@[simp] theorem trackerIdle_pending : (trackerIdle s).pending = s.pending := rfl

/-! ### setWindow -/

@[simp] theorem setWindow_clock (m : SteeringMap) (b : Nat) : (setWindow m b s).clock = s.clock := rfl
@[simp] theorem setWindow_inletHeld (m : SteeringMap) (b : Nat) :
    (setWindow m b s).inletHeld = s.inletHeld := rfl
@[simp] theorem setWindow_decode (m : SteeringMap) (b : Nat) : (setWindow m b s).decode = s.decode := rfl
@[simp] theorem setWindow_outlet (m : SteeringMap) (b : Nat) : (setWindow m b s).outlet = s.outlet := rfl
@[simp] theorem setWindow_reads (m : SteeringMap) (b : Nat) : (setWindow m b s).reads = s.reads := rfl
@[simp] theorem setWindow_heldTags (m : SteeringMap) (b : Nat) :
    (setWindow m b s).heldTags = s.heldTags := rfl
@[simp] theorem setWindow_returned (m : SteeringMap) (b : Nat) :
    (setWindow m b s).returned = s.returned := rfl
@[simp] theorem setWindow_sent (m : SteeringMap) (b : Nat) : (setWindow m b s).sent = s.sent := rfl
@[simp] theorem setWindow_encoder (m : SteeringMap) (b : Nat) : (setWindow m b s).encoder = s.encoder := rfl
@[simp] theorem setWindow_strobe (m : SteeringMap) (b : Nat) : (setWindow m b s).strobe = s.strobe := rfl
@[simp] theorem setWindow_ring (m : SteeringMap) (b : Nat) : (setWindow m b s).ring = s.ring := rfl
@[simp] theorem setWindow_maps (m : SteeringMap) (b : Nat) : (setWindow m b s).maps = s.maps := rfl
@[simp] theorem setWindow_table (m : SteeringMap) (b : Nat) : (setWindow m b s).table = s.table := rfl
@[simp] theorem setWindow_list (m : SteeringMap) (b : Nat) : (setWindow m b s).list = s.list := rfl
@[simp] theorem setWindow_ringUnit (m : SteeringMap) (b : Nat) :
    (setWindow m b s).ringUnit = s.ringUnit := rfl
@[simp] theorem setWindow_acq (m : SteeringMap) (b : Nat) : (setWindow m b s).acq = s.acq := rfl
@[simp] theorem setWindow_mailbox (m : SteeringMap) (b : Nat) : (setWindow m b s).mailbox = s.mailbox := rfl
@[simp] theorem setWindow_attention (m : SteeringMap) (b : Nat) :
    (setWindow m b s).attention = s.attention := rfl
@[simp] theorem setWindow_profile (m : SteeringMap) (b : Nat) : (setWindow m b s).profile = s.profile := rfl
@[simp] theorem setWindow_counters (m : SteeringMap) (b : Nat) :
    (setWindow m b s).counters = s.counters := rfl
@[simp] theorem setWindow_resetLine (m : SteeringMap) (b : Nat) :
    (setWindow m b s).resetLine = s.resetLine := rfl
@[simp] theorem setWindow_choices (m : SteeringMap) (b : Nat) : (setWindow m b s).choices = s.choices := rfl
@[simp] theorem setWindow_choiceCount (m : SteeringMap) (b : Nat) :
    (setWindow m b s).choiceCount = s.choiceCount := rfl
@[simp] theorem setWindow_pending (m : SteeringMap) (b : Nat) : (setWindow m b s).pending = s.pending := rfl

/-! ### dropQualification -/

@[simp] theorem dropQualification_clock : (dropQualification s).clock = s.clock := rfl
@[simp] theorem dropQualification_inletHeld : (dropQualification s).inletHeld = s.inletHeld := rfl
@[simp] theorem dropQualification_decode : (dropQualification s).decode = s.decode := rfl
@[simp] theorem dropQualification_outlet : (dropQualification s).outlet = s.outlet := rfl
@[simp] theorem dropQualification_reads : (dropQualification s).reads = s.reads := rfl
@[simp] theorem dropQualification_heldTags : (dropQualification s).heldTags = s.heldTags := rfl
@[simp] theorem dropQualification_returned : (dropQualification s).returned = s.returned := rfl
@[simp] theorem dropQualification_sent : (dropQualification s).sent = s.sent := rfl
@[simp] theorem dropQualification_encoder : (dropQualification s).encoder = s.encoder := rfl
@[simp] theorem dropQualification_strobe : (dropQualification s).strobe = s.strobe := rfl
@[simp] theorem dropQualification_ring : (dropQualification s).ring = s.ring := rfl
@[simp] theorem dropQualification_maps : (dropQualification s).maps = s.maps := rfl
@[simp] theorem dropQualification_table : (dropQualification s).table = s.table := rfl
@[simp] theorem dropQualification_list : (dropQualification s).list = s.list := rfl
@[simp] theorem dropQualification_ringUnit : (dropQualification s).ringUnit = s.ringUnit := rfl
@[simp] theorem dropQualification_acq : (dropQualification s).acq = s.acq := rfl
@[simp] theorem dropQualification_mailbox : (dropQualification s).mailbox = s.mailbox := rfl
@[simp] theorem dropQualification_attention : (dropQualification s).attention = s.attention := rfl
@[simp] theorem dropQualification_profile : (dropQualification s).profile = s.profile := rfl
@[simp] theorem dropQualification_counters : (dropQualification s).counters = s.counters := rfl
@[simp] theorem dropQualification_resetLine : (dropQualification s).resetLine = s.resetLine := rfl
@[simp] theorem dropQualification_choices : (dropQualification s).choices = s.choices := rfl
@[simp] theorem dropQualification_choiceCount : (dropQualification s).choiceCount = s.choiceCount := rfl
@[simp] theorem dropQualification_pending : (dropQualification s).pending = s.pending := rfl

/-! ### relock -/

@[simp] theorem relock_clock : (relock s).clock = s.clock := rfl
@[simp] theorem relock_inletHeld : (relock s).inletHeld = s.inletHeld := rfl
@[simp] theorem relock_decode : (relock s).decode = s.decode := rfl
@[simp] theorem relock_outlet : (relock s).outlet = s.outlet := rfl
@[simp] theorem relock_reads : (relock s).reads = s.reads := rfl
@[simp] theorem relock_heldTags : (relock s).heldTags = s.heldTags := rfl
@[simp] theorem relock_returned : (relock s).returned = s.returned := rfl
@[simp] theorem relock_sent : (relock s).sent = s.sent := rfl
@[simp] theorem relock_encoder : (relock s).encoder = s.encoder := rfl
@[simp] theorem relock_strobe : (relock s).strobe = s.strobe := rfl
@[simp] theorem relock_ring : (relock s).ring = s.ring := rfl
@[simp] theorem relock_maps : (relock s).maps = s.maps := rfl
@[simp] theorem relock_table : (relock s).table = s.table := rfl
@[simp] theorem relock_list : (relock s).list = s.list := rfl
@[simp] theorem relock_ringUnit : (relock s).ringUnit = s.ringUnit := rfl
@[simp] theorem relock_acq : (relock s).acq = s.acq := rfl
@[simp] theorem relock_mailbox : (relock s).mailbox = s.mailbox := rfl
@[simp] theorem relock_attention : (relock s).attention = s.attention := rfl
@[simp] theorem relock_profile : (relock s).profile = s.profile := rfl
@[simp] theorem relock_counters : (relock s).counters = s.counters := rfl
@[simp] theorem relock_resetLine : (relock s).resetLine = s.resetLine := rfl
@[simp] theorem relock_choices : (relock s).choices = s.choices := rfl
@[simp] theorem relock_choiceCount : (relock s).choiceCount = s.choiceCount := rfl
@[simp] theorem relock_pending : (relock s).pending = s.pending := rfl

/-! ### endSearch -/

@[simp] theorem endSearch_clock : (endSearch s).clock = s.clock := rfl
@[simp] theorem endSearch_inletHeld : (endSearch s).inletHeld = s.inletHeld := rfl
@[simp] theorem endSearch_decode : (endSearch s).decode = s.decode := rfl
@[simp] theorem endSearch_outlet : (endSearch s).outlet = s.outlet := rfl
@[simp] theorem endSearch_reads : (endSearch s).reads = s.reads := rfl
@[simp] theorem endSearch_heldTags : (endSearch s).heldTags = s.heldTags := rfl
@[simp] theorem endSearch_returned : (endSearch s).returned = s.returned := rfl
@[simp] theorem endSearch_sent : (endSearch s).sent = s.sent := rfl
@[simp] theorem endSearch_encoder : (endSearch s).encoder = s.encoder := rfl
@[simp] theorem endSearch_strobe : (endSearch s).strobe = s.strobe := rfl
@[simp] theorem endSearch_ring : (endSearch s).ring = s.ring := rfl
@[simp] theorem endSearch_maps : (endSearch s).maps = s.maps := rfl
@[simp] theorem endSearch_table : (endSearch s).table = s.table := rfl
@[simp] theorem endSearch_list : (endSearch s).list = s.list := rfl
@[simp] theorem endSearch_ringUnit : (endSearch s).ringUnit = s.ringUnit := rfl
@[simp] theorem endSearch_acq : (endSearch s).acq = s.acq := rfl
@[simp] theorem endSearch_mailbox : (endSearch s).mailbox = s.mailbox := rfl
@[simp] theorem endSearch_attention : (endSearch s).attention = s.attention := rfl
@[simp] theorem endSearch_profile : (endSearch s).profile = s.profile := rfl
@[simp] theorem endSearch_counters : (endSearch s).counters = s.counters := rfl
@[simp] theorem endSearch_resetLine : (endSearch s).resetLine = s.resetLine := rfl
@[simp] theorem endSearch_choices : (endSearch s).choices = s.choices := rfl
@[simp] theorem endSearch_choiceCount : (endSearch s).choiceCount = s.choiceCount := rfl
@[simp] theorem endSearch_pending : (endSearch s).pending = s.pending := rfl

/-! ### removeEntry -/

@[simp] theorem removeEntry_clock (k : Nat) : (removeEntry k s).clock = s.clock := rfl
@[simp] theorem removeEntry_inletHeld (k : Nat) : (removeEntry k s).inletHeld = s.inletHeld := rfl
@[simp] theorem removeEntry_decode (k : Nat) : (removeEntry k s).decode = s.decode := rfl
@[simp] theorem removeEntry_outlet (k : Nat) : (removeEntry k s).outlet = s.outlet := rfl
@[simp] theorem removeEntry_reads (k : Nat) : (removeEntry k s).reads = s.reads := rfl
@[simp] theorem removeEntry_heldTags (k : Nat) : (removeEntry k s).heldTags = s.heldTags := rfl
@[simp] theorem removeEntry_returned (k : Nat) : (removeEntry k s).returned = s.returned := rfl
@[simp] theorem removeEntry_sent (k : Nat) : (removeEntry k s).sent = s.sent := rfl
@[simp] theorem removeEntry_encoder (k : Nat) : (removeEntry k s).encoder = s.encoder := rfl
@[simp] theorem removeEntry_strobe (k : Nat) : (removeEntry k s).strobe = s.strobe := rfl
@[simp] theorem removeEntry_tracker (k : Nat) : (removeEntry k s).tracker = s.tracker := rfl
@[simp] theorem removeEntry_ring (k : Nat) : (removeEntry k s).ring = s.ring := rfl
@[simp] theorem removeEntry_maps (k : Nat) : (removeEntry k s).maps = s.maps := rfl
@[simp] theorem removeEntry_list (k : Nat) : (removeEntry k s).list = s.list := rfl
@[simp] theorem removeEntry_ringUnit (k : Nat) : (removeEntry k s).ringUnit = s.ringUnit := rfl
@[simp] theorem removeEntry_acq (k : Nat) : (removeEntry k s).acq = s.acq := rfl
@[simp] theorem removeEntry_mailbox (k : Nat) : (removeEntry k s).mailbox = s.mailbox := rfl
@[simp] theorem removeEntry_attention (k : Nat) : (removeEntry k s).attention = s.attention := rfl
@[simp] theorem removeEntry_profile (k : Nat) : (removeEntry k s).profile = s.profile := rfl
@[simp] theorem removeEntry_counters (k : Nat) : (removeEntry k s).counters = s.counters := rfl
@[simp] theorem removeEntry_resetLine (k : Nat) : (removeEntry k s).resetLine = s.resetLine := rfl
@[simp] theorem removeEntry_choices (k : Nat) : (removeEntry k s).choices = s.choices := rfl
@[simp] theorem removeEntry_choiceCount (k : Nat) : (removeEntry k s).choiceCount = s.choiceCount := rfl
@[simp] theorem removeEntry_pending (k : Nat) : (removeEntry k s).pending = s.pending := rfl

/-! ### bindJobs -/

@[simp] theorem bindJobs_clock (k : Nat) (b : Buffer) : (bindJobs k b s).clock = s.clock := rfl
@[simp] theorem bindJobs_inletHeld (k : Nat) (b : Buffer) : (bindJobs k b s).inletHeld = s.inletHeld := rfl
@[simp] theorem bindJobs_decode (k : Nat) (b : Buffer) : (bindJobs k b s).decode = s.decode := rfl
@[simp] theorem bindJobs_outlet (k : Nat) (b : Buffer) : (bindJobs k b s).outlet = s.outlet := rfl
@[simp] theorem bindJobs_reads (k : Nat) (b : Buffer) : (bindJobs k b s).reads = s.reads := rfl
@[simp] theorem bindJobs_heldTags (k : Nat) (b : Buffer) : (bindJobs k b s).heldTags = s.heldTags := rfl
@[simp] theorem bindJobs_returned (k : Nat) (b : Buffer) : (bindJobs k b s).returned = s.returned := rfl
@[simp] theorem bindJobs_sent (k : Nat) (b : Buffer) : (bindJobs k b s).sent = s.sent := rfl
@[simp] theorem bindJobs_encoder (k : Nat) (b : Buffer) : (bindJobs k b s).encoder = s.encoder := rfl
@[simp] theorem bindJobs_strobe (k : Nat) (b : Buffer) : (bindJobs k b s).strobe = s.strobe := rfl
@[simp] theorem bindJobs_tracker (k : Nat) (b : Buffer) : (bindJobs k b s).tracker = s.tracker := rfl
@[simp] theorem bindJobs_ring (k : Nat) (b : Buffer) : (bindJobs k b s).ring = s.ring := rfl
@[simp] theorem bindJobs_maps (k : Nat) (b : Buffer) : (bindJobs k b s).maps = s.maps := rfl
@[simp] theorem bindJobs_table (k : Nat) (b : Buffer) : (bindJobs k b s).table = s.table := rfl
@[simp] theorem bindJobs_ringUnit (k : Nat) (b : Buffer) : (bindJobs k b s).ringUnit = s.ringUnit := rfl
@[simp] theorem bindJobs_acq (k : Nat) (b : Buffer) : (bindJobs k b s).acq = s.acq := rfl
@[simp] theorem bindJobs_mailbox (k : Nat) (b : Buffer) : (bindJobs k b s).mailbox = s.mailbox := rfl
@[simp] theorem bindJobs_attention (k : Nat) (b : Buffer) : (bindJobs k b s).attention = s.attention := rfl
@[simp] theorem bindJobs_profile (k : Nat) (b : Buffer) : (bindJobs k b s).profile = s.profile := rfl
@[simp] theorem bindJobs_counters (k : Nat) (b : Buffer) : (bindJobs k b s).counters = s.counters := rfl
@[simp] theorem bindJobs_resetLine (k : Nat) (b : Buffer) : (bindJobs k b s).resetLine = s.resetLine := rfl
@[simp] theorem bindJobs_choices (k : Nat) (b : Buffer) : (bindJobs k b s).choices = s.choices := rfl
@[simp] theorem bindJobs_choiceCount (k : Nat) (b : Buffer) :
    (bindJobs k b s).choiceCount = s.choiceCount := rfl
@[simp] theorem bindJobs_pending (k : Nat) (b : Buffer) : (bindJobs k b s).pending = s.pending := rfl

/-! ### setOpening -/

@[simp] theorem setOpening_clock (o : Option Opening) : (setOpening o s).clock = s.clock := rfl
@[simp] theorem setOpening_inletHeld (o : Option Opening) : (setOpening o s).inletHeld = s.inletHeld := rfl
@[simp] theorem setOpening_decode (o : Option Opening) : (setOpening o s).decode = s.decode := rfl
@[simp] theorem setOpening_outlet (o : Option Opening) : (setOpening o s).outlet = s.outlet := rfl
@[simp] theorem setOpening_reads (o : Option Opening) : (setOpening o s).reads = s.reads := rfl
@[simp] theorem setOpening_heldTags (o : Option Opening) : (setOpening o s).heldTags = s.heldTags := rfl
@[simp] theorem setOpening_returned (o : Option Opening) : (setOpening o s).returned = s.returned := rfl
@[simp] theorem setOpening_sent (o : Option Opening) : (setOpening o s).sent = s.sent := rfl
@[simp] theorem setOpening_encoder (o : Option Opening) : (setOpening o s).encoder = s.encoder := rfl
@[simp] theorem setOpening_strobe (o : Option Opening) : (setOpening o s).strobe = s.strobe := rfl
@[simp] theorem setOpening_tracker (o : Option Opening) : (setOpening o s).tracker = s.tracker := rfl
@[simp] theorem setOpening_ring (o : Option Opening) : (setOpening o s).ring = s.ring := rfl
@[simp] theorem setOpening_maps (o : Option Opening) : (setOpening o s).maps = s.maps := rfl
@[simp] theorem setOpening_table (o : Option Opening) : (setOpening o s).table = s.table := rfl
@[simp] theorem setOpening_list (o : Option Opening) : (setOpening o s).list = s.list := rfl
@[simp] theorem setOpening_acq (o : Option Opening) : (setOpening o s).acq = s.acq := rfl
@[simp] theorem setOpening_mailbox (o : Option Opening) : (setOpening o s).mailbox = s.mailbox := rfl
@[simp] theorem setOpening_attention (o : Option Opening) : (setOpening o s).attention = s.attention := rfl
@[simp] theorem setOpening_profile (o : Option Opening) : (setOpening o s).profile = s.profile := rfl
@[simp] theorem setOpening_counters (o : Option Opening) : (setOpening o s).counters = s.counters := rfl
@[simp] theorem setOpening_resetLine (o : Option Opening) : (setOpening o s).resetLine = s.resetLine := rfl
@[simp] theorem setOpening_choices (o : Option Opening) : (setOpening o s).choices = s.choices := rfl
@[simp] theorem setOpening_choiceCount (o : Option Opening) :
    (setOpening o s).choiceCount = s.choiceCount := rfl
@[simp] theorem setOpening_pending (o : Option Opening) : (setOpening o s).pending = s.pending := rfl

/-! ### setPoll -/

@[simp] theorem setPoll_clock (p : PollState) : (setPoll p s).clock = s.clock := rfl
@[simp] theorem setPoll_inletHeld (p : PollState) : (setPoll p s).inletHeld = s.inletHeld := rfl
@[simp] theorem setPoll_decode (p : PollState) : (setPoll p s).decode = s.decode := rfl
@[simp] theorem setPoll_outlet (p : PollState) : (setPoll p s).outlet = s.outlet := rfl
@[simp] theorem setPoll_reads (p : PollState) : (setPoll p s).reads = s.reads := rfl
@[simp] theorem setPoll_heldTags (p : PollState) : (setPoll p s).heldTags = s.heldTags := rfl
@[simp] theorem setPoll_returned (p : PollState) : (setPoll p s).returned = s.returned := rfl
@[simp] theorem setPoll_sent (p : PollState) : (setPoll p s).sent = s.sent := rfl
@[simp] theorem setPoll_encoder (p : PollState) : (setPoll p s).encoder = s.encoder := rfl
@[simp] theorem setPoll_strobe (p : PollState) : (setPoll p s).strobe = s.strobe := rfl
@[simp] theorem setPoll_tracker (p : PollState) : (setPoll p s).tracker = s.tracker := rfl
@[simp] theorem setPoll_ring (p : PollState) : (setPoll p s).ring = s.ring := rfl
@[simp] theorem setPoll_maps (p : PollState) : (setPoll p s).maps = s.maps := rfl
@[simp] theorem setPoll_table (p : PollState) : (setPoll p s).table = s.table := rfl
@[simp] theorem setPoll_list (p : PollState) : (setPoll p s).list = s.list := rfl
@[simp] theorem setPoll_ringUnit (p : PollState) : (setPoll p s).ringUnit = s.ringUnit := rfl
@[simp] theorem setPoll_acq (p : PollState) : (setPoll p s).acq = s.acq := rfl
@[simp] theorem setPoll_attention (p : PollState) : (setPoll p s).attention = s.attention := rfl
@[simp] theorem setPoll_profile (p : PollState) : (setPoll p s).profile = s.profile := rfl
@[simp] theorem setPoll_counters (p : PollState) : (setPoll p s).counters = s.counters := rfl
@[simp] theorem setPoll_resetLine (p : PollState) : (setPoll p s).resetLine = s.resetLine := rfl
@[simp] theorem setPoll_choices (p : PollState) : (setPoll p s).choices = s.choices := rfl
@[simp] theorem setPoll_choiceCount (p : PollState) : (setPoll p s).choiceCount = s.choiceCount := rfl
@[simp] theorem setPoll_pending (p : PollState) : (setPoll p s).pending = s.pending := rfl

/-! ### setProgress -/

@[simp] theorem setProgress_clock (p : Option Progress) : (setProgress p s).clock = s.clock := rfl
@[simp] theorem setProgress_inletHeld (p : Option Progress) : (setProgress p s).inletHeld = s.inletHeld := rfl
@[simp] theorem setProgress_decode (p : Option Progress) : (setProgress p s).decode = s.decode := rfl
@[simp] theorem setProgress_outlet (p : Option Progress) : (setProgress p s).outlet = s.outlet := rfl
@[simp] theorem setProgress_reads (p : Option Progress) : (setProgress p s).reads = s.reads := rfl
@[simp] theorem setProgress_heldTags (p : Option Progress) : (setProgress p s).heldTags = s.heldTags := rfl
@[simp] theorem setProgress_returned (p : Option Progress) : (setProgress p s).returned = s.returned := rfl
@[simp] theorem setProgress_sent (p : Option Progress) : (setProgress p s).sent = s.sent := rfl
@[simp] theorem setProgress_encoder (p : Option Progress) : (setProgress p s).encoder = s.encoder := rfl
@[simp] theorem setProgress_strobe (p : Option Progress) : (setProgress p s).strobe = s.strobe := rfl
@[simp] theorem setProgress_tracker (p : Option Progress) : (setProgress p s).tracker = s.tracker := rfl
@[simp] theorem setProgress_ring (p : Option Progress) : (setProgress p s).ring = s.ring := rfl
@[simp] theorem setProgress_maps (p : Option Progress) : (setProgress p s).maps = s.maps := rfl
@[simp] theorem setProgress_table (p : Option Progress) : (setProgress p s).table = s.table := rfl
@[simp] theorem setProgress_list (p : Option Progress) : (setProgress p s).list = s.list := rfl
@[simp] theorem setProgress_ringUnit (p : Option Progress) : (setProgress p s).ringUnit = s.ringUnit := rfl
@[simp] theorem setProgress_acq (p : Option Progress) : (setProgress p s).acq = s.acq := rfl
@[simp] theorem setProgress_attention (p : Option Progress) : (setProgress p s).attention = s.attention := rfl
@[simp] theorem setProgress_profile (p : Option Progress) : (setProgress p s).profile = s.profile := rfl
@[simp] theorem setProgress_counters (p : Option Progress) : (setProgress p s).counters = s.counters := rfl
@[simp] theorem setProgress_resetLine (p : Option Progress) : (setProgress p s).resetLine = s.resetLine := rfl
@[simp] theorem setProgress_choices (p : Option Progress) : (setProgress p s).choices = s.choices := rfl
@[simp] theorem setProgress_choiceCount (p : Option Progress) :
    (setProgress p s).choiceCount = s.choiceCount := rfl
@[simp] theorem setProgress_pending (p : Option Progress) : (setProgress p s).pending = s.pending := rfl

/-! ### setPosition -/

@[simp] theorem setPosition_clock (p : BitVec 48) : (setPosition p s).clock = s.clock := rfl
@[simp] theorem setPosition_inletHeld (p : BitVec 48) : (setPosition p s).inletHeld = s.inletHeld := rfl
@[simp] theorem setPosition_decode (p : BitVec 48) : (setPosition p s).decode = s.decode := rfl
@[simp] theorem setPosition_outlet (p : BitVec 48) : (setPosition p s).outlet = s.outlet := rfl
@[simp] theorem setPosition_reads (p : BitVec 48) : (setPosition p s).reads = s.reads := rfl
@[simp] theorem setPosition_heldTags (p : BitVec 48) : (setPosition p s).heldTags = s.heldTags := rfl
@[simp] theorem setPosition_returned (p : BitVec 48) : (setPosition p s).returned = s.returned := rfl
@[simp] theorem setPosition_sent (p : BitVec 48) : (setPosition p s).sent = s.sent := rfl
@[simp] theorem setPosition_strobe (p : BitVec 48) : (setPosition p s).strobe = s.strobe := rfl
@[simp] theorem setPosition_tracker (p : BitVec 48) : (setPosition p s).tracker = s.tracker := rfl
@[simp] theorem setPosition_ring (p : BitVec 48) : (setPosition p s).ring = s.ring := rfl
@[simp] theorem setPosition_maps (p : BitVec 48) : (setPosition p s).maps = s.maps := rfl
@[simp] theorem setPosition_table (p : BitVec 48) : (setPosition p s).table = s.table := rfl
@[simp] theorem setPosition_list (p : BitVec 48) : (setPosition p s).list = s.list := rfl
@[simp] theorem setPosition_ringUnit (p : BitVec 48) : (setPosition p s).ringUnit = s.ringUnit := rfl
@[simp] theorem setPosition_acq (p : BitVec 48) : (setPosition p s).acq = s.acq := rfl
@[simp] theorem setPosition_mailbox (p : BitVec 48) : (setPosition p s).mailbox = s.mailbox := rfl
@[simp] theorem setPosition_attention (p : BitVec 48) : (setPosition p s).attention = s.attention := rfl
@[simp] theorem setPosition_profile (p : BitVec 48) : (setPosition p s).profile = s.profile := rfl
@[simp] theorem setPosition_counters (p : BitVec 48) : (setPosition p s).counters = s.counters := rfl
@[simp] theorem setPosition_resetLine (p : BitVec 48) : (setPosition p s).resetLine = s.resetLine := rfl
@[simp] theorem setPosition_choices (p : BitVec 48) : (setPosition p s).choices = s.choices := rfl
@[simp] theorem setPosition_choiceCount (p : BitVec 48) : (setPosition p s).choiceCount = s.choiceCount := rfl
@[simp] theorem setPosition_pending (p : BitVec 48) : (setPosition p s).pending = s.pending := rfl

/-! ### setReverseFlag -/

@[simp] theorem setReverseFlag_clock (b : Bool) : (setReverseFlag b s).clock = s.clock := rfl
@[simp] theorem setReverseFlag_inletHeld (b : Bool) : (setReverseFlag b s).inletHeld = s.inletHeld := rfl
@[simp] theorem setReverseFlag_decode (b : Bool) : (setReverseFlag b s).decode = s.decode := rfl
@[simp] theorem setReverseFlag_outlet (b : Bool) : (setReverseFlag b s).outlet = s.outlet := rfl
@[simp] theorem setReverseFlag_reads (b : Bool) : (setReverseFlag b s).reads = s.reads := rfl
@[simp] theorem setReverseFlag_heldTags (b : Bool) : (setReverseFlag b s).heldTags = s.heldTags := rfl
@[simp] theorem setReverseFlag_returned (b : Bool) : (setReverseFlag b s).returned = s.returned := rfl
@[simp] theorem setReverseFlag_sent (b : Bool) : (setReverseFlag b s).sent = s.sent := rfl
@[simp] theorem setReverseFlag_strobe (b : Bool) : (setReverseFlag b s).strobe = s.strobe := rfl
@[simp] theorem setReverseFlag_tracker (b : Bool) : (setReverseFlag b s).tracker = s.tracker := rfl
@[simp] theorem setReverseFlag_ring (b : Bool) : (setReverseFlag b s).ring = s.ring := rfl
@[simp] theorem setReverseFlag_maps (b : Bool) : (setReverseFlag b s).maps = s.maps := rfl
@[simp] theorem setReverseFlag_table (b : Bool) : (setReverseFlag b s).table = s.table := rfl
@[simp] theorem setReverseFlag_list (b : Bool) : (setReverseFlag b s).list = s.list := rfl
@[simp] theorem setReverseFlag_ringUnit (b : Bool) : (setReverseFlag b s).ringUnit = s.ringUnit := rfl
@[simp] theorem setReverseFlag_acq (b : Bool) : (setReverseFlag b s).acq = s.acq := rfl
@[simp] theorem setReverseFlag_mailbox (b : Bool) : (setReverseFlag b s).mailbox = s.mailbox := rfl
@[simp] theorem setReverseFlag_attention (b : Bool) : (setReverseFlag b s).attention = s.attention := rfl
@[simp] theorem setReverseFlag_profile (b : Bool) : (setReverseFlag b s).profile = s.profile := rfl
@[simp] theorem setReverseFlag_counters (b : Bool) : (setReverseFlag b s).counters = s.counters := rfl
@[simp] theorem setReverseFlag_resetLine (b : Bool) : (setReverseFlag b s).resetLine = s.resetLine := rfl
@[simp] theorem setReverseFlag_choices (b : Bool) : (setReverseFlag b s).choices = s.choices := rfl
@[simp] theorem setReverseFlag_choiceCount (b : Bool) :
    (setReverseFlag b s).choiceCount = s.choiceCount := rfl
@[simp] theorem setReverseFlag_pending (b : Bool) : (setReverseFlag b s).pending = s.pending := rfl

/-! ### requestRead -/

@[simp] theorem requestRead_clock (u : ReadUnit) (a n : Nat) : (requestRead u a n s).clock = s.clock := rfl
@[simp] theorem requestRead_inletHeld (u : ReadUnit) (a n : Nat) :
    (requestRead u a n s).inletHeld = s.inletHeld := rfl
@[simp] theorem requestRead_decode (u : ReadUnit) (a n : Nat) : (requestRead u a n s).decode = s.decode := rfl
@[simp] theorem requestRead_outlet (u : ReadUnit) (a n : Nat) : (requestRead u a n s).outlet = s.outlet := rfl
@[simp] theorem requestRead_heldTags (u : ReadUnit) (a n : Nat) :
    (requestRead u a n s).heldTags = s.heldTags := rfl
@[simp] theorem requestRead_returned (u : ReadUnit) (a n : Nat) :
    (requestRead u a n s).returned = s.returned := rfl
@[simp] theorem requestRead_sent (u : ReadUnit) (a n : Nat) : (requestRead u a n s).sent = s.sent := rfl
@[simp] theorem requestRead_encoder (u : ReadUnit) (a n : Nat) :
    (requestRead u a n s).encoder = s.encoder := rfl
@[simp] theorem requestRead_strobe (u : ReadUnit) (a n : Nat) : (requestRead u a n s).strobe = s.strobe := rfl
@[simp] theorem requestRead_tracker (u : ReadUnit) (a n : Nat) :
    (requestRead u a n s).tracker = s.tracker := rfl
@[simp] theorem requestRead_ring (u : ReadUnit) (a n : Nat) : (requestRead u a n s).ring = s.ring := rfl
@[simp] theorem requestRead_maps (u : ReadUnit) (a n : Nat) : (requestRead u a n s).maps = s.maps := rfl
@[simp] theorem requestRead_table (u : ReadUnit) (a n : Nat) : (requestRead u a n s).table = s.table := rfl
@[simp] theorem requestRead_list (u : ReadUnit) (a n : Nat) : (requestRead u a n s).list = s.list := rfl
@[simp] theorem requestRead_ringUnit (u : ReadUnit) (a n : Nat) :
    (requestRead u a n s).ringUnit = s.ringUnit := rfl
@[simp] theorem requestRead_acq (u : ReadUnit) (a n : Nat) : (requestRead u a n s).acq = s.acq := rfl
@[simp] theorem requestRead_mailbox (u : ReadUnit) (a n : Nat) :
    (requestRead u a n s).mailbox = s.mailbox := rfl
@[simp] theorem requestRead_attention (u : ReadUnit) (a n : Nat) :
    (requestRead u a n s).attention = s.attention := rfl
@[simp] theorem requestRead_profile (u : ReadUnit) (a n : Nat) :
    (requestRead u a n s).profile = s.profile := rfl
@[simp] theorem requestRead_counters (u : ReadUnit) (a n : Nat) :
    (requestRead u a n s).counters = s.counters := rfl
@[simp] theorem requestRead_resetLine (u : ReadUnit) (a n : Nat) :
    (requestRead u a n s).resetLine = s.resetLine := rfl
@[simp] theorem requestRead_choices (u : ReadUnit) (a n : Nat) :
    (requestRead u a n s).choices = s.choices := rfl
@[simp] theorem requestRead_choiceCount (u : ReadUnit) (a n : Nat) :
    (requestRead u a n s).choiceCount = s.choiceCount := rfl
@[simp] theorem requestRead_pending (u : ReadUnit) (a n : Nat) :
    (requestRead u a n s).pending = s.pending := rfl

/-! ### makeLive -/

@[simp] theorem makeLive_clock (m : SteeringMap) : (makeLive m s).clock = s.clock := rfl
@[simp] theorem makeLive_inletHeld (m : SteeringMap) : (makeLive m s).inletHeld = s.inletHeld := rfl
@[simp] theorem makeLive_decode (m : SteeringMap) : (makeLive m s).decode = s.decode := rfl
@[simp] theorem makeLive_outlet (m : SteeringMap) : (makeLive m s).outlet = s.outlet := rfl
@[simp] theorem makeLive_reads (m : SteeringMap) : (makeLive m s).reads = s.reads := rfl
@[simp] theorem makeLive_heldTags (m : SteeringMap) : (makeLive m s).heldTags = s.heldTags := rfl
@[simp] theorem makeLive_returned (m : SteeringMap) : (makeLive m s).returned = s.returned := rfl
@[simp] theorem makeLive_sent (m : SteeringMap) : (makeLive m s).sent = s.sent := rfl
@[simp] theorem makeLive_encoder (m : SteeringMap) : (makeLive m s).encoder = s.encoder := rfl
@[simp] theorem makeLive_strobe (m : SteeringMap) : (makeLive m s).strobe = s.strobe := rfl
@[simp] theorem makeLive_tracker (m : SteeringMap) : (makeLive m s).tracker = s.tracker := rfl
@[simp] theorem makeLive_table (m : SteeringMap) : (makeLive m s).table = s.table := rfl
@[simp] theorem makeLive_list (m : SteeringMap) : (makeLive m s).list = s.list := rfl
@[simp] theorem makeLive_acq (m : SteeringMap) : (makeLive m s).acq = s.acq := rfl
@[simp] theorem makeLive_mailbox (m : SteeringMap) : (makeLive m s).mailbox = s.mailbox := rfl
@[simp] theorem makeLive_attention (m : SteeringMap) : (makeLive m s).attention = s.attention := rfl
@[simp] theorem makeLive_profile (m : SteeringMap) : (makeLive m s).profile = s.profile := rfl
@[simp] theorem makeLive_counters (m : SteeringMap) : (makeLive m s).counters = s.counters := rfl
@[simp] theorem makeLive_resetLine (m : SteeringMap) : (makeLive m s).resetLine = s.resetLine := rfl
@[simp] theorem makeLive_choices (m : SteeringMap) : (makeLive m s).choices = s.choices := rfl
@[simp] theorem makeLive_choiceCount (m : SteeringMap) : (makeLive m s).choiceCount = s.choiceCount := rfl
@[simp] theorem makeLive_pending (m : SteeringMap) : (makeLive m s).pending = s.pending := rfl

/-! ### countDrop -/

@[simp] theorem countDrop_clock : (countDrop s).clock = s.clock := rfl
@[simp] theorem countDrop_inletHeld : (countDrop s).inletHeld = s.inletHeld := rfl
@[simp] theorem countDrop_decode : (countDrop s).decode = s.decode := rfl
@[simp] theorem countDrop_outlet : (countDrop s).outlet = s.outlet := rfl
@[simp] theorem countDrop_reads : (countDrop s).reads = s.reads := rfl
@[simp] theorem countDrop_heldTags : (countDrop s).heldTags = s.heldTags := rfl
@[simp] theorem countDrop_returned : (countDrop s).returned = s.returned := rfl
@[simp] theorem countDrop_sent : (countDrop s).sent = s.sent := rfl
@[simp] theorem countDrop_encoder : (countDrop s).encoder = s.encoder := rfl
@[simp] theorem countDrop_strobe : (countDrop s).strobe = s.strobe := rfl
@[simp] theorem countDrop_tracker : (countDrop s).tracker = s.tracker := rfl
@[simp] theorem countDrop_ring : (countDrop s).ring = s.ring := rfl
@[simp] theorem countDrop_maps : (countDrop s).maps = s.maps := rfl
@[simp] theorem countDrop_list : (countDrop s).list = s.list := rfl
@[simp] theorem countDrop_ringUnit : (countDrop s).ringUnit = s.ringUnit := rfl
@[simp] theorem countDrop_acq : (countDrop s).acq = s.acq := rfl
@[simp] theorem countDrop_mailbox : (countDrop s).mailbox = s.mailbox := rfl
@[simp] theorem countDrop_profile : (countDrop s).profile = s.profile := rfl
@[simp] theorem countDrop_resetLine : (countDrop s).resetLine = s.resetLine := rfl
@[simp] theorem countDrop_choices : (countDrop s).choices = s.choices := rfl
@[simp] theorem countDrop_choiceCount : (countDrop s).choiceCount = s.choiceCount := rfl
@[simp] theorem countDrop_pending : (countDrop s).pending = s.pending := rfl

/-! ### settleList -/

@[simp] theorem settleList_clock : (settleList s).clock = s.clock := by
  unfold settleList; split <;> rfl
@[simp] theorem settleList_inletHeld : (settleList s).inletHeld = s.inletHeld := by
  unfold settleList; split <;> rfl
@[simp] theorem settleList_decode : (settleList s).decode = s.decode := by
  unfold settleList; split <;> rfl
@[simp] theorem settleList_outlet : (settleList s).outlet = s.outlet := by
  unfold settleList; split <;> rfl
@[simp] theorem settleList_reads : (settleList s).reads = s.reads := by
  unfold settleList; split <;> rfl
@[simp] theorem settleList_heldTags : (settleList s).heldTags = s.heldTags := by
  unfold settleList; split <;> rfl
@[simp] theorem settleList_returned : (settleList s).returned = s.returned := by
  unfold settleList; split <;> rfl
@[simp] theorem settleList_sent : (settleList s).sent = s.sent := by
  unfold settleList; split <;> rfl
@[simp] theorem settleList_encoder : (settleList s).encoder = s.encoder := by
  unfold settleList; split <;> rfl
@[simp] theorem settleList_strobe : (settleList s).strobe = s.strobe := by
  unfold settleList; split <;> rfl
@[simp] theorem settleList_tracker : (settleList s).tracker = s.tracker := by
  unfold settleList; split <;> rfl
@[simp] theorem settleList_ring : (settleList s).ring = s.ring := by
  unfold settleList; split <;> rfl
@[simp] theorem settleList_maps : (settleList s).maps = s.maps := by
  unfold settleList; split <;> rfl
@[simp] theorem settleList_table : (settleList s).table = s.table := by
  unfold settleList; split <;> rfl
@[simp] theorem settleList_ringUnit : (settleList s).ringUnit = s.ringUnit := by
  unfold settleList; split <;> rfl
@[simp] theorem settleList_acq : (settleList s).acq = s.acq := by
  unfold settleList; split <;> rfl
@[simp] theorem settleList_mailbox : (settleList s).mailbox = s.mailbox := by
  unfold settleList; split <;> rfl
@[simp] theorem settleList_attention : (settleList s).attention = s.attention := by
  unfold settleList; split <;> rfl
@[simp] theorem settleList_profile : (settleList s).profile = s.profile := by
  unfold settleList; split <;> rfl
@[simp] theorem settleList_counters : (settleList s).counters = s.counters := by
  unfold settleList; split <;> rfl
@[simp] theorem settleList_resetLine : (settleList s).resetLine = s.resetLine := by
  unfold settleList; split <;> rfl
@[simp] theorem settleList_choices : (settleList s).choices = s.choices := by
  unfold settleList; split <;> rfl
@[simp] theorem settleList_choiceCount : (settleList s).choiceCount = s.choiceCount := by
  unfold settleList; split <;> rfl
@[simp] theorem settleList_pending : (settleList s).pending = s.pending := by
  unfold settleList; split <;> rfl

/-! ### enqueue -/

@[simp] theorem enqueue_clock (j : Job) : (enqueue j s).clock = s.clock := by
  unfold enqueue settleList; split <;> rfl
@[simp] theorem enqueue_inletHeld (j : Job) : (enqueue j s).inletHeld = s.inletHeld := by
  unfold enqueue settleList; split <;> rfl
@[simp] theorem enqueue_decode (j : Job) : (enqueue j s).decode = s.decode := by
  unfold enqueue settleList; split <;> rfl
@[simp] theorem enqueue_outlet (j : Job) : (enqueue j s).outlet = s.outlet := by
  unfold enqueue settleList; split <;> rfl
@[simp] theorem enqueue_reads (j : Job) : (enqueue j s).reads = s.reads := by
  unfold enqueue settleList; split <;> rfl
@[simp] theorem enqueue_heldTags (j : Job) : (enqueue j s).heldTags = s.heldTags := by
  unfold enqueue settleList; split <;> rfl
@[simp] theorem enqueue_returned (j : Job) : (enqueue j s).returned = s.returned := by
  unfold enqueue settleList; split <;> rfl
@[simp] theorem enqueue_sent (j : Job) : (enqueue j s).sent = s.sent := by
  unfold enqueue settleList; split <;> rfl
@[simp] theorem enqueue_encoder (j : Job) : (enqueue j s).encoder = s.encoder := by
  unfold enqueue settleList; split <;> rfl
@[simp] theorem enqueue_strobe (j : Job) : (enqueue j s).strobe = s.strobe := by
  unfold enqueue settleList; split <;> rfl
@[simp] theorem enqueue_tracker (j : Job) : (enqueue j s).tracker = s.tracker := by
  unfold enqueue settleList; split <;> rfl
@[simp] theorem enqueue_ring (j : Job) : (enqueue j s).ring = s.ring := by
  unfold enqueue settleList; split <;> rfl
@[simp] theorem enqueue_maps (j : Job) : (enqueue j s).maps = s.maps := by
  unfold enqueue settleList; split <;> rfl
@[simp] theorem enqueue_table (j : Job) : (enqueue j s).table = s.table := by
  unfold enqueue settleList; split <;> rfl
@[simp] theorem enqueue_ringUnit (j : Job) : (enqueue j s).ringUnit = s.ringUnit := by
  unfold enqueue settleList; split <;> rfl
@[simp] theorem enqueue_acq (j : Job) : (enqueue j s).acq = s.acq := by
  unfold enqueue settleList; split <;> rfl
@[simp] theorem enqueue_mailbox (j : Job) : (enqueue j s).mailbox = s.mailbox := by
  unfold enqueue settleList; split <;> rfl
@[simp] theorem enqueue_attention (j : Job) : (enqueue j s).attention = s.attention := by
  unfold enqueue settleList; split <;> rfl
@[simp] theorem enqueue_profile (j : Job) : (enqueue j s).profile = s.profile := by
  unfold enqueue settleList; split <;> rfl
@[simp] theorem enqueue_counters (j : Job) : (enqueue j s).counters = s.counters := by
  unfold enqueue settleList; split <;> rfl
@[simp] theorem enqueue_resetLine (j : Job) : (enqueue j s).resetLine = s.resetLine := by
  unfold enqueue settleList; split <;> rfl
@[simp] theorem enqueue_choices (j : Job) : (enqueue j s).choices = s.choices := by
  unfold enqueue settleList; split <;> rfl
@[simp] theorem enqueue_choiceCount (j : Job) : (enqueue j s).choiceCount = s.choiceCount := by
  unfold enqueue settleList; split <;> rfl
@[simp] theorem enqueue_pending (j : Job) : (enqueue j s).pending = s.pending := by
  unfold enqueue settleList; split <;> rfl

/-! ### headLeaves -/

@[simp] theorem headLeaves_clock : (headLeaves s).clock = s.clock := rfl
@[simp] theorem headLeaves_inletHeld : (headLeaves s).inletHeld = s.inletHeld := rfl
@[simp] theorem headLeaves_decode : (headLeaves s).decode = s.decode := rfl
@[simp] theorem headLeaves_outlet : (headLeaves s).outlet = s.outlet := rfl
@[simp] theorem headLeaves_reads : (headLeaves s).reads = s.reads := rfl
@[simp] theorem headLeaves_heldTags : (headLeaves s).heldTags = s.heldTags := rfl
@[simp] theorem headLeaves_returned : (headLeaves s).returned = s.returned := rfl
@[simp] theorem headLeaves_sent : (headLeaves s).sent = s.sent := rfl
@[simp] theorem headLeaves_encoder : (headLeaves s).encoder = s.encoder := rfl
@[simp] theorem headLeaves_strobe : (headLeaves s).strobe = s.strobe := rfl
@[simp] theorem headLeaves_tracker : (headLeaves s).tracker = s.tracker := rfl
@[simp] theorem headLeaves_ring : (headLeaves s).ring = s.ring := rfl
@[simp] theorem headLeaves_maps : (headLeaves s).maps = s.maps := rfl
@[simp] theorem headLeaves_table : (headLeaves s).table = s.table := rfl
@[simp] theorem headLeaves_ringUnit : (headLeaves s).ringUnit = s.ringUnit := rfl
@[simp] theorem headLeaves_acq : (headLeaves s).acq = s.acq := rfl
@[simp] theorem headLeaves_mailbox : (headLeaves s).mailbox = s.mailbox := rfl
@[simp] theorem headLeaves_attention : (headLeaves s).attention = s.attention := rfl
@[simp] theorem headLeaves_profile : (headLeaves s).profile = s.profile := rfl
@[simp] theorem headLeaves_counters : (headLeaves s).counters = s.counters := rfl
@[simp] theorem headLeaves_resetLine : (headLeaves s).resetLine = s.resetLine := rfl
@[simp] theorem headLeaves_choices : (headLeaves s).choices = s.choices := rfl
@[simp] theorem headLeaves_choiceCount : (headLeaves s).choiceCount = s.choiceCount := rfl
@[simp] theorem headLeaves_pending : (headLeaves s).pending = s.pending := rfl

/-! ### removeJobs -/

@[simp] theorem removeJobs_clock (p : Job → Bool) : (removeJobs p s).clock = s.clock := by
  unfold removeJobs settleList; dsimp only; split <;> split <;> first | rfl | (split <;> rfl)
@[simp] theorem removeJobs_inletHeld (p : Job → Bool) : (removeJobs p s).inletHeld = s.inletHeld := by
  unfold removeJobs settleList; dsimp only; split <;> split <;> first | rfl | (split <;> rfl)
@[simp] theorem removeJobs_decode (p : Job → Bool) : (removeJobs p s).decode = s.decode := by
  unfold removeJobs settleList; dsimp only; split <;> split <;> first | rfl | (split <;> rfl)
@[simp] theorem removeJobs_outlet (p : Job → Bool) : (removeJobs p s).outlet = s.outlet := by
  unfold removeJobs settleList; dsimp only; split <;> split <;> first | rfl | (split <;> rfl)
@[simp] theorem removeJobs_reads (p : Job → Bool) : (removeJobs p s).reads = s.reads := by
  unfold removeJobs settleList; dsimp only; split <;> split <;> first | rfl | (split <;> rfl)
@[simp] theorem removeJobs_heldTags (p : Job → Bool) : (removeJobs p s).heldTags = s.heldTags := by
  unfold removeJobs settleList; dsimp only; split <;> split <;> first | rfl | (split <;> rfl)
@[simp] theorem removeJobs_returned (p : Job → Bool) : (removeJobs p s).returned = s.returned := by
  unfold removeJobs settleList; dsimp only; split <;> split <;> first | rfl | (split <;> rfl)
@[simp] theorem removeJobs_sent (p : Job → Bool) : (removeJobs p s).sent = s.sent := by
  unfold removeJobs settleList; dsimp only; split <;> split <;> first | rfl | (split <;> rfl)
@[simp] theorem removeJobs_encoder (p : Job → Bool) : (removeJobs p s).encoder = s.encoder := by
  unfold removeJobs settleList; dsimp only; split <;> split <;> first | rfl | (split <;> rfl)
@[simp] theorem removeJobs_strobe (p : Job → Bool) : (removeJobs p s).strobe = s.strobe := by
  unfold removeJobs settleList; dsimp only; split <;> split <;> first | rfl | (split <;> rfl)
@[simp] theorem removeJobs_tracker (p : Job → Bool) : (removeJobs p s).tracker = s.tracker := by
  unfold removeJobs settleList; dsimp only; split <;> split <;> first | rfl | (split <;> rfl)
@[simp] theorem removeJobs_ring (p : Job → Bool) : (removeJobs p s).ring = s.ring := by
  unfold removeJobs settleList; dsimp only; split <;> split <;> first | rfl | (split <;> rfl)
@[simp] theorem removeJobs_maps (p : Job → Bool) : (removeJobs p s).maps = s.maps := by
  unfold removeJobs settleList; dsimp only; split <;> split <;> first | rfl | (split <;> rfl)
@[simp] theorem removeJobs_table (p : Job → Bool) : (removeJobs p s).table = s.table := by
  unfold removeJobs settleList; dsimp only; split <;> split <;> first | rfl | (split <;> rfl)
@[simp] theorem removeJobs_ringUnit (p : Job → Bool) : (removeJobs p s).ringUnit = s.ringUnit := by
  unfold removeJobs settleList; dsimp only; split <;> split <;> first | rfl | (split <;> rfl)
@[simp] theorem removeJobs_acq (p : Job → Bool) : (removeJobs p s).acq = s.acq := by
  unfold removeJobs settleList; dsimp only; split <;> split <;> first | rfl | (split <;> rfl)
@[simp] theorem removeJobs_mailbox (p : Job → Bool) : (removeJobs p s).mailbox = s.mailbox := by
  unfold removeJobs settleList; dsimp only; split <;> split <;> first | rfl | (split <;> rfl)
@[simp] theorem removeJobs_attention (p : Job → Bool) : (removeJobs p s).attention = s.attention := by
  unfold removeJobs settleList; dsimp only; split <;> split <;> first | rfl | (split <;> rfl)
@[simp] theorem removeJobs_profile (p : Job → Bool) : (removeJobs p s).profile = s.profile := by
  unfold removeJobs settleList; dsimp only; split <;> split <;> first | rfl | (split <;> rfl)
@[simp] theorem removeJobs_counters (p : Job → Bool) : (removeJobs p s).counters = s.counters := by
  unfold removeJobs settleList; dsimp only; split <;> split <;> first | rfl | (split <;> rfl)
@[simp] theorem removeJobs_resetLine (p : Job → Bool) : (removeJobs p s).resetLine = s.resetLine := by
  unfold removeJobs settleList; dsimp only; split <;> split <;> first | rfl | (split <;> rfl)
@[simp] theorem removeJobs_choices (p : Job → Bool) : (removeJobs p s).choices = s.choices := by
  unfold removeJobs settleList; dsimp only; split <;> split <;> first | rfl | (split <;> rfl)
@[simp] theorem removeJobs_choiceCount (p : Job → Bool) : (removeJobs p s).choiceCount = s.choiceCount := by
  unfold removeJobs settleList; dsimp only; split <;> split <;> first | rfl | (split <;> rfl)
@[simp] theorem removeJobs_pending (p : Job → Bool) : (removeJobs p s).pending = s.pending := by
  unfold removeJobs settleList; dsimp only; split <;> split <;> first | rfl | (split <;> rfl)

/-! ### respond -/

@[simp] theorem respond_clock (q : BitVec 32) (c : Byte) (r : ResultCode) (d : List Byte) :
    (respond q c r d s).clock = s.clock := by
  unfold respond enqueue settleList; split <;> rfl
@[simp] theorem respond_inletHeld (q : BitVec 32) (c : Byte) (r : ResultCode) (d : List Byte) :
    (respond q c r d s).inletHeld = s.inletHeld := by
  unfold respond enqueue settleList; split <;> rfl
@[simp] theorem respond_decode (q : BitVec 32) (c : Byte) (r : ResultCode) (d : List Byte) :
    (respond q c r d s).decode = s.decode := by
  unfold respond enqueue settleList; split <;> rfl
@[simp] theorem respond_outlet (q : BitVec 32) (c : Byte) (r : ResultCode) (d : List Byte) :
    (respond q c r d s).outlet = s.outlet := by
  unfold respond enqueue settleList; split <;> rfl
@[simp] theorem respond_reads (q : BitVec 32) (c : Byte) (r : ResultCode) (d : List Byte) :
    (respond q c r d s).reads = s.reads := by
  unfold respond enqueue settleList; split <;> rfl
@[simp] theorem respond_heldTags (q : BitVec 32) (c : Byte) (r : ResultCode) (d : List Byte) :
    (respond q c r d s).heldTags = s.heldTags := by
  unfold respond enqueue settleList; split <;> rfl
@[simp] theorem respond_returned (q : BitVec 32) (c : Byte) (r : ResultCode) (d : List Byte) :
    (respond q c r d s).returned = s.returned := by
  unfold respond enqueue settleList; split <;> rfl
@[simp] theorem respond_sent (q : BitVec 32) (c : Byte) (r : ResultCode) (d : List Byte) :
    (respond q c r d s).sent = s.sent := by
  unfold respond enqueue settleList; split <;> rfl
@[simp] theorem respond_encoder (q : BitVec 32) (c : Byte) (r : ResultCode) (d : List Byte) :
    (respond q c r d s).encoder = s.encoder := by
  unfold respond enqueue settleList; split <;> rfl
@[simp] theorem respond_strobe (q : BitVec 32) (c : Byte) (r : ResultCode) (d : List Byte) :
    (respond q c r d s).strobe = s.strobe := by
  unfold respond enqueue settleList; split <;> rfl
@[simp] theorem respond_tracker (q : BitVec 32) (c : Byte) (r : ResultCode) (d : List Byte) :
    (respond q c r d s).tracker = s.tracker := by
  unfold respond enqueue settleList; split <;> rfl
@[simp] theorem respond_ring (q : BitVec 32) (c : Byte) (r : ResultCode) (d : List Byte) :
    (respond q c r d s).ring = s.ring := by
  unfold respond enqueue settleList; split <;> rfl
@[simp] theorem respond_maps (q : BitVec 32) (c : Byte) (r : ResultCode) (d : List Byte) :
    (respond q c r d s).maps = s.maps := by
  unfold respond enqueue settleList; split <;> rfl
@[simp] theorem respond_table (q : BitVec 32) (c : Byte) (r : ResultCode) (d : List Byte) :
    (respond q c r d s).table = s.table := by
  unfold respond enqueue settleList; split <;> rfl
@[simp] theorem respond_ringUnit (q : BitVec 32) (c : Byte) (r : ResultCode) (d : List Byte) :
    (respond q c r d s).ringUnit = s.ringUnit := by
  unfold respond enqueue settleList; split <;> rfl
@[simp] theorem respond_acq (q : BitVec 32) (c : Byte) (r : ResultCode) (d : List Byte) :
    (respond q c r d s).acq = s.acq := by
  unfold respond enqueue settleList; split <;> rfl
@[simp] theorem respond_mailbox (q : BitVec 32) (c : Byte) (r : ResultCode) (d : List Byte) :
    (respond q c r d s).mailbox = s.mailbox := by
  unfold respond enqueue settleList; split <;> rfl
@[simp] theorem respond_attention (q : BitVec 32) (c : Byte) (r : ResultCode) (d : List Byte) :
    (respond q c r d s).attention = s.attention := by
  unfold respond enqueue settleList; split <;> rfl
@[simp] theorem respond_profile (q : BitVec 32) (c : Byte) (r : ResultCode) (d : List Byte) :
    (respond q c r d s).profile = s.profile := by
  unfold respond enqueue settleList; split <;> rfl
@[simp] theorem respond_counters (q : BitVec 32) (c : Byte) (r : ResultCode) (d : List Byte) :
    (respond q c r d s).counters = s.counters := by
  unfold respond enqueue settleList; split <;> rfl
@[simp] theorem respond_resetLine (q : BitVec 32) (c : Byte) (r : ResultCode) (d : List Byte) :
    (respond q c r d s).resetLine = s.resetLine := by
  unfold respond enqueue settleList; split <;> rfl
@[simp] theorem respond_choices (q : BitVec 32) (c : Byte) (r : ResultCode) (d : List Byte) :
    (respond q c r d s).choices = s.choices := by
  unfold respond enqueue settleList; split <;> rfl
@[simp] theorem respond_choiceCount (q : BitVec 32) (c : Byte) (r : ResultCode) (d : List Byte) :
    (respond q c r d s).choiceCount = s.choiceCount := by
  unfold respond enqueue settleList; split <;> rfl
@[simp] theorem respond_pending (q : BitVec 32) (c : Byte) (r : ResultCode) (d : List Byte) :
    (respond q c r d s).pending = s.pending := by
  unfold respond enqueue settleList; split <;> rfl

/-! ### cutOver -/

@[simp] theorem cutOver_clock : (cutOver s).clock = s.clock := by
  unfold cutOver; split <;> rfl
@[simp] theorem cutOver_inletHeld : (cutOver s).inletHeld = s.inletHeld := by
  unfold cutOver; split <;> rfl
@[simp] theorem cutOver_decode : (cutOver s).decode = s.decode := by
  unfold cutOver; split <;> rfl
@[simp] theorem cutOver_outlet : (cutOver s).outlet = s.outlet := by
  unfold cutOver; split <;> rfl
@[simp] theorem cutOver_reads : (cutOver s).reads = s.reads := by
  unfold cutOver; split <;> rfl
@[simp] theorem cutOver_heldTags : (cutOver s).heldTags = s.heldTags := by
  unfold cutOver; split <;> rfl
@[simp] theorem cutOver_returned : (cutOver s).returned = s.returned := by
  unfold cutOver; split <;> rfl
@[simp] theorem cutOver_sent : (cutOver s).sent = s.sent := by
  unfold cutOver; split <;> rfl
@[simp] theorem cutOver_encoder : (cutOver s).encoder = s.encoder := by
  unfold cutOver; split <;> rfl
@[simp] theorem cutOver_strobe : (cutOver s).strobe = s.strobe := by
  unfold cutOver; split <;> rfl
@[simp] theorem cutOver_tracker : (cutOver s).tracker = s.tracker := by
  unfold cutOver; split <;> rfl
@[simp] theorem cutOver_ring : (cutOver s).ring = s.ring := by
  unfold cutOver; split <;> rfl
@[simp] theorem cutOver_table : (cutOver s).table = s.table := by
  unfold cutOver; split <;> rfl
@[simp] theorem cutOver_list : (cutOver s).list = s.list := by
  unfold cutOver; split <;> rfl
@[simp] theorem cutOver_ringUnit : (cutOver s).ringUnit = s.ringUnit := by
  unfold cutOver; split <;> rfl
@[simp] theorem cutOver_acq : (cutOver s).acq = s.acq := by
  unfold cutOver; split <;> rfl
@[simp] theorem cutOver_mailbox : (cutOver s).mailbox = s.mailbox := by
  unfold cutOver; split <;> rfl
@[simp] theorem cutOver_attention : (cutOver s).attention = s.attention := by
  unfold cutOver; split <;> rfl
@[simp] theorem cutOver_profile : (cutOver s).profile = s.profile := by
  unfold cutOver; split <;> rfl
@[simp] theorem cutOver_counters : (cutOver s).counters = s.counters := by
  unfold cutOver; split <;> rfl
@[simp] theorem cutOver_resetLine : (cutOver s).resetLine = s.resetLine := by
  unfold cutOver; split <;> rfl
@[simp] theorem cutOver_choices : (cutOver s).choices = s.choices := by
  unfold cutOver; split <;> rfl
@[simp] theorem cutOver_choiceCount : (cutOver s).choiceCount = s.choiceCount := by
  unfold cutOver; split <;> rfl
@[simp] theorem cutOver_pending : (cutOver s).pending = s.pending := by
  unfold cutOver; split <;> rfl

/-! ### adoptStaged -/

@[simp] theorem adoptStaged_clock : (adoptStaged s).clock = s.clock := by
  unfold adoptStaged; split <;> rfl
@[simp] theorem adoptStaged_inletHeld : (adoptStaged s).inletHeld = s.inletHeld := by
  unfold adoptStaged; split <;> rfl
@[simp] theorem adoptStaged_decode : (adoptStaged s).decode = s.decode := by
  unfold adoptStaged; split <;> rfl
@[simp] theorem adoptStaged_outlet : (adoptStaged s).outlet = s.outlet := by
  unfold adoptStaged; split <;> rfl
@[simp] theorem adoptStaged_reads : (adoptStaged s).reads = s.reads := by
  unfold adoptStaged; split <;> rfl
@[simp] theorem adoptStaged_heldTags : (adoptStaged s).heldTags = s.heldTags := by
  unfold adoptStaged; split <;> rfl
@[simp] theorem adoptStaged_returned : (adoptStaged s).returned = s.returned := by
  unfold adoptStaged; split <;> rfl
@[simp] theorem adoptStaged_sent : (adoptStaged s).sent = s.sent := by
  unfold adoptStaged; split <;> rfl
@[simp] theorem adoptStaged_encoder : (adoptStaged s).encoder = s.encoder := by
  unfold adoptStaged; split <;> rfl
@[simp] theorem adoptStaged_strobe : (adoptStaged s).strobe = s.strobe := by
  unfold adoptStaged; split <;> rfl
@[simp] theorem adoptStaged_tracker : (adoptStaged s).tracker = s.tracker := by
  unfold adoptStaged; split <;> rfl
@[simp] theorem adoptStaged_table : (adoptStaged s).table = s.table := by
  unfold adoptStaged; split <;> rfl
@[simp] theorem adoptStaged_list : (adoptStaged s).list = s.list := by
  unfold adoptStaged; split <;> rfl
@[simp] theorem adoptStaged_acq : (adoptStaged s).acq = s.acq := by
  unfold adoptStaged; split <;> rfl
@[simp] theorem adoptStaged_mailbox : (adoptStaged s).mailbox = s.mailbox := by
  unfold adoptStaged; split <;> rfl
@[simp] theorem adoptStaged_attention : (adoptStaged s).attention = s.attention := by
  unfold adoptStaged; split <;> rfl
@[simp] theorem adoptStaged_profile : (adoptStaged s).profile = s.profile := by
  unfold adoptStaged; split <;> rfl
@[simp] theorem adoptStaged_counters : (adoptStaged s).counters = s.counters := by
  unfold adoptStaged; split <;> rfl
@[simp] theorem adoptStaged_resetLine : (adoptStaged s).resetLine = s.resetLine := by
  unfold adoptStaged; split <;> rfl
@[simp] theorem adoptStaged_choices : (adoptStaged s).choices = s.choices := by
  unfold adoptStaged; split <;> rfl
@[simp] theorem adoptStaged_choiceCount : (adoptStaged s).choiceCount = s.choiceCount := by
  unfold adoptStaged; split <;> rfl
@[simp] theorem adoptStaged_pending : (adoptStaged s).pending = s.pending := by
  unfold adoptStaged; split <;> rfl

/-! ### The fields the updates write -/

@[simp] theorem raise_causes (c : Cause) :
    (raise c s).attention.causes = s.attention.causes ||| causeSet c := rfl
@[simp] theorem raise_mask (c : Cause) : (raise c s).attention.mask = s.attention.mask := rfl
@[simp] theorem setClock_clock (t : Nat) : (setClock t s).clock = t := rfl
@[simp] theorem enterOutlet_outlet (t : OutTxn) : (enterOutlet t s).outlet = s.outlet ++ [t] := rfl
@[simp] theorem returnToInlet_returned (c : Completion) :
    (returnToInlet c s).returned = s.returned ++ [c] := rfl
@[simp] theorem setAcq_state (a : AcqState) (q : Request) : (setAcq a q s).acq.state = a := rfl
@[simp] theorem setAcq_request (a : AcqState) (q : Request) : (setAcq a q s).acq.request = q := rfl
@[simp] theorem setRequest_state (q : Request) : (setRequest q s).acq.state = s.acq.state := rfl
@[simp] theorem trackerIdle_state : (trackerIdle s).tracker.state = .idle := rfl
@[simp] theorem setOpening_opening (o : Option Opening) : (setOpening o s).ringUnit.opening = o := rfl
@[simp] theorem setPoll_poll (p : PollState) : (setPoll p s).mailbox.poll = p := rfl
@[simp] theorem setProgress_inProgress (p : Option Progress) :
    (setProgress p s).mailbox.inProgress = p := rfl
@[simp] theorem updateEntry_entries (k : Nat) (f : Entry → Entry) :
    (updateEntry k f s).table.entries = s.table.entries.map fun e => if e.key = k then f e else e := rfl
@[simp] theorem updateEntry_nextKey (k : Nat) (f : Entry → Entry) :
    (updateEntry k f s).table.nextKey = s.table.nextKey := rfl
@[simp] theorem removeEntry_entries (k : Nat) :
    (removeEntry k s).table.entries = s.table.entries.filter fun e => decide (e.key ≠ k) := rfl
@[simp] theorem clearRing_bindings : (clearRing s).ring.bindings = [] := rfl
@[simp] theorem clearRing_slots : (clearRing s).ring.slots = Lanes.every [] := rfl
@[simp] theorem clearRing_step : (clearRing s).ring.step = s.ring.step := rfl
@[simp] theorem setSlot_step (l : Lane) (i : Nat) (r : SlotRecord) :
    (setSlot l i r s).ring.step = s.ring.step := rfl
@[simp] theorem setSlot_mismatches (l : Lane) (i : Nat) (r : SlotRecord) :
    (setSlot l i r s).ring.mismatches = s.ring.mismatches := rfl
@[simp] theorem setSlot_bindings (l : Lane) (i : Nat) (r : SlotRecord) :
    (setSlot l i r s).ring.bindings = s.ring.bindings := rfl
@[simp] theorem makeLive_live (m : SteeringMap) : (makeLive m s).maps.live = some m := rfl
@[simp] theorem makeLive_staged (m : SteeringMap) : (makeLive m s).maps.staged = s.maps.staged := rfl

end Sys2Proof.Machine
end

