-- ==== Sys2Proof/Laws/Ops.lean ====
section
/-! SUPPORT. What the shared operations can do, said once: lanes, slot lists, free orders, the internal write
list, tags and entries. -/

namespace Sys2Proof

/-! ### Lanes -/

theorem Lanes.ext_get {α : Type} {v w : Lanes α} (h : ∀ l, v.get l = w.get l) : v = w := by
  cases v; cases w
  have h0 := h 0; have h1 := h 1; have h2 := h 2; have h3 := h 3
  have h4 := h 4; have h5 := h 5; have h6 := h 6; have h7 := h 7
  simp only [Lanes.get] at h0 h1 h2 h3 h4 h5 h6 h7
  simp_all

@[simp] theorem Lanes.get_set_same {α : Type} (v : Lanes α) (l : Lane) (a : α) : (v.set l a).get l = a := by
  fin_cases l <;> rfl

theorem Lanes.get_set_other {α : Type} (v : Lanes α) {l k : Lane} (a : α) (h : k ≠ l) :
    (v.set l a).get k = v.get k := by
  fin_cases l <;> fin_cases k <;> first | rfl | exact absurd rfl h

@[simp] theorem Lanes.get_every {α : Type} (a : α) (l : Lane) : (Lanes.every a).get l = a := by
  fin_cases l <;> rfl

@[simp] theorem Lanes.get_ofFn {α : Type} (f : Lane → α) (l : Lane) : (Lanes.ofFn f).get l = f l := by
  fin_cases l <;> rfl

@[simp] theorem Lanes.get_map {α β : Type} (f : α → β) (v : Lanes α) (l : Lane) :
    (v.map f).get l = f (v.get l) := by
  fin_cases l <;> rfl

theorem Lanes.mem_toList {α : Type} (v : Lanes α) (a : α) : a ∈ v.toList ↔ ∃ l, v.get l = a := by
  constructor
  · intro h
    simp only [Lanes.toList, List.mem_cons, List.not_mem_nil, or_false] at h
    rcases h with h | h | h | h | h | h | h | h
    · exact ⟨0, h.symm⟩
    · exact ⟨1, h.symm⟩
    · exact ⟨2, h.symm⟩
    · exact ⟨3, h.symm⟩
    · exact ⟨4, h.symm⟩
    · exact ⟨5, h.symm⟩
    · exact ⟨6, h.symm⟩
    · exact ⟨7, h.symm⟩
  · rintro ⟨l, rfl⟩
    fin_cases l <;> simp [Lanes.toList, Lanes.get]

theorem mem_allLanes (l : Lane) : l ∈ allLanes := by
  fin_cases l <;> decide

namespace Machine

/-! ### Slot lists -/

@[simp] theorem slotFind_slotPut_same {α : Type} (k : Nat) (v : α) (xs : List (Nat × α)) :
    slotFind k (slotPut k v xs) = some v := by
  induction xs with
  | nil => simp [slotPut, slotFind]
  | cons p rest ih =>
    obtain ⟨j, w⟩ := p
    simp only [slotPut]
    split
    · simp [slotFind]
    · split
      · simp [slotFind]
      · rw [slotFind, if_neg (by omega)]; exact ih

theorem slotFind_slotPut_other {α : Type} {k i : Nat} (v : α) (xs : List (Nat × α)) (h : i ≠ k) :
    slotFind i (slotPut k v xs) = slotFind i xs := by
  induction xs with
  | nil => simp [slotPut, slotFind, Ne.symm h]
  | cons p rest ih =>
    obtain ⟨j, w⟩ := p
    simp only [slotPut]
    split
    · rw [slotFind, if_neg (Ne.symm h)]
    · split
      · subst_vars; simp [slotFind, Ne.symm h]
      · simp only [slotFind, ih]

theorem slotPut_mem {α : Type} {k : Nat} {v : α} {xs : List (Nat × α)} {q : Nat × α}
    (h : q ∈ slotPut k v xs) : q = (k, v) ∨ q ∈ xs := by
  induction xs with
  | nil => simp_all [slotPut]
  | cons p rest ih =>
    obtain ⟨j, w⟩ := p
    simp only [slotPut] at h
    split at h
    · simpa using h
    · split at h
      · rcases List.mem_cons.1 h with h | h
        · exact .inl h
        · exact .inr (List.mem_cons_of_mem _ h)
      · rcases List.mem_cons.1 h with h | h
        · exact .inr (by simp [h])
        · rcases ih h with h | h
          · exact .inl h
          · exact .inr (List.mem_cons_of_mem _ h)

theorem slotPut_rises {α : Type} (k : Nat) (v : α) {xs : List (Nat × α)} (h : slotsRise xs) :
    slotsRise (slotPut k v xs) := by
  induction xs with
  | nil => simp [slotsRise, slotPut]
  | cons p rest ih =>
    obtain ⟨j, w⟩ := p
    simp only [slotsRise, List.pairwise_cons] at h ih ⊢
    obtain ⟨h1, h2⟩ := h
    simp only [slotPut]
    split
    · rename_i hkj
      refine List.pairwise_cons.2 ⟨?_, List.pairwise_cons.2 ⟨h1, h2⟩⟩
      intro q hq
      rcases List.mem_cons.1 hq with rfl | hq
      · exact hkj
      · exact lt_trans hkj (h1 q hq)
    · split
      · rename_i heq
        subst heq
        exact List.pairwise_cons.2 ⟨h1, h2⟩
      · rename_i hlt hne
        refine List.pairwise_cons.2 ⟨?_, ih h2⟩
        intro q hq
        rcases slotPut_mem hq with rfl | hq
        · simp only; omega
        · exact h1 q hq

/-! ### Slot records -/

@[simp] theorem slotRecord_setSlot_same (s : State) (l : Lane) (i : Nat) (r : SlotRecord) :
    slotRecord (setSlot l i r s) l i = r := by
  simp [slotRecord, setSlot]

theorem slotRecord_setSlot_other (s : State) {l k : Lane} {i j : Nat} (r : SlotRecord)
    (h : k ≠ l ∨ j ≠ i) : slotRecord (setSlot l i r s) k j = slotRecord s k j := by
  unfold slotRecord setSlot
  by_cases hk : k = l
  · subst hk
    rcases h with h | h
    · exact absurd rfl h
    · simp [slotFind_slotPut_other r _ h]
  · simp [Lanes.get_set_other _ _ hk]

/-! ### Free orders -/

theorem arrange_perm {α : Type} (n : Nat) (xs : List α) : (arrange n xs).Perm xs := by
  induction xs generalizing n with
  | nil => simp [arrange]
  | cons x xs ih =>
    have h := ih (n / (xs.length + 1))
    have hlen : n % (xs.length + 1) ≤ (arrange (n / (xs.length + 1)) xs).length := by
      rw [h.length_eq]; exact Nat.le_of_lt_succ (Nat.mod_lt _ (Nat.succ_pos _))
    simp only [arrange]
    exact (List.perm_insertIdx x _ hlen).trans (h.cons x)

theorem freeOrder_perm {α : Type} (xs : List α) (s : State) : (freeOrder xs s).1.Perm xs := by
  match xs with
  | [] => simp [freeOrder]
  | [x] => simp [freeOrder]
  | x :: y :: rest => exact arrange_perm _ _

theorem takeChoice_state (s : State) :
    (takeChoice s).2 = { s with choices := (takeChoice s).2.choices, choiceCount := (takeChoice s).2.choiceCount } := by
  unfold takeChoice; split <;> rfl

theorem freeOrder_state {α : Type} (xs : List α) (s : State) :
    (freeOrder xs s).2 =
      { s with choices := (freeOrder xs s).2.choices, choiceCount := (freeOrder xs s).2.choiceCount } := by
  match xs with
  | [] => rfl
  | [x] => rfl
  | x :: y :: rest => exact takeChoice_state s

/-! ### The internal write list -/

theorem settleJobs_suffix (es : List Entry) (js : List Job) : settleJobs es js <:+ js := by
  induction js with
  | nil => simp [settleJobs]
  | cons j js ih =>
    cases j with
    | fill f =>
      simp only [settleJobs]
      split
      · exact ih.trans (List.suffix_cons _ _)
      · exact List.suffix_refl _
    | record r => exact List.suffix_refl _
    | response r => exact List.suffix_refl _

/-- Settling discards FILL jobs only. -/
theorem settleJobs_others (es : List Entry) (js : List Job) :
    (settleJobs es js).filter (fun j => !isFill j) = js.filter (fun j => !isFill j) := by
  induction js with
  | nil => rfl
  | cons j js ih =>
    cases j with
    | fill f =>
      simp only [settleJobs]
      split
      · simpa [isFill] using ih
      · rfl
    | record r => rfl
    | response r => rfl

/-- After settling, the head is no FILL job that would be discarded. -/
theorem settleJobs_head {es : List Entry} {js : List Job} {f : FillJob} {rest : List Job}
    (h : settleJobs es js = .fill f :: rest) : resolveFill es f ≠ .discarded := by
  induction js with
  | nil => simp [settleJobs] at h
  | cons j js ih =>
    cases j with
    | fill g =>
      simp only [settleJobs] at h
      split at h
      · exact ih h
      · rename_i hg
        simp only [List.cons.injEq, Job.fill.injEq] at h
        rw [← h.1]; exact hg
    | record r => simp [settleJobs] at h
    | response r => simp [settleJobs] at h

theorem settleJobs_of_settled {es : List Entry} {js : List Job}
    (h : ∀ f rest, js = .fill f :: rest → resolveFill es f ≠ .discarded) : settleJobs es js = js := by
  cases js with
  | nil => rfl
  | cons j js =>
    cases j with
    | fill f => simp only [settleJobs, if_neg (h f js rfl)]
    | record r => rfl
    | response r => rfl

/-- A settled list takes a job that is no FILL job at its tail and is otherwise as it was. -/
theorem enqueue_of_settled {j : Job} {s : State} (hs : ListSettled s) (hj : isFill j = false) :
    enqueue j s = { s with list := { s.list with jobs := s.list.jobs ++ [j] } } := by
  unfold enqueue settleList
  split
  · rename_i hp
    simp only at hp
    rw [settleJobs_of_settled]
    intro f rest he
    cases hjobs : s.list.jobs with
    | nil =>
      simp only [hjobs, List.nil_append, List.cons.injEq] at he
      rw [he.1] at hj; simp [isFill] at hj
    | cons k ks =>
      simp only [hjobs, List.cons_append, List.cons.injEq] at he
      obtain ⟨rfl, -⟩ := he
      exact hs hp f ks hjobs
  · rfl

/-- A response queued on a settled list stands at its tail. -/
theorem respond_of_settled {s : State} (hs : ListSettled s) (q : BitVec 32) (c : Byte) (r : ResultCode)
    (d : List Byte) :
    respond q c r d s =
      { s with list :=
          { s.list with jobs := s.list.jobs ++ [.response { seq := q, code := c, result := r, data := d }] } } :=
  enqueue_of_settled hs rfl

/-- Settling a list that is settled, or whose head's issue has begun, changes nothing. -/
theorem settleList_of_settled {s : State} (hs : ListSettled s) : settleList s = s := by
  unfold settleList
  split
  · rename_i hp
    rw [settleJobs_of_settled (hs hp)]
  · rfl

theorem settleList_settled (s : State) : ListSettled (settleList s) := by
  intro hp f js hj
  unfold settleList at hp hj ⊢
  split
  · rename_i h0
    rw [if_pos h0] at hj
    exact settleJobs_head hj
  · rename_i h0
    rw [if_neg h0] at hp
    exact absurd hp h0

/-- A fill offered stands at the tail of the list, or is lost. -/
theorem offerFill_cases (e : Entry) (row c len : Nat) (value : List Byte) (s : State) :
    (fillCount s < 240 ∧
        offerFill e row c len value s =
          enqueue
            (.fill { target := .entry e.key, row := row - e.firstRow, column := c, len := len, value := value })
            s) ∨
      (240 ≤ fillCount s ∧
        offerFill e row c len value s =
          raise .fillLost (bump .fillsLost (updateEntry e.key (fun x => { x with fillLost := true }) s))) := by
  unfold offerFill Config.fillLimit
  split
  · exact .inl ⟨by assumption, rfl⟩
  · exact .inr ⟨by omega, rfl⟩

/-- A settled list with room takes a fill at its tail, when it is not discarded as it becomes the head. -/
theorem offerFill_joins {e : Entry} {row c len : Nat} {value : List Byte} {s : State} {f : FillJob}
    (hf : f = { target := .entry e.key, row := row - e.firstRow, column := c, len := len, value := value })
    (hs : ListSettled s) (hn : fillCount s < 240)
    (hh : s.list.jobs ≠ [] ∨ resolveFill s.table.entries f ≠ .discarded) :
    offerFill e row c len value s = { s with list := { s.list with jobs := s.list.jobs ++ [.fill f] } } := by
  rcases offerFill_cases e row c len value s with ⟨-, h⟩ | ⟨h, -⟩
  · rw [h, ← hf]
    unfold enqueue settleList
    split
    · rename_i hp
      rw [settleJobs_of_settled]
      intro g rest he
      cases hj : s.list.jobs with
      | nil =>
        rw [hj] at he hh
        obtain ⟨h1, -⟩ := List.cons.inj he
        obtain rfl := Job.fill.inj h1
        exact hh.resolve_left (· rfl)
      | cons k ks =>
        rw [hj] at he
        obtain ⟨rfl, -⟩ := List.cons.inj he
        exact hs hp g ks hj
    · rfl
  · omega

/-! ### Flash after an interrupted programming (R164, R167) -/

@[simp] theorem leBytes_length (n v : Nat) : (leBytes n v).length = n := by simp [leBytes]

/-- The bytes of the value of bytes are these bytes. -/
theorem leBytes_leNat (bs : List Byte) : leBytes bs.length (leNat bs) = bs := by
  induction bs with
  | nil => rfl
  | cons b bs ih =>
    have hb := b.isLt
    have hhead : BitVec.ofNat 8 (b.toNat + 256 * leNat bs) = b := by
      apply BitVec.eq_of_toNat_eq
      rw [BitVec.toNat_ofNat]
      omega
    have htail (i : Nat) : (b.toNat + 256 * leNat bs) >>> (8 * (i + 1)) = leNat bs >>> (8 * i) := by
      rw [Nat.mul_add, Nat.add_comm (8 * i), Nat.shiftRight_add, Nat.shiftRight_eq_div_pow _ (8 * 1)]
      congr 1
      omega
    conv_rhs => rw [← ih]
    simp only [leBytes, leNat, List.length_cons, List.range_succ_eq_map, List.map_cons, List.map_map, Nat.mul_zero,
      Nat.shiftRight_zero, hhead, List.cons.injEq, true_and]
    exact List.map_congr_left fun i _ => congrArg (BitVec.ofNat 8) (htail i)

/-- What an interrupted programming leaves is 66 bytes, all erased or judged CORRUPT. -/
theorem freeFlash_judged (n : Nat) :
    (freeFlash n).length = 66 ∧
      ((loadProfile (freeFlash n)).1 = .corrupt ∨ freeFlash n = List.replicate 66 0xFF) := by
  unfold freeFlash
  split
  · exact ⟨leBytes_length _ _, .inl (by assumption)⟩
  · exact ⟨List.length_replicate .., .inr rfl⟩

/-- Every content that the load judges CORRUPT is left by some value. -/
theorem freeFlash_names_every_corrupt {bs : List Byte} (hl : bs.length = 66) (hc : (loadProfile bs).1 = .corrupt) :
    ∃ n, freeFlash n = bs := by
  have h : leBytes 66 (leNat bs) = bs := hl ▸ leBytes_leNat bs
  exact ⟨leNat bs, by rw [freeFlash, h, if_pos hc]⟩

/-- All bytes erased is left by some value. -/
theorem freeFlash_names_erased : freeFlash (2 ^ 528 - 1) = List.replicate 66 0xFF := by decide +kernel
/-! ### Tags -/

theorem mem_reservedTags {t : Tag} : t ∈ Config.reservedTags ↔ 240 ≤ t.toNat := by
  revert t; decide

theorem tagFree_iff {s : State} {t : Tag} (h : 240 ≤ t.toNat) : tagFree s t = true ↔ FreeTag s t := by
  simp [tagFree, FreeTag, h, List.all_eq_true]

theorem lowestFreeTag_some {s : State} {t : Tag} (h : lowestFreeTag s = some t) : FreeTag s t := by
  have h1 := List.mem_of_find?_eq_some h
  have h2 := List.find?_some h
  exact (tagFree_iff (mem_reservedTags.1 h1)).1 h2

theorem lowestFreeTag_none {s : State} (h : lowestFreeTag s = none) (t : Tag) : ¬ FreeTag s t := by
  intro ht
  have := List.find?_eq_none.1 h t (mem_reservedTags.2 ht.1)
  exact this ((tagFree_iff ht.1).2 ht)

/-! ### Entries -/

theorem findEntry_key {s : State} {k : Nat} {e : Entry} (h : findEntry s k = some e) : e.key = k := by
  simpa using List.find?_some h

theorem findEntry_mem {s : State} {k : Nat} {e : Entry} (h : findEntry s k = some e) :
    e ∈ s.table.entries := List.mem_of_find?_eq_some h

/-- With no entry complete, the close tests change nothing. -/
theorem closeTests_of_noneComplete {m : SteeringMap} {s : State} (hm : s.maps.live = some m)
    (h : NoneComplete m s) : closeTests s = s := by
  have step : ∀ k, testEntry k s = s := by
    intro k
    unfold testEntry
    rw [hm]
    cases he : findEntry s k with
    | none => rfl
    | some e => simp [h e (findEntry_mem he)]
  unfold closeTests
  generalize s.table.entries.map Entry.key = ks
  induction ks with
  | nil => rfl
  | cons k ks ih => rw [List.foldl_cons, step k]; exact ih

/-- With no map live, the close tests change nothing. -/
theorem closeTests_of_noMap {s : State} (hm : s.maps.live = none) : closeTests s = s := by
  have step : ∀ k, testEntry k s = s := by
    intro k
    unfold testEntry
    rw [hm]
    cases findEntry s k <;> rfl
  unfold closeTests
  generalize s.table.entries.map Entry.key = ks
  induction ks with
  | nil => rfl
  | cons k ks ih => rw [List.foldl_cons, step k]; exact ih

end Machine

end Sys2Proof
end

