-- ==== Sys2Proof/WellFormed.lean ====
section
/-! DEFINITION. Which operands a step can have on this fabric (R1). -/

namespace Sys2Proof

/-- An inlet transaction within the fields of R1. -/
def InletTxn.wf : InletTxn → Bool
  | .write a p => decide (a < top48) && decide (1 ≤ p.length) && decide (p.length ≤ Config.payloadLimit)
  | .read a n _ => decide (a < top48) && decide (1 ≤ n) && decide (n ≤ Config.payloadLimit)

/-- A completion within the fields of R1: it carries at most the bytes the longest READ asks for. -/
def Completion.wf (c : Completion) : Bool :=
  decide (c.data.length ≤ Config.payloadLimit)

/-- A step whose operands the fabric can carry. The other rows' operands have no illegal value. -/
def Instr.wf : Instr → Bool
  | .inletTransactionTaken t => t.wf
  | .readCompletion c => c.wf
  | .outletPlaceGrant => true
  | .outletTransactionLeaves => true
  | .resetDrainEnd => true
  | .tagAssigned => true
  | .encoderTransition _ _ => true
  | .strobePulseEnd => true
  | .markEdge _ => true
  | .openingOperationBegin => true
  | .pollTimerExpiry => true
  | .arm => true
  | .disarm => true
  | .abort => true
  | .hold => true
  | .resume => true
  | .loadMap => true
  | .status => true
  | .ack => true
  | .setMask => true
  | .readProfile => true
  | .saveProfile => true
  | .profileProgrammingDone => true
  | .reset => true
  | .unsupportedCommand => true
  | .jobLineEdge _ => true
  | .powerUp => true
  | .resetLineAssert => true
  | .resetLineRelease => true

end Sys2Proof
end

