-- ==== Sys2Proof/Tests/Slice0.lean ====
section
/-! SUPPORT. Small tests of the model against the manual's words and examples, and for every statement with
hypotheses a state that meets them. -/

namespace Sys2Proof.Tests

set_option Elab.async false

open Sys2Proof Sys2Proof.Machine

/-! ### Helpers -/

/-- The next state an outcome gives. -/
def after : Host.Outcome State Fault Refusal → State
  | .next t => t
  | .fault _ => State.reset
  | .refused _ => State.reset

/-- Lane 0 of the test map: columns 0 to 239, no lag. -/
def lane0 : LaneMap :=
  { place := { colStart := 0, trimL := 0, trimR := 16, fill := [0x11], stampCheck := true }, lag := 0 }

/-- Lane 1 of the test map: columns 240 to 463, a lag of 2 strobes. -/
def lane1 : LaneMap :=
  { place := { colStart := 240, trimL := 16, trimR := 16, fill := [0x05], stampCheck := true }, lag := 2 }

/-- A small map: two lanes of 256 bytes, 16 slots, a strobe at every count, TRACK with a hold of 0. -/
def map0 : SteeringMap :=
  { generation := 7, base := 0x20000000, P := 1, Lp := 256, S := 16
    lanes := ⟨some lane0, some lane1, none, none, none, none, none, none⟩
    Q := 65536, minSpacing := 10, invert := false, reverseLimit := 2, activeLow := false
    mode := .track, M := 25, N := 64, W := 3, h := 0, ringBase := 0x40000000, B := 2, Iw := 464 }

/-- A buffer of 70 rows. -/
def buffer0 : Buffer := { base := 0x100000000, stride := 1024, capacity := 70 }

/-- The open entry of the test run: it begins at row 25. -/
def entry0 : Entry :=
  { newEntry 0 25 .mark 0 map0 with state := .opened, descIndex := some 0, buffer := some buffer0 }

/-- The same entry while it is OPENING. -/
def entryOpening : Entry := newEntry 0 25 .mark 0 map0

/-- The bridge in DISARMED with the test map live. -/
def live0 : State := { State.reset with maps := { live := some map0, staged := none } }

/-- The bridge RUNNING at count 40 with one open repeat, in a search. -/
def run0 : State :=
  { live0 with
    clock := 1000
    encoder := { lastPair := some ⟨false, false⟩, position := 40, highWater := 40, reverseFlag := false }
    strobe := { phase := 0, nextStrobe := 40, issueIndex := 40, lastIssue := some 900, lineUntil := none }
    tracker :=
      { Tracker.initial with state := .search, markLevel := some false, searchStart := some 30 }
    ring :=
      { LineRing.initial with
        step := ⟨.inStep, .inStep, .off, .off, .off, .off, .off, .off⟩ }
    table := { nextKey := 1, entries := [entry0], nextSeq := 1, droppedBefore := 0 }
    acq := { State.reset.acq with state := .running } }

/-- A slot record that is OPEN for row 30 of the test entry. -/
def line0 : SlotRecord :=
  { state := .opened, fillMark := 0, row := some 30, ref := some (.entry 0), stamp := .unchecked,
    fillMade := false }

/-- The run with slot 3 of lane 0 bound by issue index 35 to row 30. -/
def bound0 : State :=
  { run0 with ring :=
      { run0.ring with bindings := [(3, 35)], slots := (Lanes.every []).set 0 [(3, line0)] } }

/-- A state whose mailbox holds a command of this code with these parameter bytes. -/
def commanded (code : Byte) (params : List Byte) (s : State) : State :=
  { s with mailbox := { s.mailbox with lastSeen := some 5, taken := some { seq := 5, code := code, params := params } } }

/-- The command such a state holds. -/
def held (code : Byte) (params : List Byte) : TakenCommand := { seq := 5, code := code, params := params }

/-- The head of the list is settled when it is no FILL job. -/
theorem settled_of {s : State} (h : (s.list.jobs.head?.all fun j => !isFill j) = true) : ListSettled s := by
  intro _ f js hj
  rw [hj] at h
  simp [isFill] at h

/-- A tag is the next one when every lower reserved tag is taken and it is free itself. -/
theorem nextTag_of {s : State} {t : Tag}
    (h : ((s.reads.all fun r => decide (r.stage ≠ .untagged)) && decide (lowestFreeTag s = some t)) = true) :
    NextTag s t := by
  rw [Bool.and_eq_true, List.all_eq_true, decide_eq_true_eq] at h
  refine ⟨fun r hr => by simpa using h.1 r hr, lowestFreeTag_some h.2, fun u hu => ?_⟩
  by_contra hlt
  have hf := lowestFreeTag_some h.2
  have h1 := hf.1
  have h2 := hu.1
  have hu' := (tagFree_iff hu.1).2 hu
  have hl := h.2
  unfold lowestFreeTag at hl
  have hlow := List.find?_eq_some_iff_append.1 hl
  obtain ⟨-, as, bs, hab, hall⟩ := hlow
  have hmem := mem_reservedTags.2 hu.1
  rw [hab] at hmem
  have hs : Config.reservedTags.Pairwise fun a b => a.toNat < b.toNat := by decide
  rw [hab, List.pairwise_append] at hs
  rcases List.mem_append.1 hmem with hm | hm
  · have := hall u hm
    simp [hu'] at this
  · rcases List.mem_cons.1 hm with rfl | hm
    · exact hlt (le_refl _)
    · have := (List.pairwise_cons.1 hs.2.1).1 u hm
      omega

/-- The test map is within the ranges of R128. -/
theorem map0_inRange : MapInRange map0 := by
  refine ⟨by decide, by decide, by decide, ⟨0, by decide⟩, ?_, by decide, by decide, by decide, by decide, by decide,
    by decide⟩
  intro l lm h
  fin_cases l <;> simp [map0, Lanes.get] at h <;> subst h <;> decide

/-! ### Well-formed operands (R1) -/

theorem test_write_at_top_refused : (InletTxn.write (2 ^ 48) [0]).wf = false := by decide
theorem test_empty_write_refused : (InletTxn.write 0 []).wf = false := by decide
theorem test_long_write_refused : (InletTxn.write 0 (List.replicate 513 0)).wf = false := by decide +kernel
theorem test_longest_write_accepted : (InletTxn.write 0 (List.replicate 512 0)).wf = true := by decide +kernel
theorem test_read_at_top_refused : (InletTxn.read (2 ^ 48) 1 0).wf = false := by decide
theorem test_empty_read_refused : (InletTxn.read 0 0 0).wf = false := by decide
theorem test_long_read_refused : (InletTxn.read 0 513 0).wf = false := by decide
theorem test_long_completion_refused :
    (Instr.readCompletion ⟨0, List.replicate 513 0, true⟩).wf = false := by decide +kernel
theorem test_ill_formed_inlet_step_refused : (Instr.inletTransactionTaken (.read 0 0 0)).wf = false := by decide
theorem test_other_rows_accepted : (Instr.encoderTransition ⟨true, true⟩ 5).wf = true := by decide
/-- No row of the table has bits. -/
theorem test_no_word_spells_a_command : decodeTableWord 8 0xFF = none := rfl

/-! ### The queue -/

/-- StepRunsFrontCommand: an empty queue, and one with a command. -/
theorem witness_StepRunsFrontCommand :
    State.reset.pending = [] ∧ step State.reset = .next State.reset ∧
      step { State.reset with pending := [.resetLineAssert, .powerUp] } =
        .next { State.reset with resetLine := true, pending := [.powerUp] } := ⟨rfl, rfl, rfl⟩

/-! ### The inline path -/

/-- ReadIsAnsweredOrForwarded: a reserved tag; the last byte of the aperture; the byte below it and the one
after its end; FAULTED. -/
theorem witness_ReadIsAnsweredOrForwarded :
    PortReady live0 ∧ 240 ≤ (240 : Tag).toNat ∧
      (live0.profile.faulted = false ∧
        ∃ m, live0.maps.live = some m ∧ ∃ b, 0x20007FFF ≤ b ∧ b < 0x20007FFF + 1 ∧ inAperture m b) ∧
      (239 : Tag).toNat < 240 ∧
      (∀ m, live0.maps.live = some m → MapInRange m ∧ ∀ b, 0x1FFFFFFF ≤ b → b < 0x1FFFFFFF + 1 → ¬inAperture m b) ∧
      (∀ m, live0.maps.live = some m → MapInRange m ∧ ∀ b, 0x20008000 ≤ b → b < 0x20008000 + 512 → ¬inAperture m b) ∧
      ({ live0.profile with faulted := true } : ProfileStore).faulted = true := by
  refine ⟨⟨rfl, by decide, rfl, rfl⟩, by decide, ⟨rfl, map0, rfl, 0x20007FFF, by decide, by decide, by decide, by decide⟩,
    by decide, ?_, ?_, rfl⟩ <;>
  · rintro m h
    obtain rfl := Option.some.inj h
    refine ⟨map0_inRange, fun b h1 h2 => ?_⟩
    simp only [inAperture, map0]
    omega

/-- R8: a READ on the last byte of the aperture is answered with ERROR and counted; one past it goes on. -/
theorem test_reads_at_the_aperture_end :
    (after (exec (.inletTransactionTaken (.read 0x20007FFF 1 5)) live0)).returned = [⟨5, [], false⟩] ∧
      (after (exec (.inletTransactionTaken (.read 0x20008000 4 5)) live0)).decode = [.read 0x20008000 4 5] := by
  decide +kernel

/-- WriteIsCutIntoPieces: a write across the aperture base, and one with no map live. -/
theorem witness_WriteIsCutIntoPieces :
    PortReady live0 ∧ ([1, 2] : List Byte) ≠ [] ∧ live0.profile.faulted = false ∧ live0.maps.live = some map0 ∧
      MapInRange map0 ∧ PortReady State.reset ∧ State.reset.maps.live = none :=
  ⟨⟨rfl, by decide, rfl, rfl⟩, by decide, rfl, rfl, map0_inRange, ⟨rfl, by decide, rfl, rfl⟩, rfl⟩

/-- R4, R5: a write over the base and over the end of slot 0 becomes three pieces. -/
theorem test_write_is_cut :
    (after (exec (.inletTransactionTaken (.write 0x1FFFFFFF (List.replicate 258 9))) live0)).decode =
      [.outside 0x1FFFFFFF [9], .aperture 0 0 0 (List.replicate 256 9), .aperture 0 1 0 [9]] := by
  decide +kernel

/-- StallsHoldTraffic: the three grounds of each clause. -/
theorem witness_StallsHoldTraffic :
    ({ live0 with decode := [.outside 0 [1]] } : State).decode ≠ [] ∧ ¬Awake { live0 with resetLine := true } ∧
      ({ live0 with mailbox := { live0.mailbox with inProgress := some .reset } } : State).mailbox.inProgress =
        some .reset ∧
      64 ≤ ({ live0 with outlet := List.replicate 64 (.write 0 [1]) } : State).outlet.length :=
  ⟨by decide, by unfold Awake; decide, rfl, by decide⟩

/-- A mailbox read on tag 240 asked for before a ring read on tag 241. -/
def reads0 : List BridgeRead :=
  [{ unit := .mailbox, addr := 0x100000, len := 4, stage := .waiting 240 },
    { unit := .ring, addr := 0x40000000, len := 64, stage := .waiting 241 }]

/-- PlaceGoesToBridgeReadsFirst: the ring's read behind another's, and another's with no read of the ring. -/
theorem witness_PlaceGoesToBridgeReadsFirst :
    PlaceFree { live0 with reads := reads0 } ∧
      (∀ x ∈ reads0.take 1, x.stage ≠ .waiting 241) ∧ (∀ x ∈ reads0.take 1, readWaits x = true → x.unit ≠ .ring) ∧
      reads0 = reads0.take 1 ++ { unit := .ring, addr := 0x40000000, len := 64, stage := .waiting 241 } :: [] ∧
      PlaceFree { live0 with reads := reads0.take 1 } ∧
      reads0.take 1 = [] ++ { unit := .mailbox, addr := 0x100000, len := 4, stage := .waiting 240 } :: [] :=
  ⟨⟨rfl, by decide, by decide⟩, by decide, by decide, rfl, ⟨rfl, by decide, by decide⟩, rfl⟩

/-- R12: the ring's read is granted before the mailbox's and before a ready response. -/
theorem test_ring_read_goes_first :
    (after (exec .outletPlaceGrant { live0 with reads := reads0 })).outlet = [.read 0x40000000 64 241] := by
  decide +kernel

/-- A run with this job at the head of the list. -/
def listed (j : Job) : State := { run0 with list := { jobs := [j], progress := 0 } }

/-- A fill of 600 bytes of row 69, the last of the test buffer. -/
def fill0 (target : FillTarget) : FillJob := { target := target, row := 69, column := 3, len := 600, value := [1, 2] }

theorem free_listed (j : Job) : PlaceFree (listed j) := ⟨rfl, Nat.succ_pos _, fun h => by cases h⟩

/-- FillJobIssuesItsWrites: an entry's job and a closed repeat's, at the last row of the capacity. -/
theorem witness_FillJobIssuesItsWrites :
    PlaceFree (listed (.fill (fill0 (.entry 0)))) ∧ NoReadWaits (listed (.fill (fill0 (.entry 0)))) ∧
      (listed (.fill (fill0 (.entry 0)))).list.jobs = .fill (fill0 (.entry 0)) :: [] ∧
      PlaceFree (listed (.fill (fill0 (.bound buffer0)))) ∧
      (listed (.fill (fill0 (.bound buffer0)))).list.jobs = .fill (fill0 (.bound buffer0)) :: [] ∧
      (fill0 (.entry 0)).row < buffer0.capacity ∧ (fill0 (.entry 0)).value ≠ [] ∧
      findEntry (listed (.fill (fill0 (.entry 0)))) 0 = some entry0 ∧ entry0.state = .opened ∧
      entry0.buffer = some buffer0 ∧ (fill0 (.bound buffer0)).target = .bound buffer0 ∧
      (listed (.fill (fill0 (.entry 0)))).list.progress * 512 < (fill0 (.entry 0)).len ∧
      1 * 512 < (fill0 (.entry 0)).len :=
  ⟨free_listed _, (by intro r h; cases h), rfl, free_listed _, rfl, by decide, by decide, by decide, rfl, rfl, rfl, by decide, by decide⟩

/-- R108: a fill of 600 bytes issues 512 and then 88, phased by the byte of the row. -/
theorem test_fill_is_cut_at_512 :
    let t := after (exec .outletPlaceGrant (listed (.fill (fill0 (.bound buffer0)))))
    t.outlet.map (fun x => match x with | .write a p => (a, p.take 2, p.length) | .read _ _ _ => (0, [], 0)) =
        [(0x100000000 + 69 * 1024 + 3, [2, 1], 512)] ∧
      t.list.progress = 1 ∧ (after (exec .outletPlaceGrant t)).list.jobs = [] := by
  decide +kernel

/-- A run with a record at the head of the list and an opening that waits on the allowance. -/
def allowing0 : State :=
  { listed (.record (recordOf entry0 .clean run0)) with
    ringUnit := { run0.ringUnit with opening := some { key := 0, phase := .allowance } } }

/-- RecordJobIssuesItsWrite: with no opening that waits, and with one whose allowance is 4 or less. -/
theorem witness_RecordJobIssuesItsWrite :
    PlaceFree (listed (.record (recordOf entry0 .clean run0))) ∧
      NoReadWaits (listed (.record (recordOf entry0 .clean run0))) ∧
      (listed (.record (recordOf entry0 .clean run0))).ringUnit.opening = none ∧ PlaceFree allowing0 ∧
      allowing0.list.jobs = .record (recordOf entry0 .clean run0) :: [] ∧ NoReadWaits allowing0 ∧
      allowing0.ringUnit.opening = some { key := 0, phase := .allowance } ∧ recordAllowance allowing0 ≤ 4 ∧
      NextTag allowing0 240 :=
  ⟨free_listed _, (by intro r h; cases h), rfl, free_listed (.record (recordOf entry0 .clean run0)), rfl,
    (by intro r h; cases h), rfl, by decide, nextTag_of (by decide +kernel)⟩

/-- R106: the return-count read is requested as the record leaves. -/
theorem test_allowance_falls :
    (after (exec .outletPlaceGrant allowing0)).reads.map (fun r => (r.addr, r.len)) = [(0x100F00, 4)] := by
  decide +kernel

/-- A response with one byte of data. -/
def response0 : Response := { seq := 5, code := 2, result := .ok, data := [3] }

theorem witness_ResponseJobIssuesItsWrites :
    PlaceFree (listed (.response response0)) ∧ NoReadWaits (listed (.response response0)) ∧
      0 * 512 < response0.data.length ∧ response0.data.length ≤ 1 * 512 ∧ response0.result = .ok :=
  ⟨free_listed _, (by intro r h; cases h), by decide, by decide, rfl⟩

/-- R169: the data goes out at 0x080 and then the eight header bytes at 0x040. -/
theorem test_response_writes :
    let t := after (exec .outletPlaceGrant (after (exec .outletPlaceGrant (listed (.response response0)))))
    t.outlet = [.write 0x100080 [3], .write 0x100040 [5, 0, 0, 0, 2, 0, 1, 0]] ∧ t.attention.causes = 0x800 := by
  decide +kernel

/-- With an empty list, fills none of which would be discarded join it. -/
theorem roomFor_of {s : State} {fills : List Job} (hj : s.list.jobs = [])
    (h : (decide (fills.length ≤ 240) &&
      fills.all fun j =>
        match j with
        | .fill f => decide (resolveFill s.table.entries f ≠ .discarded)
        | .record _ => true
        | .response _ => true) = true) : RoomFor s fills := by
  rw [Bool.and_eq_true, decide_eq_true_eq, List.all_eq_true] at h
  refine ⟨fun _ f js he => ?_, ?_, .inr fun f hf => ?_⟩
  · rw [hj] at he
    cases he
  · simpa [fillCount, hj] using h.1
  · simpa using h.2 _ hf

/-- A run whose decoder holds this piece alone. -/
def piece0 (p : Piece) (s : State) : State := { s with decode := [p] }

theorem inlet_piece0 (p : Piece) {s : State} (h : PlaceFree s) (hr : s.reads = []) (hl : s.list.jobs = [])
    (hh : s.inletHeld = []) : InletNext (piece0 p s) p [] := by
  refine ⟨h, ?_, ?_, rfl, fun _ => hh⟩
  · intro r hm
    simp only [piece0, hr] at hm
    cases hm
  · intro j js hj
    simp only [piece0, hl] at hj
    cases hj

theorem free_bound0 : PlaceFree bound0 := ⟨rfl, by decide, by decide⟩

/-- The bound run while its repeat is still OPENING. -/
def opening0 : State := { bound0 with table := { bound0.table with entries := [entryOpening] } }

/-- A run whose decoder holds this one piece while a READ and a WRITE wait at the port. -/
def crowded0 (p : Piece) (s : State) : State := { piece0 p s with inletHeld := [.read 7 4 5, .write 9 [1]] }

theorem turn_crowded0 (p : Piece) {s : State} (h : PlaceFree s) (hr : s.reads = []) (hl : s.list.jobs = []) :
    InletTurn (crowded0 p s) p [] := by
  refine ⟨h, ?_, ?_, rfl⟩
  · intro r hm
    simp only [crowded0, piece0, hr] at hm
    cases hm
  · intro j js hj
    simp only [crowded0, piece0, hl] at hj
    cases hj

/-- PassThroughEntersUnchanged: its clauses, the last two with transactions held at the port. -/
theorem witness_PassThroughEntersUnchanged :
    InletNext (piece0 (.outside 0 [1]) run0) (.outside 0 [1]) [] ∧
      InletNext (piece0 (.read 0 1 5) run0) (.read 0 1 5) [] ∧
      InletTurn (crowded0 (.aperture 0 3 0 [1]) opening0) (.aperture 0 3 0 [1]) [] ∧
      InletTurn (crowded0 (.outside 0 [1]) run0) (.outside 0 [1]) [] ∧
      (after (exec .outletPlaceGrant { crowded0 (.outside 0 [1]) run0 with inletHeld := [] })).decode = [] ∧
      (slotRecord opening0 0 3).state = .opened ∧ (slotRecord opening0 0 3).ref = some (.entry 0) ∧
      findEntry opening0 0 = some entryOpening ∧ entryOpening.state = .opening :=
  ⟨inlet_piece0 _ ⟨rfl, by decide, by decide⟩ rfl rfl rfl, inlet_piece0 _ ⟨rfl, by decide, by decide⟩ rfl rfl rfl,
    turn_crowded0 _ ⟨rfl, by decide, by decide⟩ rfl rfl, turn_crowded0 _ ⟨rfl, by decide, by decide⟩ rfl rfl,
    by decide +kernel, rfl, rfl, by decide, rfl⟩

/-- R2, R13: as the last piece is handed on the decoder takes the READ that was held, and the WRITE stays held. -/
theorem test_next_is_taken :
    let t := after (exec .outletPlaceGrant (crowded0 (.outside 0 [1]) run0))
    t.decode = [.read 7 4 5] ∧ t.inletHeld = [.write 9 [1]] := by decide +kernel

/-- The bound run with lane 0 out of step. -/
def outOfStep0 : State := { bound0 with ring := { bound0.ring with step := Lanes.every .outOfStep } }

/-- The bound run whose line has a decided stamp, for this reference, and whose entry is in this state. -/
def decided0 (ref : RowRef) (st : EntryState) : State :=
  { bound0 with
    table := { bound0.table with entries := [{ entry0 with state := st }] }
    ring :=
      { bound0.ring with slots := (Lanes.every []).set 0 [(3, { line0 with ref := some ref, stamp := .matched })] } }

/-- UnplacedPieceIsAbsorbed: a slot that is UNBOUND in a lane IN_STEP, in a lane OUT_OF_STEP, and with no map live; a
line bound to ABSORB and one of a DROPPED entry. -/
theorem witness_UnplacedPieceIsAbsorbed :
    InletNext (piece0 (.aperture 0 4 0 [1]) bound0) (.aperture 0 4 0 [1]) [] ∧
      (slotRecord bound0 0 4).state ≠ .opened ∧ bound0.ring.step.get 0 ≠ .outOfStep ∧ bound0.maps.live ≠ none ∧
      InletNext (piece0 (.aperture 0 4 0 [1]) outOfStep0) (.aperture 0 4 0 [1]) [] ∧
      (slotRecord outOfStep0 0 4).state ≠ .opened ∧ outOfStep0.ring.step.get 0 = .outOfStep ∧
      outOfStep0.maps.live ≠ none ∧
      InletNext (piece0 (.aperture 0 4 0 [1]) State.reset) (.aperture 0 4 0 [1]) [] ∧
      State.reset.maps.live = none ∧
      (∀ ref st, InletNext (piece0 (.aperture 0 3 9 [1]) (decided0 ref st)) (.aperture 0 3 9 [1]) [] ∧
        (slotRecord (decided0 ref st) 0 3).state = .opened ∧ (slotRecord (decided0 ref st) 0 3).ref = some ref ∧
        (slotRecord (decided0 ref st) 0 3).stamp ≠ .unchecked ∧ (decided0 ref st).ring.step.get 0 = .inStep ∧
        (decided0 ref st).maps.live = some map0) ∧
      NoneComplete map0 (decided0 .absorb .opened) ∧ NoneComplete map0 (decided0 (.entry 0) .dropped) ∧
      findEntry (decided0 (.entry 0) .dropped) 0 = some { entry0 with state := .dropped } ∧ entry0.endRow = none :=
  ⟨inlet_piece0 _ free_bound0 rfl rfl rfl, by decide, by decide, by decide,
    inlet_piece0 _ ⟨rfl, by decide, by decide⟩ rfl rfl rfl, by decide, rfl, by decide,
    inlet_piece0 _ ⟨rfl, by decide, by decide⟩ rfl rfl rfl, rfl,
    fun _ _ => ⟨inlet_piece0 _ ⟨rfl, free_bound0.2.1, free_bound0.2.2⟩ rfl rfl rfl, rfl, rfl,
      (fun h => StampState.noConfusion h), rfl, rfl⟩,
    by unfold NoneComplete; decide, by unfold NoneComplete; decide, by decide, rfl⟩

/-- R59, R60: a DROPPED entry's piece over a gap of 9 bytes is absorbed, and the gap is counted but not filled. -/
theorem test_dropped_piece :
    let t := after (exec .outletPlaceGrant (piece0 (.aperture 0 3 9 [1]) (decided0 (.entry 0) .dropped)))
    t.counters.absorbedWrites = 1 ∧ t.list.jobs = [] ∧ t.table.entries.map (fun e => (e.counts.get 0).gap) = [9] := by
  decide +kernel

/-- The bound run in DRAINING with its line at row 95, the first beyond the capacity. -/
def beyond0 : State :=
  piece0 (.aperture 0 3 0 [9])
    { bound0 with
      acq := { bound0.acq with state := .draining }
      ring := { bound0.ring with slots := (Lanes.every []).set 0 [(3, { line0 with row := some 95 })] } }

/-- KeptRunIsPlaced: row 30 of the repeat that begins at row 25, a whole line of lane 0;
and the row at the capacity, in DRAINING. -/
theorem witness_KeptRunIsPlaced :
    InletNext (piece0 (.aperture 0 3 0 (List.replicate 256 9)) bound0) (.aperture 0 3 0 (List.replicate 256 9)) [] ∧
      bound0.acq.state ≠ .draining ∧ bound0.maps.live = some map0 ∧ bound0.ring.step.get 0 = .inStep ∧
      (slotRecord bound0 0 3).state = .opened ∧ (slotRecord bound0 0 3).ref = some (.entry 0) ∧
      (slotRecord bound0 0 3).row = some (entry0.firstRow + 5) ∧ findEntry bound0 0 = some entry0 ∧
      entry0.state = .opened ∧ entry0.buffer = some buffer0 ∧ entry0.placement.get 0 = some lane0.place ∧
      InletNext beyond0 (.aperture 0 3 0 [9]) [] ∧ beyond0.acq.state = .draining ∧
      (slotRecord beyond0 0 3).row = some (entry0.firstRow + 70) ∧ ¬70 < buffer0.capacity ∧
      (slotRecord (decided0 (.entry 0) .opened) 0 3).stamp ≠ .unchecked ∧ entry0.endRow = none :=
  ⟨inlet_piece0 _ free_bound0 rfl rfl rfl, by decide, rfl, rfl, rfl, rfl, rfl, by decide, rfl, rfl, rfl,
    inlet_piece0 _ ⟨rfl, by decide, by decide⟩ rfl rfl rfl, rfl, rfl, by decide, by decide, rfl⟩

/-- R72 to R74: bytes 0 to 239 of the line are written at row 5 of the buffer, and the line retires. -/
theorem test_whole_line_is_placed :
    let t := after (exec .outletPlaceGrant (piece0 (.aperture 0 3 0 (List.replicate 256 9)) bound0))
    t.outlet = [.write (0x100000000 + 5 * 1024) (List.replicate 240 9)] ∧
      (slotRecord t 0 3).state = .retired := by
  decide +kernel

/-- The bound run with bytes 4 to 99 of its line passed over, these jobs on the list and a second repeat OPENING. -/
def gapWith (jobs : List Job) : State :=
  piece0 (.aperture 0 3 100 [7]) { bound0 with
    list := { jobs := jobs, progress := 0 }
    table := { bound0.table with nextKey := 2, entries := [entry0, { entryOpening with key := 1, firstRow := 89 }] }
    ring :=
      { bound0.ring with slots := (Lanes.every []).set 0 [(3, { line0 with fillMark := 4, stamp := .skipped })] } }

/-- A fill job that waits for the second repeat. -/
def waiting0 : Job := .fill { fill0 (.entry 9) with target := .entry 1 }

theorem gap_meets (n : Nat) :
    InletNext (gapWith (List.replicate n waiting0)) (.aperture 0 3 100 [7]) [] ∧
      ListSettled (gapWith (List.replicate n waiting0)) := by
  have hh : ∀ b, resolveFill (gapWith (List.replicate n waiting0)).table.entries { fill0 (.entry 9) with target := .entry 1 }
      ≠ .ready b ∧ resolveFill (gapWith (List.replicate n waiting0)).table.entries
        { fill0 (.entry 9) with target := .entry 1 } ≠ .discarded := by
    intro b
    simp [gapWith, piece0, resolveFill, entry0, entryOpening, newEntry]
  refine ⟨⟨⟨rfl, free_bound0.2.1, free_bound0.2.2⟩, (by intro r h; cases h), ?_, rfl, fun _ => rfl⟩, ?_⟩
  · intro j js h
    cases n with
    | zero => cases h
    | succ n =>
      obtain ⟨rfl, -⟩ := List.cons.inj h
      exact ⟨_, rfl, fun b => (hh b).1⟩
  · intro _ f js h
    cases n with
    | zero => cases h
    | succ n =>
      obtain ⟨hf, -⟩ := List.cons.inj h
      obtain rfl := Job.fill.inj hf
      exact (hh buffer0).2

/-- GapIsFilled: with one FILL job on the list, with an empty list and a row below the capacity, and with 240. -/
theorem witness_GapIsFilled :
    (∀ n ∈ [0, 1, 240],
      InletNext (gapWith (List.replicate n waiting0)) (.aperture 0 3 100 [7]) [] ∧
        ListSettled (gapWith (List.replicate n waiting0)) ∧
        (slotRecord (gapWith (List.replicate n waiting0)) 0 3).row = some (entry0.firstRow + 5) ∧
        NoneComplete map0 (gapWith (List.replicate n waiting0))) ∧
      (gapWith [waiting0]).list.jobs ≠ [] ∧ entry0.buffer = some buffer0 ∧ 5 < buffer0.capacity ∧
      fillCount (gapWith [waiting0]) < 240 ∧ 240 ≤ fillCount (gapWith (List.replicate 240 waiting0)) ∧
      (gapWith []).maps.live = some map0 ∧ (gapWith []).ring.step.get 0 = .inStep ∧
      (slotRecord (gapWith []) 0 3).state = .opened ∧ (slotRecord (gapWith []) 0 3).stamp ≠ .unchecked ∧
      (slotRecord (gapWith []) 0 3).ref = some (.entry 0) ∧ findEntry (gapWith []) 0 = some entry0 ∧
      entry0.placement.get 0 = some lane0.place ∧ max (slotRecord (gapWith []) 0 3).fillMark (100 + 1) < 256 ∧
      max (slotRecord (gapWith []) 0 3).fillMark (0 * 1) < min 100 (256 * 1 - 16 * 1) :=
  ⟨fun n _ => ⟨(gap_meets n).1, (gap_meets n).2, rfl,
      (by change ∀ e ∈ [entry0, { entryOpening with key := 1, firstRow := 89 }], allRetired map0 e = false; decide)⟩,
    by decide, rfl, by decide, by decide, by decide +kernel, rfl, rfl, rfl, by decide, rfl, by decide, rfl, by decide,
    by decide⟩

/-- R104, R105: the gap is queued as one job of 96 bytes; with 240 jobs on the list it is lost and counted. -/
theorem test_gap :
    (after (exec .outletPlaceGrant (gapWith [waiting0]))).list.jobs.map (fun j =>
        match j with | .fill f => (f.row, f.column, f.len) | .record _ => (0, 0, 0) | .response _ => (0, 0, 0)) =
        [(69, 3, 600), (5, 4, 96)] ∧
      (after (exec .outletPlaceGrant (gapWith (List.replicate 240 waiting0)))).counters.fillsLost = 1 := by
  decide +kernel

/-- A piece whose first two bytes are the low half of issue index 35, and one whose bytes are not. -/
def stamp0 (bytes : List Byte) (mismatches : Nat) : State :=
  piece0 (.aperture 0 3 0 bytes)
    { bound0 with ring := { bound0.ring with mismatches := (Lanes.every 0).set 0 mismatches } }

/-- StampIsChecked: a match, a first mismatch and a third in a row; a piece at offset 9, one of one byte and one with the
check disabled; a line bound to ABSORB. -/
theorem witness_StampIsChecked :
    (∀ bytes n, InletNext (stamp0 bytes n) (.aperture 0 3 0 bytes) []) ∧
      (∀ n ∈ [0, 2], ∀ bytes ∈ ([[35, 0], [36, 0], [35]] : List (List Byte)),
        (stamp0 bytes n).acq.state ≠ .draining ∧ (stamp0 bytes n).maps.live = some map0 ∧
          (stamp0 bytes n).ring.step.get 0 = .inStep ∧ slotRecord (stamp0 bytes n) 0 3 = line0 ∧
          findEntry (stamp0 bytes n) 0 = some entry0 ∧ slotFind 3 (stamp0 bytes n).ring.bindings = some 35) ∧
      line0.stamp = .unchecked ∧ line0.ref = some (.entry 0) ∧ line0.state = .opened ∧ entry0.state ≠ .opening ∧
      entry0.placement.get 0 = some lane0.place ∧ lane0.place.stampCheck = true ∧ entry0.endRow = none ∧
      2 ≤ ([35, 0] : List Byte).length ∧ ([35] : List Byte).length < 2 ∧ (9 : Nat) ≠ 0 ∧
      InletNext (piece0 (.aperture 0 3 9 [1]) bound0) (.aperture 0 3 9 [1]) [] ∧
      lanePlacement map0 0 = some lane0.place ∧ ({ lane0.place with stampCheck := false }).stampCheck = false :=
  ⟨fun _ _ => inlet_piece0 _ ⟨rfl, free_bound0.2.1, free_bound0.2.2⟩ rfl rfl rfl, by decide +kernel, rfl, rfl, rfl,
    by decide, rfl, rfl, rfl, by decide, by decide, by decide, inlet_piece0 _ free_bound0 rfl rfl rfl, rfl, rfl⟩

/-- The third mismatch with a second line of the lane OPEN, its first 40 bytes accounted for. -/
def stampTwo : State :=
  { stamp0 [36, 0] 2 with
    choices := [0]
    ring :=
      { (stamp0 [36, 0] 2).ring with
        slots := (Lanes.every []).set 0 [(3, line0), (4, { line0 with row := some 31, fillMark := 40, stamp := .matched })] } }

/-- StampIsChecked, the third mismatch: two lines are given up, and each has a fill. -/
theorem witness_LinesGivenUpOutOfStep :
    InletNext stampTwo (.aperture 0 3 0 [36, 0]) [] ∧ stampTwo.acq.state ≠ .draining ∧
      2 ≤ stampTwo.ring.mismatches.get 0 ∧ leNat ([36, 0].take 2) ≠ (35 : BitVec 48).toNat % 65536 ∧
      RingOrdered stampTwo ∧ (stampTwo.table.entries.map Entry.key).Nodup ∧
      (linesOf stampTwo 0 3 2).length = 2 ∧
      RoomFor stampTwo ((linesOf stampTwo 0 3 2).flatMap (leftFill map0 stampTwo 0)) ∧
      ((linesOf stampTwo 0 3 2).flatMap (leftFill map0 stampTwo 0)).length = 2 ∧
      (after (exec .outletPlaceGrant stampTwo)).table.entries.length = stampTwo.table.entries.length := by
  refine ⟨⟨⟨rfl, free_bound0.2.1, free_bound0.2.2⟩, ?_, ?_, rfl, fun _ => rfl⟩, by decide, by decide, by decide, ?_,
    by decide, by decide, roomFor_of rfl (by decide +kernel), by decide +kernel, by decide +kernel⟩
  · intro r h; cases h
  · intro j js h; cases h
  · unfold RingOrdered slotsRise; decide

/-- R65: the third mismatch in a row puts the lane OUT_OF_STEP with its lines retired and filled, none of them short; a
match sets the count to 0. -/
theorem test_stamps :
    let t := after (exec .outletPlaceGrant stampTwo)
    (t.ring.step.get 0 = .outOfStep ∧ t.attention.causes = 4 ∧
      t.table.entries.map (fun e => e.counts.get 0) = [⟨2, 2, 0, 0, 0, 1⟩]) ∧
      (after (exec .outletPlaceGrant (stamp0 [35, 0] 2))).ring.mismatches.get 0 = 0 := by
  decide +kernel

/-- The last entry of a run that ends: rows 25 to 30, five of lane 0 and all six of lane 1 retired. -/
def entryEnded : Entry :=
  { entry0 with
    endRow := some 31
    endKind := some (.decided .mark)
    counts :=
      ((Lanes.every ⟨0, 0, 0, 0, 0, 0⟩).set 0 ⟨5, 0, 0, 0, 0, 0⟩).set 1 ⟨6, 1, 0, 0, 0, 0⟩ }

/-- A second repeat, OPENING behind it. -/
def later0 : Entry := { entryOpening with key := 1, firstRow := 89 }

/-- A run in this state, with bytes 100 to 255 of row 30 of lane 0 in decode, these jobs on the list, and the entry in
this state before others in the table. -/
def closing0 (a : AcqState) (st : EntryState) (ys : List Entry) (jobs : List Job) : State :=
  piece0 (.aperture 0 3 100 (List.replicate 156 9)) { bound0 with
    acq := { bound0.acq with state := a }
    list := { jobs := jobs, progress := 0 }
    table := { bound0.table with nextKey := 2, entries := { entryEnded with state := st } :: ys, droppedBefore := 2 }
    ring :=
      { bound0.ring with slots := (Lanes.every []).set 0 [(3, { line0 with fillMark := 100, stamp := .matched })] } }

/-- A fill that waits for the second repeat, and one of the entry behind it. -/
def closingJobs : List Job := [waiting0, .fill (fill0 (.entry 0))]

theorem closing_meets (a : AcqState) (st : EntryState) :
    (InletNext (closing0 a st [later0] closingJobs) (.aperture 0 3 100 (List.replicate 156 9)) [] ∧
        ListSettled (closing0 a st [later0] closingJobs)) ∧
      InletNext (closing0 a st [] []) (.aperture 0 3 100 (List.replicate 156 9)) [] ∧ ListSettled (closing0 a st [] []) := by
  have hh : ∀ b, resolveFill (closing0 a st [later0] closingJobs).table.entries
        { fill0 (.entry 9) with target := .entry 1 } ≠ .ready b ∧
      resolveFill (closing0 a st [later0] closingJobs).table.entries { fill0 (.entry 9) with target := .entry 1 } ≠
        .discarded := by
    intro b
    simp [closing0, piece0, resolveFill, entryEnded, entry0, entryOpening, newEntry, later0]
  refine ⟨⟨⟨⟨rfl, free_bound0.2.1, free_bound0.2.2⟩, (by intro r h; cases h), ?_, rfl, fun _ => rfl⟩, ?_⟩,
    inlet_piece0 _ ⟨rfl, free_bound0.2.1, free_bound0.2.2⟩ rfl rfl rfl, fun _ f js h => by cases h⟩
  · intro j js h
    obtain ⟨rfl, -⟩ := List.cons.inj h
    exact ⟨_, rfl, fun b => (hh b).1⟩
  · intro _ f js h
    obtain ⟨hf, -⟩ := List.cons.inj h
    obtain rfl := Job.fill.inj hf
    exact (hh buffer0).2

/-- RepeatClosesWithItsRecord: an OPEN and a DROPPED entry, with a second repeat whose fill waits at the head before one of
the entry's, and alone in the table; in RUNNING and in DRAINING. -/
theorem witness_RepeatClosesWithItsRecord :
    (∀ a st, (InletNext (closing0 a st [later0] closingJobs) (.aperture 0 3 100 (List.replicate 156 9)) [] ∧
        ListSettled (closing0 a st [later0] closingJobs)) ∧
      InletNext (closing0 a st [] []) (.aperture 0 3 100 (List.replicate 156 9)) [] ∧
      ListSettled (closing0 a st [] [])) ∧
      (∀ a st ys js, (closing0 a st ys js).acq.state = a ∧ (closing0 a st ys js).list.progress = 0 ∧
        (closing0 a st ys js).table.entries = [] ++ { entryEnded with state := st } :: ys ∧
        (closing0 a st ys js).maps.live = some map0 ∧ (closing0 a st ys js).ring.step.get 0 = .inStep ∧
        slotRecord (closing0 a st ys js) 0 3 = { line0 with fillMark := 100, stamp := .matched }) ∧
      (map0.lanes.get 0).isSome ∧ line0.ref = some (.entry entryEnded.key) ∧
      (∀ y ∈ [] ++ [later0], y.key ≠ entryEnded.key ∧ allRetired map0 y = false) ∧
      entryEnded.state = .opened ∧ entryEnded.buffer.isSome ∧ entryEnded.endRow = some 31 ∧
      31 - entryEnded.firstRow < 2 ^ 32 ∧ map0.Lp * map0.P ≤ 100 + (List.replicate 156 (9 : Byte)).length ∧
      (∀ l', (map0.lanes.get l').isSome →
        (entryEnded.counts.get l').retired.toNat + (if l' = 0 then 1 else 0) = 31 - entryEnded.firstRow) :=
  ⟨closing_meets, fun _ _ _ _ => ⟨rfl, rfl, rfl, rfl, rfl, rfl⟩, by decide, rfl, by decide, rfl, rfl, rfl, by decide,
    by decide +kernel, by decide⟩

/-- R94 to R96: the OPEN repeat leaves with its fill bound and its record last; a DROPPED one with neither. -/
theorem test_repeat_closes :
    (after (exec .outletPlaceGrant (closing0 .running .opened [later0] closingJobs))).list.jobs.map
        (fun j => match j with | .fill f => (some f.target, 0) | .record r => (none, r.rowCount) | .response _ => (none, 0)) =
        [(some (.entry 1), 0), (some (.bound buffer0), 0), (none, 6)] ∧
      (after (exec .outletPlaceGrant (closing0 .running .dropped [later0] closingJobs))).list.jobs = [waiting0] ∧
      (after (exec .outletPlaceGrant (closing0 .draining .opened [] []))).acq.state = .disarmed := by
  decide +kernel

/-- TrafficPassesTheOutletPort: a write, and a bridge read; the last grabber tag, and the first reserved one with no
read. -/
theorem witness_TrafficPassesTheOutletPort :
    Awake live0 ∧ ({ live0 with outlet := [.write 0 [1]] } : State).outlet = .write 0 [1] :: [] ∧
      ({ live0 with outlet := [.read 0 4 240] } : State).outlet = .read 0 4 240 :: [] ∧
      ([{ unit := .ring, addr := 0, len := 4, stage := .queued 240 }] : List BridgeRead) =
        [] ++ { unit := .ring, addr := 0, len := 4, stage := .queued 240 } :: [] ∧
      (239 : Tag).toNat < 240 ∧ 240 ≤ (240 : Tag).toNat ∧ ∀ r ∈ live0.reads, stageTag r.stage ≠ some 240 :=
  ⟨rfl, rfl, rfl, rfl, by decide, by decide, (by intro r h; cases h)⟩

/-- R16: a tag held back over a reset is freed by its late completion. -/
theorem test_held_tag_is_freed :
    (after (exec (.readCompletion ⟨240, [], true⟩) { live0 with heldTags := [240, 241] })).heldTags = [241] := by
  decide +kernel

/-- A request without a tag. -/
def untagged0 : BridgeRead := { unit := .mailbox, addr := 0x100000, len := 4, stage := .untagged }

/-- LowestFreeTagIsGiven: tag 240 is held back, so 241 is next; and all sixteen are held back. -/
theorem witness_LowestFreeTagIsGiven :
    (FreeTag { live0 with reads := [untagged0], heldTags := [240] } 241 ∧
        ∀ u, FreeTag { live0 with reads := [untagged0], heldTags := [240] } u → 241 ≤ u.toNat) ∧
      ∀ t, ¬FreeTag { live0 with reads := [untagged0], heldTags := Config.reservedTags } t := by
  refine ⟨⟨⟨by decide, by decide, by decide⟩, fun u hu => ?_⟩, fun t ht => ht.2.1 (mem_reservedTags.2 ht.1)⟩
  have h1 := hu.1
  have h2 := hu.2.1
  by_contra hlt
  have : u = 240 := by
    apply BitVec.eq_of_toNat_eq
    change u.toNat = 240
    omega
  subst this
  exact h2 (by decide)

/-! ### The web -/

/-- The pair after one forward transition from 00. -/
def ahead : PhasePair := ⟨true, false⟩

/-- The pair after one reverse transition from 00. -/
def behind : PhasePair := ⟨false, true⟩

theorem ahead_counts {s : State} (h : s.encoder.lastPair = some ⟨false, false⟩)
    (hi : s.maps.live.any SteeringMap.invert = false) : CountOf s ahead true :=
  ⟨_, h, by rw [hi]; decide⟩

theorem behind_counts {s : State} (h : s.encoder.lastPair = some ⟨false, false⟩)
    (hi : s.maps.live.any SteeringMap.invert = false) : CountOf s behind false :=
  ⟨_, h, by rw [hi]; decide⟩

/-- DISARMED with a phase pair observed. -/
def pair0 : State := { live0 with encoder := { Encoder.initial with lastPair := some ⟨false, false⟩ } }

/-- TransitionsAreCounted: both counts, an unchanged pair, the first observation and both phases at once. -/
theorem witness_TransitionsAreCounted :
    Awake pair0 ∧ pair0.acq.state = .disarmed ∧ CountOf pair0 ahead true ∧ CountOf pair0 behind false ∧
      live0.encoder.lastPair = none ∧ pair0.encoder.lastPair = some ⟨false, false⟩ ∧
      (⟨true, true⟩ : PhasePair).a ≠ (⟨false, false⟩ : PhasePair).a :=
  ⟨rfl, rfl, ahead_counts rfl rfl, behind_counts rfl rfl, rfl, rfl, by decide⟩

/-- R20: a reverse count from 0 leaves the position at 2^48 − 1. -/
theorem test_position_wraps :
    (after (exec (.encoderTransition behind 7) pair0)).encoder.position = BitVec.allOnes 48 := by decide +kernel

/-- The run moved so many counts back. -/
def back0 (depth : BitVec 48) : State :=
  { run0 with encoder := { run0.encoder with position := run0.encoder.highWater - depth } }

/-- ReverseTravelMovesNoStrobe: a forward count 1 count behind, a reverse count that reaches the limit, one
below it, and one at the greatest depth. -/
theorem witness_ReverseTravelMovesNoStrobe :
    Awake (back0 1) ∧ (back0 1).acq.state ≠ .disarmed ∧ (back0 1).maps.live = some map0 ∧
      CountOf (back0 1) ahead true ∧ (back0 1).encoder.highWater ≠ (back0 1).encoder.position ∧
      CountOf (back0 1) behind false ∧
      ((back0 1).encoder.highWater - (back0 1).encoder.position).toNat + 1 = map0.reverseLimit ∧
      ((back0 2).encoder.highWater - (back0 2).encoder.position).toNat < 2 ^ 48 - 1 ∧
      ((back0 (BitVec.allOnes 48)).encoder.highWater - (back0 (BitVec.allOnes 48)).encoder.position).toNat = 2 ^ 48 - 1 :=
  ⟨rfl, by decide, rfl, ahead_counts rfl rfl, by decide, behind_counts rfl rfl, by decide, by decide, by decide⟩

/-- R22: WEB_REVERSE is raised when the depth becomes the limit of 2. -/
theorem test_web_reverse :
    (after (exec (.encoderTransition behind 7) (back0 1))).attention.causes = 0x20 := by decide +kernel

theorem ground_run0 : AtNewGround run0 map0 := ⟨rfl, by decide, rfl, rfl, by decide⟩

theorem noConfirm_run0 : NoConfirm run0 := by intro q h; cases h

/-- A map with so many 65,536ths of a count between strobes. -/
def slow0 (Q : Nat) : State := { run0 with maps := { live := some { map0 with Q := Q }, staged := none } }

/-- A qualification that ends at the next count. -/
def ending0 : Qualification := { edge := 38, confirm := 41 }

/-- PhaseStepWithoutStrobe: φ becomes Q − 1; a qualification ends at that count with the input deasserted. -/
theorem witness_PhaseStepWithoutStrobe :
    AtNewGround (slow0 65537) { map0 with Q := 65537 } ∧ CountOf (slow0 65537) ahead true ∧
      NoConfirm (slow0 65537) ∧ (slow0 65537).strobe.phase + 65536 < 65537 ∧
      ending0.confirm = (slow0 65537).encoder.highWater.toNat + 1 ∧ (slow0 65537).tracker.markLevel = some false ∧
      (false = true ↔ map0.activeLow = true) :=
  ⟨⟨rfl, by decide, rfl, rfl, by decide⟩, ahead_counts rfl rfl, noConfirm_run0, by decide, by decide, rfl, by decide⟩

/-- R36: the mark that was deasserted at its confirm point is rejected. -/
theorem test_mark_rejected :
    let s := slow0 65537
    let t := after (exec (.encoderTransition ahead 7) { s with tracker := { s.tracker with qualification := some ending0 } })
    t.tracker.qualification = none ∧ t.counters.rejectedMarks = 1 := by decide +kernel

/-- The run with its last strobe issued at this time. -/
def issued0 (t : Nat) : State := { run0 with strobe := { run0.strobe with lastIssue := some t } }

/-- The run while it drains. -/
def draining0 : State := { run0 with acq := { run0.acq with state := .draining } }

/-- StrobeFallsDue: 10 periods after the last issue the strobe passes, 9 after it is skipped; and in
DRAINING with a repeat in the table. -/
theorem witness_StrobeFallsDue :
    AtNewGround (issued0 995) map0 ∧ CountOf (issued0 995) ahead true ∧
      ((issued0 995).acq.state = .draining → (issued0 995).table.entries ≠ []) ∧
      AtNewGround draining0 map0 ∧ draining0.acq.state = .draining ∧ draining0.table.entries ≠ [] ∧
      map0.Q ≤ (issued0 995).strobe.phase + 65536 ∧ SpacingPasses map0 (issued0 995) (1000 + 5) ∧
      ¬SpacingPasses map0 (issued0 995) (1000 + 4) := by
  refine ⟨⟨rfl, by decide, rfl, rfl, by decide⟩, ahead_counts rfl rfl, by decide,
    ⟨rfl, by decide, rfl, rfl, by decide⟩, rfl, by decide, by decide, Or.inr (Or.inr ⟨995, rfl, by decide⟩), ?_⟩
  rintro (h | h | ⟨t, ht, hle⟩)
  · cases h
  · revert h; decide
  · obtain rfl := Option.some.inj ht
    revert hle; decide

theorem nothing_run0 : NothingWatched run0 map0 (run0.strobe.nextStrobe + 1).toNat := by
  refine ⟨fun _ => Or.inr fun t h => ?_, fun h => ?_⟩
  · obtain rfl := Option.some.inj h
    decide
  · rcases h with h | h <;> cases h

/-- The run at strobe 1, before lane 1 has passed its lag of 2. -/
def early0 : State :=
  { run0 with
    strobe := { run0.strobe with nextStrobe := 1, issueIndex := 1 }
    tracker := { run0.tracker with searchStart := some 0 } }

/-- IssuedStrobeBindsSlots: a strobe at or above each lane's lag, and one below that of lane 1. -/
theorem witness_IssuedStrobeBindsSlots :
    AtNewGround run0 map0 ∧ SpacingPasses map0 run0 (1000 + 1) ∧ NoConfirm run0 ∧
      NothingWatched run0 map0 (run0.strobe.nextStrobe + 1).toNat ∧ map0.lanes.get 1 = some lane1 ∧
      run0.ring.step.get 1 = .inStep ∧ lane1.lag ≤ run0.strobe.nextStrobe.toNat ∧ run0.ring.step.get 2 = .off ∧
      AtNewGround early0 map0 ∧ early0.strobe.nextStrobe.toNat < lane1.lag :=
  ⟨ground_run0, Or.inr (Or.inr ⟨900, rfl, by decide⟩), noConfirm_run0, nothing_run0, rfl, rfl, by decide, rfl,
    ⟨rfl, by decide, rfl, rfl, by decide⟩, by decide⟩

/-- R52, R55: strobe 40 binds slot 8 of lane 0 to row 40 and of lane 1 to row 38, both of the open repeat. -/
theorem test_strobe_binds :
    let t := after (exec (.encoderTransition ahead 7) run0)
    (slotRecord t 0 8).row = some 40 ∧ (slotRecord t 1 8).row = some 38 ∧
      (slotRecord t 1 8).ref = some (.entry 0) ∧ t.strobe.issueIndex = 41 := by decide +kernel

/-- The run with an OPEN line in slot 8, or with lane 0 out of step and that slot UNBOUND. -/
def rebind0 (step : StepState) (slots : List (Nat × SlotRecord)) : State :=
  { run0 with ring := { run0.ring with
      step := (run0.ring.step).set 0 step
      slots := (Lanes.every []).set 0 slots } }

/-- RebindingGivesLinesUp: strobe 40 takes slot 8 with a line of the entry OPEN in it; and lane 0 OUT_OF_STEP. -/
theorem witness_RebindingGivesLinesUp :
    (∀ step slots, AtNewGround (rebind0 step slots) map0 ∧ CountOf (rebind0 step slots) ahead true ∧
      map0.Q ≤ (rebind0 step slots).strobe.phase + 65536 ∧ SpacingPasses map0 (rebind0 step slots) (1000 + 1) ∧
      NoConfirm (rebind0 step slots) ∧
      NothingWatched (rebind0 step slots) map0 ((rebind0 step slots).strobe.nextStrobe + 1).toNat ∧
      8 = (rebind0 step slots).strobe.issueIndex.toNat % map0.S) ∧
      map0.lanes.get 0 = some lane0 ∧ (rebind0 .inStep [(8, line0)]).ring.step.get 0 = .inStep ∧
      slotRecord (rebind0 .inStep [(8, line0)]) 0 8 = line0 ∧ line0.ref = some (.entry 0) ∧
      findEntry (rebind0 .inStep [(8, line0)]) 0 = some entry0 ∧ entry0.placement.get 0 = some lane0.place ∧
      (findEntry (after (exec (.encoderTransition ahead 1) (rebind0 .inStep [(8, line0)]))) 0).isSome ∧
      (rebind0 .outOfStep []).ring.step.get 0 = .outOfStep ∧
      (slotRecord (rebind0 .outOfStep []) 0 8).state ≠ .opened ∧
      lookupRow (rebind0 .outOfStep []) (40 - lane0.lag) = some entry0 ∧
      (findEntry (after (exec (.encoderTransition ahead 1) (rebind0 .outOfStep []))) 0).isSome ∧
      RoomFor (rebind0 .outOfStep [(8, line0)])
        (allLanes.flatMap (bindingFills map0 (rebind0 .outOfStep [(8, line0)]) 8 40)) ∧
      (allLanes.flatMap (bindingFills map0 (rebind0 .outOfStep [(8, line0)]) 8 40)).length = 2 ∧
      ((rebind0 .outOfStep [(8, line0)]).table.entries.map Entry.key).Nodup ∧
      (after (exec (.encoderTransition ahead 1) (rebind0 .outOfStep [(8, line0)]))).table.entries.length = 1 :=
  ⟨fun _ _ => ⟨⟨rfl, ground_run0.2.1, rfl, rfl, ground_run0.2.2.2.2⟩, ahead_counts rfl rfl,
      (by decide : map0.Q ≤ run0.strobe.phase + 65536), Or.inr (Or.inr ⟨900, rfl, by decide⟩), noConfirm_run0, nothing_run0,
      (by decide : 8 = run0.strobe.issueIndex.toNat % map0.S)⟩, rfl, rfl, rfl, rfl, by decide, rfl,
    by decide +kernel, rfl, by decide, by decide, by decide +kernel,
    roomFor_of rfl (by decide +kernel), by decide +kernel, by decide, by decide +kernel⟩

/-- R62: the line given up is a short line whose kept bytes are filled. -/
theorem test_line_given_up :
    (after (exec (.encoderTransition ahead 1) (rebind0 .inStep [(8, line0)]))).table.entries.map
        (fun e => ((e.counts.get 0).retired, (e.counts.get 0).filled, (e.counts.get 0).shortLines)) = [(1, 1, 1)] := by
  decide +kernel

/-- The run with its last strobe issued now and a choice at hand for the order of the fills. -/
def skipping0 : State := { issued0 1000 with choices := [0] }

/-- R62: that fill is of the row and the bytes not accounted for. -/
theorem test_given_up_fill :
    (after (exec (.encoderTransition ahead 1) (rebind0 .inStep [(8, { line0 with fillMark := 200 })]))).list.jobs =
      [.fill { target := .entry 0, row := 5, column := 200, len := 40, value := [0x11] }] := by decide +kernel

/-- SkippedRowsRetire: a strobe 4 periods after the last, with one entry that has no end row. -/
theorem witness_SkippedRowsRetire :
    AtNewGround skipping0 map0 ∧ CountOf skipping0 ahead true ∧
      ¬SpacingPasses map0 skipping0 (1000 + 4) ∧ NoConfirm skipping0 ∧
      NothingWatched skipping0 map0 (skipping0.strobe.nextStrobe + 1).toNat ∧
      skipping0.table.entries = [entry0] ∧ entry0.endRow = none ∧
      (skipping0.table.entries.map Entry.key).Nodup ∧ entry0.overspeed.toNat + 8 < 2 ^ 32 ∧
      RoomFor skipping0 (allLanes.flatMap (skippedFills map0 skipping0 40)) ∧
      (allLanes.flatMap (skippedFills map0 skipping0 40)).length = 2 ∧
      (after (exec (.encoderTransition ahead 4) skipping0)).table.entries.length = 1 := by
  refine ⟨⟨rfl, by decide, rfl, rfl, by decide⟩, ahead_counts rfl rfl, ?_, noConfirm_run0, nothing_run0, rfl, rfl,
    by decide, by decide, roomFor_of rfl (by decide +kernel), by decide +kernel, by decide +kernel⟩
  rintro (h | h | ⟨t, ht, hle⟩)
  · cases h
  · revert h; decide
  · obtain rfl := Option.some.inj ht
    revert hle; decide

/-- The run at the counter limit. -/
def limit0 : State :=
  { run0 with encoder :=
      { run0.encoder with position := BitVec.allOnes 48, highWater := BitVec.allOnes 48 } }

/-- CounterLimitAborts. -/
theorem witness_CounterLimitAborts :
    Awake limit0 ∧ limit0.acq.state ≠ .disarmed ∧ limit0.maps.live = some map0 ∧ CountOf limit0 ahead true ∧
      limit0.encoder.position = limit0.encoder.highWater ∧ limit0.encoder.highWater.toNat = 2 ^ 48 - 1 :=
  ⟨rfl, by decide, rfl, ahead_counts rfl rfl, rfl, by decide⟩

/-- StrobePulseEnds, and R29: a pulse lasts 100 periods. -/
theorem witness_StrobePulseEnds :
    Awake { run0 with strobe := { run0.strobe with lineUntil := some 1100 } } ∧
      (after (exec (.encoderTransition ahead 7) run0)).strobe.lineUntil = some 1107 ∧
      (after (exec .strobePulseEnd { run0 with strobe := { run0.strobe with lineUntil := some 1100 } })).clock = 1100 :=
  ⟨rfl, by decide +kernel, by decide +kernel⟩

/-- The run under a map with a mark hold of 2. -/
def hold2 : State := { run0 with maps := { live := some { map0 with h := 2 }, staged := none } }

/-- MarkEdgeBeginsQualification: an edge, an edge while a qualification is pending, the three grounds on which an edge has
no effect, and the three observations that are no edge. -/
theorem witness_MarkEdgeBeginsQualification :
    Awake hold2 ∧ hold2.maps.live = some { map0 with h := 2 } ∧ hold2.tracker.markLevel = some (!true) ∧
      (true = true ↔ map0.activeLow = false) ∧ hold2.tracker.state ≠ .idle ∧ map0.mode = .track ∧
      hold2.acq.state ≠ .disarmed ∧ hold2.encoder.position = hold2.encoder.highWater ∧
      hold2.tracker.qualification = none ∧
      ({ hold2.tracker with qualification := some { edge := 39, confirm := 41 } } : Tracker).qualification ≠ none ∧
      live0.tracker.state = .idle ∧ ({ map0 with mode := .fixed } : SteeringMap).mode = .fixed ∧
      (back0 1).encoder.position ≠ (back0 1).encoder.highWater ∧ live0.tracker.markLevel = none ∧
      run0.tracker.markLevel = some false ∧ (false = true ↔ map0.activeLow = true) :=
  ⟨rfl, rfl, rfl, by decide, by decide, rfl, by decide, rfl, rfl, by decide, rfl, rfl, by decide, rfl, rfl, by decide⟩

/-- R35: the qualification of an edge at count 40 ends at count 42. -/
theorem test_mark_qualifies :
    (after (exec (.markEdge true) hold2)).tracker.qualification = some { edge := 40, confirm := 42 } := by
  decide +kernel

/-- A run whose next boundary is expected at this row, with its window of 3 rows. -/
def expecting0 (e : Nat) : State :=
  { run0 with tracker :=
      { run0.tracker with
        state := .locked, searchStart := none, expected := some e, halfWidth := some 3
        decisionPoint := some (e + 3 + 1 - 25) } }

/-- The run with four repeats in the table. -/
def full0 : State :=
  { run0 with table := { run0.table with
      nextKey := 4
      entries :=
        [{ entry0 with endRow := some 30 }, { entry0 with key := 1, firstRow := 30, endRow := some 32 },
          { entry0 with key := 2, firstRow := 32, endRow := some 34 }, { entry0 with key := 3, firstRow := 34 }] } }

/-- The run with a HOLD pending. -/
def holding0 : State := { run0 with acq := { run0.acq with request := .hold } }

/-- A run with a mark whose hold of 2 ends at the next count, with the input still asserted. -/
def confirming0 : State :=
  { run0 with
    maps := { live := some { map0 with Q := 65537, h := 2 }, staged := none }
    tracker := { run0.tracker with markLevel := some true, qualification := some ending0 } }

/-- MarkIsJudged: a hold of 0, and one that ends at the next count; in SEARCH; at both ends of the window and beyond them; with the table full; and with HOLD
pending, when no repeat opens. -/
theorem witness_MarkIsJudged :
    (∀ s ∈ [run0, expecting0 62, expecting0 68, expecting0 61, expecting0 69, full0, holding0],
      s.resetLine = false ∧ s.maps.live = some map0 ∧ map0 = s.maps.staged.getD map0 ∧
        s.tracker.markLevel = some (!true) ∧ s.acq.state ≠ .disarmed ∧
        (s.acq.state = .draining → s.table.entries ≠ []) ∧ s.encoder.position = s.encoder.highWater ∧
        s.tracker.qualification = none ∧ (s.table.entries.map Entry.key).Nodup ∧
        65 = s.strobe.nextStrobe.toNat + map0.M) ∧
      (true = true ↔ map0.activeLow = false) ∧ map0.mode = .track ∧ map0.h = 0 ∧
      run0.tracker.state = .search ∧ opensRepeat run0.acq ∧ run0.table.entries.length < 4 ∧
      (∀ e, (expecting0 e).tracker.state = .locked) ∧ InWindow (expecting0 62).tracker 65 ∧
      InWindow (expecting0 68).tracker 65 ∧ ¬InWindow (expecting0 61).tracker 65 ∧ ¬InWindow (expecting0 69).tracker 65 ∧
      4 ≤ full0.table.entries.length ∧ opensRepeat full0.acq ∧ ¬opensRepeat holding0.acq ∧
      AtNewGround confirming0 { map0 with Q := 65537, h := 2 } ∧ CountOf confirming0 ahead true ∧
      confirming0.strobe.phase + 65536 < 65537 ∧ ending0.confirm = confirming0.encoder.highWater.toNat + 1 ∧
      confirming0.tracker.qualification = some ending0 ∧ confirming0.tracker.markLevel = some true ∧
      (confirming0.table.entries.map Entry.key).Nodup ∧ confirming0.tracker.state = .search := by
  refine ⟨by decide +kernel, by decide, rfl, rfl, rfl, by unfold opensRepeat; decide, by decide, fun _ => rfl,
    ⟨62, 3, rfl, rfl, by decide, by decide⟩, ⟨68, 3, rfl, rfl, by decide, by decide⟩, ?_, ?_, by decide,
    by unfold opensRepeat; decide, by unfold opensRepeat; decide, ⟨rfl, by decide, rfl, rfl, by decide⟩,
    ahead_counts rfl rfl, by decide, by decide, rfl, rfl, by decide, rfl⟩ <;>
  · rintro ⟨e, w, he, hw, h1, h2⟩
    obtain rfl := Option.some.inj he
    obtain rfl := Option.some.inj hw
    omega

/-- R36: a mark of edge strobe 38 that is asserted at its confirm point has its boundary at 38 + M. -/
theorem test_mark_confirmed :
    (after (exec (.encoderTransition ahead 7) confirming0)).table.entries.map Entry.firstRow = [25, 63] := by
  decide +kernel

/-- R36, R41: the boundary of a mark at next-strobe number 40 is row 40 + M. -/
theorem test_mark_boundary :
    let t := after (exec (.markEdge true) run0)
    t.table.entries.map (fun e => (e.firstRow, e.endRow)) = [(25, some 65), (65, none)] ∧
      t.tracker.expected = some 129 := by decide +kernel

/-- The run with the tracker locked on a window whose decision point is strobe 41. -/
def locked0 (coast : Nat) : State :=
  { run0 with tracker :=
      { run0.tracker with
        state := if coast = 0 then .locked else .coasting
        searchStart := none
        expected := some 62
        halfWidth := some 3
        decisionPoint := some 41
        coast := coast } }

/-- A FIXED run whose next boundary is decided at strobe 41. -/
def fixed0 : State :=
  { run0 with
    maps := { live := some { map0 with mode := .fixed, W := 0 }, staged := none }
    tracker :=
      { run0.tracker with
        state := .locked, searchStart := none, expected := some 66, halfWidth := some 0, decisionPoint := some 41 } }

/-- The run with a search that began at next-strobe number 41 − 4 × N; N is 8 here. -/
def search0 : State :=
  { run0 with
    maps := { live := some { map0 with N := 8 }, staged := none }
    tracker := { run0.tracker with searchStart := some 9 } }

/-- NextStrobeSetsOffDecisions: the flywheel decision in LOCKED and at coast count 7, the lost decision, the
FIXED decision and the search fault. -/
theorem witness_NextStrobeSetsOffDecisions :
    AtNewGround (locked0 0) map0 ∧ CountOf (locked0 0) ahead true ∧ NoConfirm (locked0 0) ∧
      map0 = (locked0 0).maps.staged.getD map0 ∧ 41 ≤ ((locked0 0).strobe.nextStrobe + 1).toNat ∧
      (locked0 0).tracker.state = .locked ∧ (locked0 7).tracker.state = .coasting ∧ (locked0 7).tracker.coast < 8 ∧
      (locked0 8).tracker.coast = 8 ∧ AtNewGround fixed0 { map0 with mode := .fixed, W := 0 } ∧
      (fixed0.strobe.nextStrobe + 1).toNat = 66 - map0.M ∧ AtNewGround search0 { map0 with N := 8 } ∧
      (search0.strobe.nextStrobe + 1).toNat = 9 + 4 * 8 ∧ fixed0.tracker.state = .locked ∧
      fixed0.tracker.expected = some 66 ∧ search0.tracker.state = .search ∧ search0.tracker.searchFault = false ∧
      search0.tracker.searchStart = some 9 ∧ CountOf fixed0 ahead true ∧ CountOf search0 ahead true ∧
      (locked0 8).tracker.expected = some 62 ∧ (locked0 8).tracker.decisionPoint = some 41 ∧ KeysApart (locked0 0) ∧
      (locked0 0).table.entries.getLast? = some entry0 ∧ entry0.endRow = none ∧
      (entry0.counts.get 0).retired.toNat + 2 < 62 - entry0.firstRow ∧ opensRepeat (locked0 0).acq ∧
      ¬opensRepeat holding0.acq ∧ (locked0 0).table.entries.length < 4 :=
  ⟨⟨rfl, by decide, rfl, rfl, by decide⟩, ahead_counts rfl rfl, noConfirm_run0, rfl, by decide, rfl, rfl, by decide,
    rfl, ⟨rfl, by decide, rfl, rfl, by decide⟩, by decide, ⟨rfl, by decide, rfl, rfl, by decide⟩, by decide, rfl, rfl,
    rfl, rfl, rfl, ahead_counts rfl rfl, ahead_counts rfl rfl, rfl, rfl, ⟨by decide, by decide⟩, rfl, rfl, by decide,
    by unfold opensRepeat; decide, by unfold opensRepeat; decide, by decide⟩

/-- R43, R83, R84: a flywheel decision ends the newest repeat at E and opens the next with kind FLYWHEEL. -/
theorem test_flywheel_decision :
    (after (exec (.encoderTransition ahead 7) { locked0 0 with choices := [0] })).table.entries.map
        (fun e => (e.firstRow, e.endRow, e.startKind)) = [(25, some 62, .mark), (62, none, .flywheel)] := by
  decide +kernel

/-- R44: at coast count 8 the newest repeat ends at E, and a new search begins with MARK_FAULT. -/
theorem test_lost_decision :
    let t := after (exec (.encoderTransition ahead 7) { locked0 8 with choices := [0] })
    t.tracker.state = .search ∧ t.table.entries.map Entry.endRow = [some 62] ∧ t.attention.causes = 8 := by
  decide +kernel

/-! ### The acquisition requests -/

theorem settled_nil {s : State} (h : s.list.jobs = []) : ListSettled s := by
  intro _ f js hj
  rw [h] at hj
  cases hj

/-- HoldAndResumeAreAnswered: either command in RUNNING; the other states and requests are plain data. -/
theorem witness_HoldAndResumeAreAnswered :
    (commanded 4 [] run0).profile.faulted = false ∧ ListSettled (commanded 4 [] run0) ∧
      Taken (commanded 4 [] run0) (held 4 []) 0x04 ∧ Taken (commanded 5 [] run0) (held 5 []) 0x05 :=
  ⟨rfl, settled_nil rfl, ⟨rfl, rfl, rfl⟩, ⟨rfl, rfl, rfl⟩⟩

/-- R145, R146: HOLD is answered OK and sets the request; RESUME then cancels it. -/
theorem test_hold_then_resume :
    let t := after (exec .hold (commanded 4 [] run0))
    t.acq.request = .hold ∧ (after (exec .resume (commanded 5 [] t))).acq.request = .none := by decide +kernel

/-- The run with no repeat in the table. -/
def empty0 : State := { run0 with table := { run0.table with entries := [] } }

/-- DisarmDrainsOrEnds: in DISARMED, with a repeat and with none. -/
theorem witness_DisarmDrainsOrEnds :
    ListSettled (commanded 2 [] run0) ∧ Taken (commanded 2 [] run0) (held 2 []) 0x02 ∧ live0.acq.state = .disarmed ∧
      run0.acq.state = .running ∧ run0.table.entries ≠ [] ∧ empty0.table.entries = [] :=
  ⟨settled_nil rfl, ⟨rfl, rfl, rfl⟩, rfl, rfl, by decide, rfl⟩

/-- R147: the response's data names the state entered. -/
theorem test_disarm :
    (after (exec .disarm (commanded 2 [] run0))).acq.state = .draining ∧
      (after (exec .disarm (commanded 2 [] empty0))).attention.causes = 0x1000 := by decide +kernel

/-- ArmBeginsTheRun: no map, armed, and a map in each mode. -/
theorem witness_ArmBeginsTheRun :
    Taken (commanded 1 [] live0) (held 1 []) 0x01 ∧ ListSettled (commanded 1 [] live0) ∧
      State.reset.maps.live = none ∧ run0.acq.state ≠ .disarmed ∧ live0.acq.state = .disarmed ∧
      live0.maps.live = some map0 ∧ live0.maps.staged = none ∧ live0.table.entries = [] ∧ map0.mode = .track ∧
      ({ map0 with mode := .fixed } : SteeringMap).mode = .fixed :=
  ⟨⟨rfl, rfl, rfl⟩, settled_nil rfl, rfl, by decide, rfl, rfl, rfl, rfl, rfl, rfl⟩

/-- R46, R142: an ARM in FIXED mode opens the repeat at row M and expects the next at M + N. -/
theorem test_arm_fixed :
    let m := { map0 with mode := MarkMode.fixed, W := 0 }
    let t := after (exec .arm (commanded 1 [] { live0 with maps := { live := some m, staged := none } }))
    t.table.entries.map Entry.firstRow = [25] ∧ t.tracker.expected = some 89 ∧ t.acq.state = .running := by
  decide +kernel

/-- AbortCancelsTheRun: in DISARMED, and in a run with an open repeat. -/
theorem witness_AbortCancelsTheRun :
    Taken (commanded 3 [] live0) (held 3 []) 0x03 ∧ live0.acq.state = .disarmed ∧
      ListSettled (commanded 3 [] live0) ∧ Taken (commanded 3 [] run0) (held 3 []) 0x03 ∧
      run0.acq.state ≠ .disarmed ∧ run0.maps.live = some map0 :=
  ⟨⟨rfl, rfl, rfl⟩, rfl, settled_nil rfl, ⟨rfl, rfl, rfl⟩, by decide, rfl⟩

/-- R99, R149: one record with end kind CANCELLED, no rows and the buffer's capacity, for the area of ring entry 0, then
the response that counts it. -/
theorem test_abort :
    (after (exec .abort (commanded 3 [] run0))).list.jobs.map (fun j =>
        match j with
        | .record r => (r.endKind, [], r.rowCount, r.capacity, r.area)
        | .response r => (none, r.data, 0, 0, 0)
        | .fill _ => (none, [0, 0], 0, 0, 0)) =
      [(some .cancelled, [], 0, 70, 0x40000040), (none, [1], 0, 0, 0)] := by decide +kernel

/-! ### The mailbox -/

/-- The part with a factory record that fails its check. -/
def faulted0 : State := { State.reset with profile := { State.reset.profile with faulted := true } }

/-- RefusedAndUnknownCommands: every refused code, and a code that is no command. -/
theorem witness_RefusedAndUnknownCommands :
    faulted0.profile.faulted = true ∧
      (∀ code ∈ ([0x01, 0x02, 0x03, 0x04, 0x05, 0x10, 0x21, 0x22, 0x30, 0x31] : List Byte),
        ListSettled (commanded code [] faulted0) ∧ Taken (commanded code [] faulted0) (held code []) code) ∧
      Awake (commanded 0x77 [] live0) ∧ (commanded 0x77 [] live0).mailbox.taken = some (held 0x77 []) ∧
      (0x77 : Byte) ∉ ([0x01, 0x02, 0x03, 0x04, 0x05, 0x10, 0x20, 0x21, 0x22, 0x30, 0x31, 0x3F] : List Byte) :=
  ⟨rfl, fun _ _ => ⟨settled_nil rfl, rfl, rfl, rfl⟩, rfl, rfl, by decide⟩

/-- R158: a code of no command is answered UNSUPPORTED. -/
theorem test_unsupported :
    (after (exec .unsupportedCommand (commanded 0x77 [] faulted0))).list.jobs =
      [.response { seq := 5, code := 0x77, result := .unsupported, data := [] }] := by decide +kernel

/-- PollTimerExpires: polling suspended by a response, by a command in progress, by a poll, and running. -/
theorem witness_PollTimerExpires :
    Awake State.reset ∧ (∃ j ∈ (listed (.response response0)).list.jobs, isResponse j = true) ∧
      ({ State.reset.mailbox with inProgress := some (.loadMap 5 0) } : Mailbox).inProgress ≠ none ∧
      ({ State.reset.mailbox with poll := .command } : Mailbox).poll ≠ .none ∧
      (∀ j ∈ State.reset.list.jobs, isResponse j = false) ∧ State.reset.mailbox.poll = .none ∧
      State.reset.mailbox.taken = none ∧ NextTag State.reset 240 :=
  ⟨rfl, ⟨_, List.mem_singleton.2 rfl, rfl⟩, by decide, by decide, by decide, rfl, rfl, nextTag_of (by decide +kernel)⟩

/-- R155: the first poll begins one poll period after reset. -/
theorem test_first_poll :
    let t := after (exec .pollTimerExpiry State.reset)
    t.clock = 10000 ∧ t.mailbox.nextPoll = 20000 ∧
      t.reads = [{ unit := .mailbox, addr := 0x100000, len := 4, stage := .waiting 240 }] := by decide +kernel

/-- A state with a read of this unit and length outstanding on tag 240. -/
def reading (u : ReadUnit) (len : Nat) (s : State) : State :=
  { s with reads := [{ unit := u, addr := 0x100000, len := len, stage := .left 240 }] }

/-- The state with a poll in progress and this last sequence seen. -/
def polling (p : PollState) (last : Option (BitVec 32)) : State :=
  reading .mailbox (if p = .command then 64 else 4)
    { State.reset with mailbox := { State.reset.mailbox with poll := p, lastSeen := last } }

/-- PollReadsComplete: a failed read, the first sequence, an unchanged one, a changed one, and the command
area. -/
theorem witness_PollReadsComplete :
    Awake (polling .sequence none) ∧
      (polling .sequence none).reads = [] ++ { unit := .mailbox, addr := 0x100000, len := 4, stage := .left 240 } :: [] ∧
      stageTag (.left 240) = some 240 ∧ 240 ≤ (240 : Tag).toNat ∧ (polling .sequence none).mailbox.poll ≠ .none ∧
      ([1, 0, 0] : List Byte).length ≠ 4 ∧ (polling .sequence none).mailbox.lastSeen = none ∧
      ListSettled (polling .sequence none) ∧ (polling .sequence (some 1)).mailbox.lastSeen = some 1 ∧
      BitVec.ofNat 32 (leNat [1, 0, 0, 0]) = 1 ∧ (1 : BitVec 32) ≠ BitVec.ofNat 32 (leNat [2, 0, 0, 0]) ∧
      NextTag { polling .sequence (some 1) with reads := [] ++ [] } 240 ∧
      (polling .command (some 1)).mailbox.poll = .command ∧
      (polling .command (some 1)).reads = [] ++ { unit := .mailbox, addr := 0x100000, len := 64, stage := .left 240 } :: [] :=
  ⟨rfl, rfl, rfl, by decide, by decide, by decide, rfl, settled_nil rfl, rfl, by decide, by decide,
    nextTag_of (by decide +kernel), rfl, rfl⟩

/-- R155, R157: READY after a power-up with erased flash; and a command taken from the command area. -/
theorem test_poll_reads :
    (after (exec (.readCompletion ⟨240, [9, 0, 0, 0], true⟩) (polling .sequence none))).list.jobs =
        [.response { seq := 9, code := 0, result := .ready, data := [0, 1, 0, 0] }] ∧
      (after (exec (.readCompletion ⟨240, [2, 0, 0, 0, 0x20, 0, 0, 0, 1] ++ zeros 55, true⟩)
        (polling .command (some 1)))).mailbox.taken = some { seq := 2, code := 0x20, params := 1 :: zeros 55 } := by
  decide +kernel

/-- ReportsAreAnswered: STATUS with and without the clear bit, and READ_PROFILE. -/
theorem witness_ReportsAreAnswered :
    ListSettled (commanded 0x20 [1] live0) ∧ Taken (commanded 0x20 [1] live0) (held 0x20 [1]) 0x20 ∧
      Taken (commanded 0x20 [2] live0) (held 0x20 [2]) 0x20 ∧
      Taken (commanded 0x30 [] live0) (held 0x30 []) 0x30 ∧ live0.profile.faulted = false :=
  ⟨settled_nil rfl, ⟨rfl, rfl, rfl⟩, ⟨rfl, rfl, rfl⟩, ⟨rfl, rfl, rfl⟩, rfl⟩

/-- R159: the counters are cleared after the snapshot that reports them. -/
theorem test_status_clears :
    let t := after (exec .status (commanded 0x20 [1] (bump .strayReads live0)))
    t.counters.strayReads = 0 ∧
      t.list.jobs.map (fun j => match j with | .response r => field r.data 0x4C 4 | _ => 99) = [1] := by
  decide +kernel

/-- R166: READ_PROFILE answers 68 bytes. -/
theorem test_read_profile :
    (after (exec .readProfile (commanded 0x30 [] live0))).list.jobs.map
        (fun j => match j with | .response r => r.data.length | _ => 0) = [68] := by decide +kernel

/-- AckAndSetMaskAreAnswered: a set whose bits 13 to 15 are set too. -/
theorem witness_AckAndSetMaskAreAnswered :
    ListSettled (commanded 0x21 [0x01, 0xE0] live0) ∧ live0.profile.faulted = false ∧
      Taken (commanded 0x21 [0x01, 0xE0] live0) (held 0x21 [0x01, 0xE0]) 0x21 ∧
      Taken (commanded 0x22 [0x01, 0xE0] live0) (held 0x22 [0x01, 0xE0]) 0x22 ∧
      (held 0x22 [0x01, 0xE0]).params = 0x01 :: 0xE0 :: [] :=
  ⟨settled_nil rfl, rfl, ⟨rfl, rfl, rfl⟩, ⟨rfl, rfl, rfl⟩, rfl⟩

/-- R163: under ACTIVE_LOW the line is high when no enabled cause is left, and low when one is. -/
theorem test_attention_level :
    attentionLineHigh (after (exec .ack (commanded 0x21 [1, 0] { live0 with attention := { causes := 1, mask := 1 } }))) =
        true ∧
      attentionLineHigh (after (exec .ack (commanded 0x21 [2, 0] { live0 with attention := { causes := 3, mask := 1 } }))) =
        false := by decide +kernel

/-- R160, R161: ACK of cause 0 leaves cause 12; SET_MASK takes the low 13 bits. -/
theorem test_ack_and_mask :
    (after (exec .ack (commanded 0x21 [0x01, 0xE0] { live0 with attention := { causes := 0x1001, mask := 1 } }))
        ).attention.causes = 0x1000 ∧
      (after (exec .setMask (commanded 0x22 [0x01, 0xF0] live0))).attention.mask = 0x1001 := by decide +kernel

/-- R130: LOAD_MAP requests the record's 512 bytes; R167: a save asks for 64. -/
theorem test_load_and_save_begin :
    (after (exec .loadMap (commanded 0x10 [0, 0, 0x50] live0))).reads.map (fun r => (r.addr, r.len)) = [(0x500000, 512)] ∧
      (after (exec .saveProfile (commanded 0x31 [0, 0, 0x50] live0))).reads.map (fun r => (r.addr, r.len)) =
        [(0x500000, 64)] := by decide +kernel

/-- The factory image of section 12.4 with its lock set. -/
def image0 : List Byte := leBytes 8 0x100000 ++ leBytes 2 10 ++ [0, 0] ++ leBytes 2 0x401 ++ [1] ++ zeros 49

/-- The state while an image is read to be saved. -/
def saving0 : State :=
  reading .profile 64 { live0 with mailbox := { live0.mailbox with inProgress := some (.saveReading 5 0x100000) } }

/-- ProfileIsSaved: the last address whose image ends at 2^48 and the first beyond, a FIXED lock; a failed read, an image
out of range and one in range; the end of its programming. -/
theorem witness_ProfileIsSaved :
    ListSettled (commanded 0x31 [0, 0, 0x50] live0) ∧
      Taken (commanded 0x31 [0, 0, 0x50] live0) (held 0x31 [0, 0, 0x50]) 0x31 ∧
      leNat (([0xC0, 0xFF, 0xFF, 0xFF, 0xFF, 0xFF, 0, 0] : List Byte).take 8) = 0xFFFFFFFFFFC0 ∧
      (0xFFFFFFFFFFC0 : Nat) + 64 ≤ 2 ^ 48 ∧ 2 ^ 48 < (0xFFFFFFFFFFC1 : Nat) + 64 ∧
      ({ live0.profile with lockFixed := true } : ProfileStore).lockFixed = true ∧ live0.profile.lockFixed = false ∧
      NextTag (commanded 0x31 [0, 0, 0x50] live0) 240 ∧
      (Awake saving0 ∧ ListSettled saving0 ∧
        saving0.reads = [] ++ { unit := .profile, addr := 0x100000, len := 64, stage := .left 240 } :: []) ∧
      (zeros 63).length ≠ 64 ∧ readProfileImage (zeros 64) = none ∧
      readProfileImage image0 = some { factoryProfile with lockFixed := true } ∧ image0.length = 64 ∧
      Awake { live0 with mailbox := { live0.mailbox with inProgress := some (.saveProgramming 5 image0) } } ∧
      ListSettled live0 :=
  ⟨settled_nil rfl, ⟨rfl, rfl, rfl⟩, by decide, by decide, by decide, rfl, rfl, nextTag_of (by decide +kernel),
    ⟨rfl, settled_nil rfl, rfl⟩, by decide, by decide +kernel, by decide +kernel, by decide +kernel, rfl,
    settled_nil rfl⟩

/-- R167: after the programming a load finds the image, and the lock is FIXED. -/
theorem test_programming :
    let t := after (exec .profileProgrammingDone
      { live0 with mailbox := { live0.mailbox with inProgress := some (.saveProgramming 5 image0) } })
    loadProfile t.profile.flash = (.loaded, { factoryProfile with lockFixed := true }) ∧
      t.profile.lockFixed = true := by decide +kernel

/-- A lane record of a map (R170). -/
def laneBytes (m : LaneMap) : List Byte :=
  leBytes 4 m.place.colStart ++ leBytes 2 m.place.trimL ++ leBytes 2 m.place.trimR ++ leBytes 2 m.lag ++
    [if m.place.stampCheck then 1 else 0, 0xEE] ++ m.place.fill ++ [0xEE, 0xEE, 0xEE]

/-- The record of the test map, written out at the offsets of R170. -/
def mapBytes0 : List Byte :=
  leBytes 4 1 ++ leBytes 4 7 ++ leBytes 8 0x20000000 ++ [1, 3] ++ leBytes 2 16 ++ leBytes 2 256 ++ leBytes 2 10 ++
    leBytes 4 65536 ++ leBytes 2 2 ++ [0, 0, 0, 0] ++ leBytes 2 25 ++ leBytes 4 64 ++ leBytes 4 3 ++ zeros 4 ++
    leBytes 8 0x40000000 ++ [2] ++ zeros 71 ++ laneBytes lane0 ++ laneBytes lane1 ++ zeros 96 ++ zeros 256

/-- R170: every field is read from its place. -/
theorem test_map_record :
    mapBytes0.length = 512 ∧ readMap mapBytes0 = map0 ∧ failingCheck mapBytes0 = none := by decide +kernel

/-- The state while a map's record is read. -/
def loading (s : State) : State :=
  reading .maps 512 { s with mailbox := { s.mailbox with inProgress := some (.loadMap 5 0x100000) } }

theorem zeros_fail_first : IsFirst (CheckFails (zeros 512)) 1 := by
  constructor
  · change leNat ((zeros 512).take 4) ≠ 1
    decide +kernel
  · intro k hk
    obtain rfl : k = 0 := by omega
    exact id

theorem tiled_map0 : Tiled map0 := by
  refine ⟨[lane0.place, lane1.place], by decide +kernel, ?_⟩
  intro i p h
  match i with
  | 0 => obtain rfl := Option.some.inj h; rfl
  | 1 => obtain rfl := Option.some.inj h; rfl
  | i + 2 => cases h

theorem record_passes (n : Nat) : ¬CheckFails mapBytes0 n := by
  have hm := test_map_record.2.1
  match n with
  | 1 => change ¬leNat (mapBytes0.take 4) ≠ 1; decide +kernel
  | 8 => change ¬¬Tiled (readMap mapBytes0); rw [hm]; exact fun h => h tiled_map0
  | 0 | 2 | 3 | 4 | 5 | 6 | 7 | 9 | 10 | 11 | 12 | 13 | 14 => simp only [CheckFails, hm]; decide +kernel
  | n + 15 => exact id

theorem frozen_agrees (n : Nat) : ¬FrozenDiffers map0 map0 n := by
  match n with
  | 0 | 1 | 2 | 3 | 4 | 5 | 7 | 8 | 9 | 10 | 11 | 12 | 13 | 14 | 15 => simp [FrozenDiffers]
  | 6 => rintro ⟨l, x, y, hx, hy, h⟩; exact h (by rw [Option.some.inj (hx.symm.trans hy)])
  | n + 16 => exact id

theorem frozen_fifteen : IsFirst (FrozenDiffers { map0 with B := 3 } map0) 15 := by
  constructor
  · change (3 : Nat) ≠ 2
    decide
  · intro k hk
    match k with
    | 0 | 1 | 2 | 3 | 4 | 5 | 7 | 8 | 9 | 10 | 11 | 12 | 13 | 14 => simp [FrozenDiffers]
    | 6 => exact frozen_agrees 6
    | k + 15 => omega

/-- MapIsLoaded: the last address whose record ends at 2^48 and the first beyond; a failed read, a failed check, an accepted map in DISARMED, a map that agrees with the
live one while armed and one that differs in a frozen field. -/
theorem witness_MapIsLoaded :
    ListSettled (commanded 0x10 [0, 0, 0x50] live0) ∧
      Taken (commanded 0x10 [0, 0, 0x50] live0) (held 0x10 [0, 0, 0x50]) 0x10 ∧
      (0xFFFFFFFFFE00 : Nat) + 512 ≤ 2 ^ 48 ∧ 2 ^ 48 < (0xFFFFFFFFFE01 : Nat) + 512 ∧
      leNat (([0x00, 0xFE, 0xFF, 0xFF, 0xFF, 0xFF, 0, 0] : List Byte).take 8) = 0xFFFFFFFFFE00 ∧
      NextTag (commanded 0x10 [0, 0, 0x50] live0) 240 ∧
      Awake (loading live0) ∧ ListSettled (loading live0) ∧
      (loading live0).reads = [] ++ { unit := .maps, addr := 0x100000, len := 512, stage := .left 240 } :: [] ∧
      (zeros 511).length ≠ 512 ∧ (zeros 512).length = 512 ∧ IsFirst (CheckFails (zeros 512)) 1 ∧
      (∀ n, ¬CheckFails mapBytes0 n) ∧ live0.acq.state = .disarmed ∧ run0.acq.state ≠ .disarmed ∧
      (∀ n, ¬FrozenDiffers map0 (readMap mapBytes0) n) ∧
      IsFirst (FrozenDiffers { map0 with B := 3 } (readMap mapBytes0)) 15 ∧ live0.maps.live = some map0 ∧
      map0.ringBase = (readMap mapBytes0).ringBase ∧ map0.B = (readMap mapBytes0).B ∧
      ({ map0 with B := 3 } : SteeringMap).B ≠ (readMap mapBytes0).B ∧ State.reset.maps.live = none :=
  ⟨settled_nil rfl, ⟨rfl, rfl, rfl⟩, by decide, by decide, by decide, nextTag_of (by decide +kernel), rfl,
    settled_nil rfl, rfl, by decide +kernel, by decide +kernel, zeros_fail_first, record_passes, rfl, by decide,
    fun n => by rw [test_map_record.2.1]; exact frozen_agrees n, by rw [test_map_record.2.1]; exact frozen_fifteen, rfl,
    by decide +kernel, by decide +kernel, by decide +kernel, rfl⟩

/-- R132, R129: the numbers of the fourth check, of the last, and of the sixth frozen field. -/
theorem test_check_numbers :
    failingCheck (mapBytes0.set 0x12 17) = some 4 ∧ failingCheck (mapBytes0.set 0x38 65) = some 14 ∧
      firstFrozenDifference map0
        { map0 with lanes := ⟨some { lane0 with lag := 9 }, some lane1, none, none, none, none, none, none⟩ } = some 6 := by
  decide +kernel

/-- R66, R114: a map with another ring sets the ring counts to 0, and lane 1 becomes IN_STEP. -/
theorem test_ring_changes :
    let s := { live0 with
      maps := { live := some { map0 with B := 3 }, staged := none }, ringUnit := { live0.ringUnit with taken := 2, index := 2 } }
    let t := after (exec (.readCompletion ⟨240, mapBytes0, true⟩) (loading s))
    t.ringUnit.taken = 0 ∧ t.ringUnit.index = 0 ∧ t.ring.step.get 1 = .inStep := by decide +kernel

/-- R133: the map becomes live in DISARMED and is staged in a run. -/
theorem test_load_ends :
    (after (exec (.readCompletion ⟨240, mapBytes0, true⟩) (loading State.reset))).maps.live = some map0 ∧
      (after (exec (.readCompletion ⟨240, mapBytes0, true⟩) (loading run0))).maps.staged = some map0 := by
  decide +kernel

/-! ### The Ring Unit -/

/-- The run with one repeat in OPENING and no descriptor. -/
def asked0 : State := { run0 with table := { run0.table with entries := [entryOpening] } }

/-- Four RECORD jobs on the list: the allowance is full. -/
def owing0 : State :=
  { asked0 with list := { jobs := List.replicate 4 (.record (recordOf entry0 .clean run0)), progress := 0 } }

/-- OpeningOperationBegins: with the allowance at 0 and at 4. -/
theorem witness_OpeningOperationBegins :
    Awake asked0 ∧ asked0.ringUnit.opening = none ∧ (∀ r ∈ asked0.reads, r.unit ≠ .ring) ∧
      asked0.table.entries = [] ++ entryOpening :: [] ∧ entryOpening.state = .opening ∧
      4 ≤ recordAllowance owing0 ∧ recordAllowance asked0 < 4 ∧ NextTag asked0 240 :=
  ⟨rfl, rfl, by decide, rfl, rfl, by decide, by decide, nextTag_of (by decide +kernel)⟩

/-- R116: the return count is read from 0xF00 of the control block. -/
theorem test_opening_begins :
    (after (exec .openingOperationBegin asked0)).reads.map (fun r => (r.addr, r.len)) = [(0x100F00, 4)] := by
  decide +kernel

/-- The opening operation waiting on this read. -/
def awaiting (phase : OpeningPhase) (len : Nat) (taken : BitVec 32) : State :=
  reading .ring len { asked0 with ringUnit := { asked0.ringUnit with taken := taken, opening := some { key := 0, phase := phase } } }

/-- An OPENING entry whose six rows have all retired. -/
def entryRetired : Entry :=
  { entryOpening with
    endRow := some 31
    endKind := some (.decided .mark)
    counts := Lanes.every ⟨6, 6, 0, 0, 6, 0⟩ }

/-- The operation of such an entry waiting on this read, with a fill of it and a response on the list, before these. -/
def retired0 (phase : OpeningPhase) (len : Nat) (ys : List Entry) (s : State) : State :=
  { awaiting phase len 2 with
    acq := s.acq
    list := { jobs := [.fill (fill0 (.entry 0)), .response response0], progress := 0 }
    table := { run0.table with entries := entryRetired :: ys } }

theorem alone_retired0 (phase : OpeningPhase) (len : Nat) (s : State) :
    AloneComplete map0 0 (retired0 phase len [later0] s) ∧ AloneComplete map0 0 (retired0 phase len [] s) := by
  constructor
  · refine ⟨by change [0, 1].Nodup; decide, ?_⟩
    intro e he
    rcases List.mem_cons.mp he with rfl | he
    · exact ⟨31, rfl, by decide +kernel⟩
    · obtain rfl := List.mem_singleton.mp he
      decide
  · refine ⟨by change [0].Nodup; decide, ?_⟩
    intro e he
    obtain rfl := List.mem_singleton.mp he
    exact ⟨31, rfl, by decide +kernel⟩

theorem settled_retired0 (phase : OpeningPhase) (len : Nat) (ys : List Entry) (s : State) :
    ListSettled (retired0 phase len ys s) ∧
      ListSettled { retired0 phase len ys s with
        list :=
          { jobs := (retired0 phase len ys s).list.jobs.filter (fun j => !isFillOf 0 j), progress := 0 } } := by
  constructor
  · intro _ f js h
    obtain ⟨hf, -⟩ := List.cons.inj h
    obtain rfl := Job.fill.inj hf
    simp [retired0, resolveFill, fill0, entryRetired, entryOpening, newEntry]
  · intro _ f js h
    have : Job.response response0 = .fill f := (List.cons.inj h).1
    cases this

/-- ReturnCountIsJudged: an accepted count, a rejected one, a failed read; a free descriptor and none. -/
theorem witness_ReturnCountIsJudged :
    Awake (awaiting .returnCount 4 2) ∧
      (awaiting .returnCount 4 2).reads = [] ++ { unit := .ring, addr := 0x100000, len := 4, stage := .left 240 } :: [] ∧
      (awaiting .returnCount 4 2).maps.live = some map0 ∧
      (awaiting .returnCount 4 2).ringUnit.opening = some { key := 0, phase := .returnCount } ∧
      NextTag { awaiting .returnCount 4 2 with reads := [] ++ [] } 240 ∧
      BitVec.ofNat 32 (leNat [1, 0, 0, 0]) - 0 ≤ (2 : BitVec 32) - 0 ∧
      ¬BitVec.ofNat 32 (leNat [3, 0, 0, 0]) - 0 ≤ (2 : BitVec 32) - 0 ∧
      ((2 : BitVec 32) - 1).toNat < map0.B ∧ map0.B ≤ ((2 : BitVec 32) - 0).toNat ∧
      NoneComplete map0 (awaiting .returnCount 4 2) ∧
      (AloneComplete map0 0 (retired0 .returnCount 4 [later0] run0) ∧
        AloneComplete map0 0 (retired0 .returnCount 4 [] run0)) ∧
      (findEntry (retired0 .returnCount 4 [] run0) 0).isSome ∧ MapsAgree (retired0 .returnCount 4 [] draining0) ∧
      ∀ ys s, ListSettled { retired0 .returnCount 4 ys s with
        list := { jobs := (retired0 .returnCount 4 ys s).list.jobs.filter (fun j => !isFillOf 0 j), progress := 0 } } :=
  ⟨rfl, rfl, rfl, rfl, nextTag_of (by decide +kernel), by decide, by decide, by decide, by decide,
    by unfold NoneComplete; decide, alone_retired0 _ _ _, by decide,
    ⟨fun h => by revert h; decide, fun _ => ⟨map0, rfl, fun m h => by cases h⟩⟩, fun ys s => (settled_retired0 _ _ ys s).2⟩

/-- R118: with 2 taken and 1 returned a descriptor is taken; with none returned the repeat is dropped. -/
theorem test_return_count :
    (after (exec (.readCompletion ⟨240, [1, 0, 0, 0], true⟩) (awaiting .returnCount 4 2))).ringUnit.taken = 3 ∧
      (after (exec (.readCompletion ⟨240, [0, 0, 0, 0], true⟩) (awaiting .returnCount 4 2))).table.entries.map
        Entry.state = [.dropped] := by decide +kernel

/-- A descriptor of the test buffer. -/
def descriptor0 : List Byte := leBytes 8 0x100000000 ++ leBytes 4 1024 ++ leBytes 4 70 ++ zeros 48

/-- DescriptorEndsTheOpening: a valid descriptor, an invalid one and a failed read; an entry whose rows have all retired,
before another and alone; a completion that finds no operation. -/
theorem witness_DescriptorEndsTheOpening :
    Awake (awaiting .descriptor 64 1) ∧
      (awaiting .descriptor 64 1).reads = [] ++ { unit := .ring, addr := 0x100000, len := 64, stage := .left 240 } :: [] ∧
      (awaiting .descriptor 64 1).ringUnit.opening = some { key := 0, phase := .descriptor } ∧
      findEntry (awaiting .descriptor 64 1) 0 = some entryOpening ∧ entryOpening.buffer = none ∧
      NoneComplete map0 (awaiting .descriptor 64 1) ∧ descriptor0.length = 64 ∧
      descriptorValid buffer0 (imageWidth map0.Lp entryOpening.placement * map0.P) = true ∧
      descriptorValid { buffer0 with stride := 448 } (imageWidth map0.Lp entryOpening.placement * map0.P) = false ∧
      (AloneComplete map0 0 (retired0 .descriptor 64 [later0] run0) ∧
        AloneComplete map0 0 (retired0 .descriptor 64 [] run0)) ∧
      findEntry (retired0 .descriptor 64 [] run0) 0 = some entryRetired ∧ entryRetired.buffer = none ∧
      (ListSettled (retired0 .descriptor 64 [] run0) ∧
        ListSettled { retired0 .descriptor 64 [] run0 with
          list :=
            { jobs := (retired0 .descriptor 64 [] run0).list.jobs.filter (fun j => !isFillOf 0 j)
              progress := 0 } }) ∧
      (fill0 (.entry 0)).row < buffer0.capacity ∧
      (reading .ring 64 run0).reads =
        [] ++ { unit := .ring, addr := 0x100000, len := 64, stage := .left 240 } :: [] ∧
      (reading .ring 64 run0).ringUnit.opening = none :=
  ⟨rfl, rfl, rfl, by decide, rfl, by unfold NoneComplete; decide, by decide, by decide +kernel, by decide +kernel,
    alone_retired0 _ _ _, by decide, rfl, settled_retired0 _ _ _ _, by decide, rfl, rfl⟩

/-- R88, R93, R96: an entry whose rows have all retired closes at its descriptor, behind its bound fill, and is freed at
its drop with its fill, after its record. -/
theorem test_retired_while_opening :
    let kinds (d : List Byte) :=
      (after (exec (.readCompletion ⟨240, d, true⟩) (retired0 .descriptor 64 [later0] run0))).list.jobs.map fun j =>
        match j with
        | .fill f => (f.target, none)
        | .record r => (.entry r.rowCount, some r.status)
        | .response _ => (.entry 99, none)
    kinds descriptor0 = [(.bound buffer0, none), (.entry 99, none), (.entry 6, some .clean)] ∧
      kinds (zeros 64) = [(.entry 99, none), (.entry 6, some .descriptorFault)] ∧
      (after (exec (.readCompletion ⟨240, descriptor0, true⟩) (retired0 .descriptor 64 [] draining0))).acq.state =
        .disarmed := by decide +kernel

/-- R119: the descriptor's fields become the entry's buffer. -/
theorem test_descriptor :
    (after (exec (.readCompletion ⟨240, descriptor0, true⟩) (awaiting .descriptor 64 1))).table.entries.map
        (fun e => (e.state, e.buffer)) = [(.opened, some buffer0)] := by decide +kernel

/-- DescriptorChecksAreThoseOfTheManual, and its fifth check: a buffer whose rows end at 2^48 or begin at it
is accepted, one with a row across it is not. -/
theorem witness_DescriptorChecksAreThoseOfTheManual :
    1 ≤ (464 : Nat) ∧ descriptorValid { base := 2 ^ 48 - 1024, stride := 512, capacity := 4 } 464 = true ∧
      descriptorValid { base := 2 ^ 48 - 960, stride := 512, capacity := 2 } 464 = false := by
  decide +kernel

/-! ### Resets, the job line and the profile -/

/-- A part whose job line has the function RESET and stands low after a falling edge. -/
def jobReset0 : State :=
  { run0 with
    acq := { run0.acq with jobLevel := some false, fallingSeen := true }
    profile := { run0.profile with inForce := { factoryProfile with jobFunction := .reset } } }

/-- The run while an image is programmed. -/
def programming0 : State :=
  { run0 with mailbox := { run0.mailbox with inProgress := some (.saveProgramming 5 image0) } }

/-- ResetsLeaveTheirValues: the five ways to a reset; with nothing held at the port, a write and a read; during a
programming. -/
theorem witness_ResetsLeaveTheirValues :
    run0.inletHeld = [] ∧
      ({ run0 with inletHeld := [.write 5 [1]] } : State).inletHeld = .write 5 [1] :: [] ∧ ([1] : List Byte) ≠ [] ∧
      ({ run0 with inletHeld := [.read 5 4 239] } : State).inletHeld = .read 5 4 239 :: [] ∧ (239 : Tag).toNat < 240 ∧
      programming0.mailbox.inProgress = some (.saveProgramming 5 image0) ∧
      ({ run0 with resetLine := true } : State).resetLine = true ∧ Awake run0 ∧
      ({ run0.mailbox with inProgress := some .reset } : Mailbox).inProgress = some .reset ∧ run0.outlet = [] ∧
      (OneAtATime (commanded 0x3F [] run0) ∧ Taken (commanded 0x3F [] run0) (held 0x3F []) 0x3F) ∧ jobReset0.profile.inForce.jobFunction = .reset ∧
      jobReset0.acq.jobLevel = some false ∧ jobReset0.acq.fallingSeen = true :=
  ⟨rfl, rfl, by decide, rfl, by decide, rfl, rfl, rfl, rfl, rfl, ⟨by unfold OneAtATime; decide, rfl, rfl, rfl⟩, rfl, rfl,
    rfl⟩

/-- R16: the tag of a read that had left is held back over a reset, and the tag of one still queued is free. -/
theorem test_tags_held_back :
    (after (exec .powerUp
      { run0 with
        heldTags := [250]
        reads := [{ untagged0 with stage := .left 240 }, { untagged0 with stage := .queued 241 }] })).heldTags =
      [250, 240] := by decide +kernel

/-- R164, R167: a free value that names a good image does not make it: what an interrupted programming left is never
LOADED. -/
theorem test_interrupted_programming :
    let good := leNat (image0 ++ leBytes 2 (crc16 image0).toNat)
    (after (exec .powerUp { programming0 with choices := [good] })).profile.loadStatus = .erased ∧
      (after (exec .powerUp { programming0 with choices := [good + 1] })).profile.loadStatus = .corrupt := by
  decide +kernel

/-- R154: a power-up of a run gives the reset state but for the time and the sequence of keys. -/
theorem test_power_up :
    after (exec .powerUp State.reset) = State.reset ∧
      (after (exec .powerUp run0)).mailbox.nextPoll = 11000 ∧
      (after (exec (.jobLineEdge true) jobReset0)).mailbox.resetCause = .jobLine ∧
      (after (exec .resetLineRelease { run0 with resetLine := true })).mailbox.resetCause = .resetLine := by
  decide +kernel

/-- R17: the drain ends in the reset with cause COMMAND. -/
theorem test_reset_drain :
    let t := after (exec .reset (commanded 0x3F [] { run0 with outlet := [.write 0 [1]] }))
    t.mailbox.inProgress = some .reset ∧
      (after (exec .resetDrainEnd { t with outlet := [] })).mailbox.resetCause = .command := by decide +kernel

/-- DrainAndResetLineHold: a queue that is not empty, an awake bridge and a held one. -/
theorem witness_DrainAndResetLineHold :
    Taken (commanded 0x3F [] { run0 with outlet := [.write 0 [1]] }) (held 0x3F []) 0x3F ∧
      (commanded 0x3F [] { run0 with outlet := [.write 0 [1]] }).outlet ≠ [] ∧ Awake run0 ∧
      ({ run0 with resetLine := true } : State).resetLine = true ∧ Instr.arm ≠ .powerUp ∧
      Instr.arm ≠ .resetLineRelease ∧ (∀ x, Instr.arm ≠ .inletTransactionTaken x) ∧
      (∀ c, Instr.arm ≠ .readCompletion c) ∧
      ({ reading .maps 512 run0 with resetLine := true } : State).reads =
        [] ++ { unit := .maps, addr := 0x100000, len := 512, stage := .left 240 } :: [] :=
  ⟨⟨rfl, rfl, rfl⟩, by decide, rfl, rfl, by decide, by decide, (fun _ h => nomatch h), (fun _ h => nomatch h), rfl⟩

/-- R154, R16: a completion under the asserted reset line ends its read, and the reset holds its tag back no more. -/
theorem test_completion_while_held :
    let t := after (exec (.readCompletion ⟨240, mapBytes0, true⟩) { reading .maps 512 run0 with resetLine := true })
    (t.reads, t.maps.staged, (after (exec .resetLineRelease t)).heldTags) = ([], none, []) := by decide +kernel

/-- R154: the attention line is high while the reset line is asserted. -/
theorem test_reset_line_held :
    let t := after (exec .resetLineAssert { live0 with attention := { causes := 1, mask := 1 } })
    attentionLineHigh { live0 with attention := { causes := 1, mask := 1 } } = false ∧ attentionLineHigh t = true := by
  decide +kernel

/-- The bridge with this job line function and the line at this level. -/
def job0 (f : JobFunction) (level : Bool) (s : State) : State :=
  { s with
    acq := { s.acq with jobLevel := some level }
    profile := { s.profile with inForce := { factoryProfile with jobFunction := f } } }

/-- JobLineRequests: the grounds of no action, the edges that act, the refused ones, and every request. -/
theorem witness_JobLineRequests :
    Awake run0 ∧ run0.acq.jobLevel = none ∧ (job0 .stop false run0).profile.inForce.jobFunction = .stop ∧
      (job0 .reset false run0).acq.fallingSeen = false ∧ (job0 .hold true run0).acq.jobLevel = some (!false) ∧
      (job0 .hold true run0).acq.state = .running ∧ (job0 .hold true run0).acq.request = .none ∧
      (job0 .hold false { run0 with acq := { run0.acq with state := .held } }).acq.state = .held ∧
      faulted0.profile.faulted = true ∧ (job0 .hold true live0).acq.state = .disarmed ∧
      (job0 .run false State.reset).maps.live = none ∧ (job0 .run false run0).acq.state ≠ .disarmed ∧
      (job0 .hold true draining0).acq.state = .draining ∧
      (job0 .hold false holding0).acq.request = .hold ∧ holding0.acq.state = .running ∧
      (∀ f b, ListSettled (job0 f b run0) ∧ (job0 f b run0).mailbox.taken = none ∧ ListSettled (job0 f b live0) ∧
        (job0 f b live0).table.entries = []) ∧
      ∀ x ∈ lineRequests, ∃ c, held x.2.2.2 [] = c ∧ (x.1, x.2.1, x.2.2.1, c.code) ∈ lineRequests :=
  ⟨rfl, rfl, rfl, rfl, rfl, rfl, rfl, rfl, rfl, rfl, rfl, by decide, rfl, rfl, rfl,
    fun _ _ => ⟨settled_nil rfl, rfl, settled_nil rfl, rfl⟩, fun _ h => ⟨_, rfl, h⟩⟩

/-- R151, R152: under RUN a rising edge arms and under STOP a falling one aborts the run, with no response. -/
theorem test_job_line_requests :
    let t := after (exec (.jobLineEdge true) (job0 .run false live0))
    let u := after (exec (.jobLineEdge false) (job0 .stop true run0))
    (t.acq.state, t.list.jobs) = (.running, []) ∧ u.acq.state = .disarmed ∧
      u.list.jobs.map isResponse = [false] := by decide +kernel

/-- R151, R152: a falling edge holds the run; a rising edge that asks for ARM in a run is refused and
counted. -/
theorem test_job_line :
    (after (exec (.jobLineEdge false) (job0 .hold true run0))).acq.request = .hold ∧
      (after (exec (.jobLineEdge true) (job0 .run false run0))).counters.refusedLine = 1 := by decide +kernel

/-- ProfileLoadIsDecided: an image within range, one that is not, and CRC bytes that are not its own. -/
theorem witness_ProfileLoadIsDecided :
    image0.length = 64 ∧ readProfileImage image0 = some { factoryProfile with lockFixed := true } ∧
      readProfileImage (zeros 64) = none ∧
      zeros 64 ++ leBytes 2 (crc16 (zeros 64)).toNat ≠ List.replicate 66 0xFF ∧
      [0, 0] ≠ leBytes 2 (crc16 image0).toNat ∧ image0 ++ [0, 0] ≠ List.replicate 66 0xFF := by decide +kernel

/-- R164: the CRC of the nine digits is the one known for this polynomial and start value. -/
theorem test_crc : crc16 [0x31, 0x32, 0x33, 0x34, 0x35, 0x36, 0x37, 0x38, 0x39] = 0x29B1 := by decide +kernel

/-- TAG_ASSIGNED (R10): the waiting request takes the lowest tag that is free. -/
theorem test_tag_assigned :
    (after (exec .tagAssigned { live0 with reads := [untagged0], heldTags := [240] })).reads.map BridgeRead.stage =
      [.waiting 241] := by decide +kernel

/-- OUTLET_TRANSACTION_LEAVES (R11): the head leaves. -/
theorem test_head_leaves :
    (after (exec .outletTransactionLeaves { live0 with outlet := [.write 0 [1], .write 1 [2]] })).sent = [.write 0 [1]] := by
  decide +kernel

/-! ### Formats and invariants -/

/-- AcceptedMapsPartitionTheRow: a record that passes, and one that does not. -/
theorem witness_AcceptedMapsPartitionTheRow :
    failingCheck mapBytes0 = none ∧ failingCheck (mapBytes0.set 0x80 1) = some 8 := by decide +kernel

/-- RecordHoldsItsFields: the record of the test entry; its area is 256 bytes long. -/
theorem witness_RecordHoldsItsFields :
    (recordOf entry0 .clean run0).firstRow < 2 ^ 48 ∧ (recordOf entry0 .clean run0).rowCount < 2 ^ 32 ∧
      (recordOf entry0 .clean run0).capacity < 2 ^ 32 ∧ (recordBytes (recordOf entry0 .clean run0)).length = 256 := by
  decide +kernel

/-- SnapshotHoldsItsFields: with one entry and with four. -/
theorem witness_SnapshotHoldsItsFields :
    run0.table.entries.length ≤ 4 ∧ run0.tracker.coast ≤ 8 ∧ run0.table.entries[0]? = some entry0 ∧
      entry0.firstRow < 2 ^ 48 ∧ (snapshot run0).length = 384 ∧
      (snapshot { run0 with table := { run0.table with entries := List.replicate 4 entry0 } }).length = 384 := by
  decide +kernel

/-- OutletKeepsItsOrder and CommandsKeepTheirFrames: a command that answers a next state, and one that cannot
reset. -/
theorem witness_CommandsKeepTheirFrames :
    (∃ t, exec .arm live0 = .next t) ∧ ¬MayReset .arm ∧ ¬MayReset (.encoderTransition ahead 1) := by
  refine ⟨⟨_, rfl⟩, ?_, ?_⟩ <;> simp [MayReset]

/-- The test run has the invariants, and steps; and so has DISARMED in FAULTED. -/
theorem witness_invariants :
    (∃ t, step { run0 with pending := [.encoderTransition ahead 7] } = .next t) ∧ Sized run0 ∧
      MismatchesInRange run0 ∧ RingOrdered bound0 ∧ DisarmedQuiet live0 ∧ FaultedInert faulted0 ∧
      OneAtATime (commanded 4 [] run0) ∧ HeadSettled run0 := by
  refine ⟨⟨_, rfl⟩, by unfold Sized; decide, by unfold MismatchesInRange; decide, ?_, ?_, ?_, by unfold OneAtATime; decide,
    settled_nil rfl, by intro h; cases h⟩
  · unfold RingOrdered slotsRise; decide
  · intro _; decide
  · exact fun _ => ⟨rfl, rfl, rfl, rfl, (fun j hj => by cases hj), fun q a h => by cases h⟩

/-- TravelStaysAccounted, RecordAllowanceStaysBounded and TagsStayApart hold of the test run, a state in which
each says something. -/
theorem witness_TravelAccounted :
    TravelAccounted run0 ∧ AllowanceKept run0 ∧ TagsApart { run0 with reads := reads0 } := by
  refine ⟨⟨⟨fun _ => rfl, fun _ => ⟨map0, rfl, fun m h => by cases h⟩⟩, ?_, fun _ m h => ?_⟩, ?_, ?_, ?_, ?_⟩
  · intro m h
    obtain rfl := Option.some.inj h
    decide
  · obtain rfl := Option.some.inj h
    decide
  · exact ⟨by decide, (fun o h => by cases h), by decide, by decide, (fun h => by cases h), by decide,
      by decide, fun o h => by cases h⟩
  · decide
  · decide
  · intro r hr t ht
    simp only [reads0, List.mem_cons, List.not_mem_nil, or_false] at hr
    rcases hr with rfl | rfl <;> (obtain rfl := Option.some.inj ht; decide)

end Sys2Proof.Tests
end

section
/-! SUPPORT and PROOFS. The acquisition requests HOLD, RESUME, DISARM and ARM as the mailbox carries them out
(chapter 10): how a commanded request is answered, what entry into DISARMED and the begin of a run write, and the
three statements about them. -/

namespace Sys2Proof.AcquisitionProofs

open Sys2Proof Sys2Proof.Machine

/-! ### The internal write list under a request -/

/-- Whether the list is settled depends on the list and the Repeat Table only. -/
theorem listSettled_of_same {s t : State} (hs : ListSettled s) (hl : t.list = s.list) (ht : t.table = s.table) :
    ListSettled t := by
  unfold ListSettled
  rw [hl, ht]
  exact hs

/-- In an empty table a FILL job that is not discarded is one of a closed repeat, and what the table holds no
longer bears on it (R94, R107). -/
theorem resolveFill_of_noEntries {f : FillJob} (h : resolveFill [] f ≠ .discarded) (es : List Entry) :
    resolveFill es f = resolveFill [] f := by
  obtain ⟨target, row, column, len, value⟩ := f
  cases target with
  | bound b => rfl
  | entry k => exact absurd rfl h

/-- A list settled under an empty table is settled under every table. -/
theorem listSettled_of_noEntries {s t : State} (hs : ListSettled s) (he : s.table.entries = [])
    (hl : t.list = s.list) : ListSettled t := by
  intro hp f js hj
  rw [hl] at hp hj
  have hhead : resolveFill [] f ≠ .discarded := he ▸ hs hp f js hj
  rwa [resolveFill_of_noEntries hhead]

/-! ### Carrying out a commanded request (R141, R158) -/

/-- The state with the command no longer held, which the request is made of. -/
def released (s : State) : State := { s with mailbox := { s.mailbox with taken := none } }

@[simp] theorem released_acq (s : State) : (released s).acq = s.acq := rfl
@[simp] theorem released_table (s : State) : (released s).table = s.table := rfl

section
variable {s t : State} {c : TakenCommand} {code : Byte} {request : State → RequestResult × State}
  {r : RequestResult}

/-- Out of FAULTED the row of the command taken makes its request and queues the result as the response. -/
theorem commandedRequest_responds (hf : s.profile.faulted = false) (ht : Taken s c code)
    (hr : request (released s) = (r, t)) :
    unlessReset (carryOut code (commandedRequest request)) s = .next (respond c.seq c.code r.code r.data t) := by
  obtain ⟨hawake, htaken, hcode⟩ := ht
  have hrequest : unlessFaulted request (released s) = (r, t) := by
    rw [unlessFaulted, if_neg (by simp [released, hf]), hr]
  have hcarried : carryOut code (commandedRequest request) s = commandedRequest request c (released s) := by
    simp only [carryOut, htaken, hcode, if_true]
    rfl
  rw [unlessReset, hawake, if_neg Bool.false_ne_true, hcarried, commandedRequest, hrequest]

/-- With a settled list after the request, its response stands at the tail of the list. -/
theorem commandedRequest_answered (hf : s.profile.faulted = false) (ht : Taken s c code)
    (hr : request (released s) = (r, released t)) (hs : ListSettled t) :
    unlessReset (carryOut code (commandedRequest request)) s = .next (answered c r.code r.data t) := by
  have hsettled : ListSettled (released t) := listSettled_of_same hs rfl rfl
  rw [commandedRequest_responds hf ht hr, respond_of_settled hsettled]
  rfl

end

/-! ### HOLD and RESUME (R145, R146) -/

/-- The table of R145. -/
theorem requestHold_eq (s : State) :
    requestHold s =
      if s.acq.state = .running ∧ s.acq.request = .none then (plain .ok, setRequest .hold s)
      else if s.acq.state = .held ∧ s.acq.request = .resume then (plain .ok, setRequest .none s)
      else (plain .already, s) := by
  unfold requestHold
  split
  next hst hrq => simp [hst, hrq]
  next hst hrq => simp [hst, hrq]
  next hset hcancel => rw [if_neg (not_and.2 hset), if_neg (not_and.2 hcancel)]

/-- The table of R146. -/
theorem requestResume_eq (s : State) :
    requestResume s =
      if s.acq.state = .held ∧ s.acq.request = .none then (plain .ok, setRequest .resume s)
      else if s.acq.state = .running ∧ s.acq.request = .hold then (plain .ok, setRequest .none s)
      else (plain .already, s) := by
  unfold requestResume
  split
  next hst hrq => simp [hst, hrq]
  next hst hrq => simp [hst, hrq]
  next hset hcancel => rw [if_neg (not_and.2 hset), if_neg (not_and.2 hcancel)]

/-- Settles O29: each branch of the tables of R145 and R146 leaves list and table alone, so its result is
answered on the settled list. -/
theorem holdAndResumeAreAnswered : Obligations.HoldAndResumeAreAnswered := by
  intro s c hf hs
  constructor
  · intro ht
    have hreq := requestHold_eq (released s)
    rw [released_acq] at hreq
    split_ifs with hrunning hheld
    · rw [if_pos hrunning] at hreq
      exact commandedRequest_answered (t := setRequest .hold s) hf ht hreq (listSettled_of_same hs rfl rfl)
    · rw [if_neg hrunning, if_pos hheld] at hreq
      exact commandedRequest_answered (t := setRequest .none s) hf ht hreq (listSettled_of_same hs rfl rfl)
    · rw [if_neg hrunning, if_neg hheld] at hreq
      exact commandedRequest_answered hf ht hreq hs
  · intro ht
    have hreq := requestResume_eq (released s)
    rw [released_acq] at hreq
    split_ifs with hheld hrunning
    · rw [if_pos hheld] at hreq
      exact commandedRequest_answered (t := setRequest .resume s) hf ht hreq (listSettled_of_same hs rfl rfl)
    · rw [if_neg hheld, if_pos hrunning] at hreq
      exact commandedRequest_answered (t := setRequest .none s) hf ht hreq (listSettled_of_same hs rfl rfl)
    · rw [if_neg hheld, if_neg hrunning] at hreq
      exact commandedRequest_answered hf ht hreq hs

/-! ### Entry into DISARMED (R137, R148) -/

section
variable (s : State)

theorem adoptStaged_staged : (adoptStaged s).maps.staged = none := by
  unfold adoptStaged
  split
  next h => exact h
  next => rfl

theorem adoptStaged_live : (adoptStaged s).maps.live = s.maps.staged.orElse fun _ => s.maps.live := by
  unfold adoptStaged
  split
  next h => rw [h]; rfl
  next h => rw [h]; rfl

/-- A map that becomes live clears the Line Ring itself; with none staged the ring stays clear. -/
theorem adoptStaged_bindings (h : s.ring.bindings = []) : (adoptStaged s).ring.bindings = [] := by
  unfold adoptStaged
  split
  next => exact h
  next => rfl

theorem adoptStaged_slots (h : s.ring.slots = Lanes.every []) : (adoptStaged s).ring.slots = Lanes.every [] := by
  unfold adoptStaged
  split
  next => exact h
  next => rfl

@[simp] theorem enterDisarmed_acq : (enterDisarmed s).acq = { s.acq with state := .disarmed, request := .none } := by
  simp [enterDisarmed, setAcq]

@[simp] theorem enterDisarmed_tracker :
    (enterDisarmed s).tracker = { Tracker.initial with markLevel := s.tracker.markLevel } := by
  simp [enterDisarmed, trackerIdle, Tracker.initial]

@[simp] theorem enterDisarmed_bindings : (enterDisarmed s).ring.bindings = [] := by
  rw [enterDisarmed, raise_ring, adoptStaged_bindings _ (clearRing_bindings _)]

@[simp] theorem enterDisarmed_slots : (enterDisarmed s).ring.slots = Lanes.every [] := by
  rw [enterDisarmed, raise_ring, adoptStaged_slots _ (clearRing_slots _)]

@[simp] theorem enterDisarmed_staged : (enterDisarmed s).maps.staged = none := by
  simp [enterDisarmed, adoptStaged_staged]

@[simp] theorem enterDisarmed_live :
    (enterDisarmed s).maps.live = s.maps.staged.orElse fun _ => s.maps.live := by
  simp [enterDisarmed, adoptStaged_live]

@[simp] theorem enterDisarmed_attention :
    (enterDisarmed s).attention = { s.attention with causes := s.attention.causes ||| 4096 } := by
  have hset : causeSet .runEnded = 4096 := by decide
  simp [enterDisarmed, raise, hset]

@[simp] theorem enterDisarmed_table : (enterDisarmed s).table = s.table := by simp [enterDisarmed]
@[simp] theorem enterDisarmed_list : (enterDisarmed s).list = s.list := by simp [enterDisarmed]
@[simp] theorem enterDisarmed_counters : (enterDisarmed s).counters = s.counters := by simp [enterDisarmed]
@[simp] theorem enterDisarmed_strobe : (enterDisarmed s).strobe = s.strobe := by simp [enterDisarmed]
@[simp] theorem enterDisarmed_encoder : (enterDisarmed s).encoder = s.encoder := by simp [enterDisarmed]
@[simp] theorem enterDisarmed_outlet : (enterDisarmed s).outlet = s.outlet := by simp [enterDisarmed]

end

/-! ### DISARM (R147) -/

theorem requestDisarm_of_already {s : State} (h : s.acq.state = .disarmed ∨ s.acq.state = .draining) :
    requestDisarm s = (plain .already, s) := by
  unfold requestDisarm
  rcases h with h | h <;> rw [h]

/-- In RUNNING and HELD the table decides; the result data number the state entered. -/
theorem requestDisarm_of_run {s : State} (h : s.acq.state = .running ∨ s.acq.state = .held) :
    requestDisarm s =
      if s.table.entries = [] then ({ code := .ok, data := [0] }, enterDisarmed s)
      else ({ code := .ok, data := [3] }, setAcq .draining .none s) := by
  unfold requestDisarm
  rcases h with h | h <;> rw [h] <;> rfl

/-- Settles O30, by the three rows of the table of R147; the fields after an immediate end are those that entry
into DISARMED gives. -/
theorem disarmDrainsOrEnds : Obligations.DisarmDrainsOrEnds := by
  intro s c hf hs ht
  refine ⟨fun hstate => ?already, fun hstate hentries => ?drains, fun hstate hentries => ?ends⟩
  case already =>
    exact commandedRequest_answered hf ht (requestDisarm_of_already (s := released s) hstate) hs
  case drains =>
    have hreq := requestDisarm_of_run (s := released s) hstate
    rw [released_table, if_neg hentries] at hreq
    exact commandedRequest_answered (t := setAcq .draining .none s) hf ht hreq (listSettled_of_same hs rfl rfl)
  case ends =>
    have hreq := requestDisarm_of_run (s := released s) hstate
    rw [released_table, if_pos hentries] at hreq
    have hsettled : ListSettled (enterDisarmed (released s)) :=
      listSettled_of_same hs (enterDisarmed_list _) (enterDisarmed_table _)
    refine ⟨_, commandedRequest_responds hf ht hreq, ?_⟩
    rw [respond_of_settled hsettled]
    simp [released]

/-! ### A boundary decision in an empty table (R46, R47, R84) -/

theorem cutOver_of_noneStaged {s : State} (h : s.maps.staged = none) : cutOver s = s := by
  simp [cutOver, h]

theorem endNewest_of_noEntries (row : Nat) (k : Kind) {s : State} (h : s.table.entries = []) :
    endNewest row k s = s := by
  simp [endNewest, newestEntry, h]

theorem reportEmpty_of_not_draining {s : State} (h : s.acq.state ≠ .draining) : reportEmpty s = s := by
  simp [reportEmpty, h]

/-- An empty table takes the new entry with the next sequence number. -/
theorem openRepeat_of_noEntries (row : Nat) (k : Kind) (m : SteeringMap) {s : State} (h : s.table.entries = []) :
    openRepeat row k m s =
      { s with table :=
          { s.table with
            nextKey := s.table.nextKey + 1
            entries := [newEntry s.table.nextKey row k s.table.nextSeq m]
            nextSeq := s.table.nextSeq + 1 } } := by
  simp [openRepeat, h, Config.tableEntries]

/-- With no map staged, no repeat in the table and no request pending, a decision in RUNNING sets the next window
and opens a repeat, and does nothing else. -/
theorem decideBoundary_of_noEntries (b : Nat) (k : Kind) {m : SteeringMap} {s : State}
    (hstaged : s.maps.staged = none) (hlive : s.maps.live = some m) (hentries : s.table.entries = [])
    (hstate : s.acq.state = .running) (hrequest : s.acq.request = .none) :
    decideBoundary b k s = openRepeat b k m (setWindow m b s) := by
  have hacq : setAcq .running .none (setWindow m b s) = setWindow m b s := by
    rw [← hstate, ← hrequest]
    rfl
  have hend : endNewest b k (setWindow m b s) = setWindow m b s := endNewest_of_noEntries b k hentries
  have hrunning : (openRepeat b k m (setWindow m b s)).acq.state ≠ .draining := by
    rw [openRepeat_of_noEntries b k m (s := setWindow m b s) hentries]
    simp [hstate]
  simp only [decideBoundary, cutOver_of_noneStaged hstaged, hlive, hstate, hrequest, openingRule, hacq, hend, if_true]
  exact reportEmpty_of_not_draining hrunning

/-! ### The begin of a run (R33, R38, R46, R66, R67, R102, R142) -/

/-- The values at arming; the tracker's are those of R38. -/
theorem armBlocks_eq (m : SteeringMap) (s : State) :
    armBlocks m s =
      { s with
        acq := { s.acq with state := .running, request := .none }
        encoder := { s.encoder with position := 0, highWater := 0, reverseFlag := false }
        strobe := { s.strobe with phase := 0, nextStrobe := 0, issueIndex := 0, lastIssue := none }
        ring :=
          { bindings := []
            slots := Lanes.every []
            step := Lanes.ofFn fun l => if (m.lanes.get l).isSome then .inStep else .off
            mismatches := Lanes.every 0 }
        table := { s.table with entries := [], nextSeq := 0, droppedBefore := 0 }
        tracker := (armTracker m s).tracker } := by
  unfold armBlocks armTracker
  cases m.mode <;> rfl

theorem beginRun_of_track {m : SteeringMap} (hmode : m.mode = .track) (s : State) :
    beginRun m s = armBlocks m s := by
  rw [beginRun, hmode]

/-- In FIXED mode the decision at row M opens the first repeat (R46). -/
theorem beginRun_of_fixed {m : SteeringMap} {s : State} (hmode : m.mode = .fixed) (hstaged : s.maps.staged = none)
    (hlive : s.maps.live = some m) :
    beginRun m s =
      { setWindow m m.M (armBlocks m s) with table :=
          { s.table with
            nextKey := s.table.nextKey + 1
            entries := [newEntry s.table.nextKey m.M .fixed 0 m]
            nextSeq := 1
            droppedBefore := 0 } } := by
  have hmaps : (armBlocks m s).maps = s.maps := by rw [armBlocks_eq]
  have hentries : (armBlocks m s).table.entries = [] := by rw [armBlocks_eq]
  have hdecided :
      decideBoundary m.M .fixed (armBlocks m s) = openRepeat m.M .fixed m (setWindow m m.M (armBlocks m s)) :=
    decideBoundary_of_noEntries m.M .fixed (hmaps ▸ hstaged) (hmaps ▸ hlive) hentries rfl rfl
  rw [beginRun, hmode, hdecided, openRepeat_of_noEntries m.M .fixed m (s := setWindow m m.M (armBlocks m s)) hentries,
    armBlocks_eq]
  rfl

/-- The mode of the map shows in the tracker and in the Repeat Table only. -/
theorem beginRun_eq {m : SteeringMap} {s : State} (hstaged : s.maps.staged = none) (hlive : s.maps.live = some m) :
    beginRun m s =
      { armBlocks m s with tracker := (beginRun m s).tracker, table := (beginRun m s).table } := by
  cases hmode : m.mode with
  | track => rw [beginRun_of_track hmode]
  | fixed =>
    rw [beginRun_of_fixed hmode hstaged hlive]
    rfl

theorem beginRun_list {m : SteeringMap} {s : State} (hstaged : s.maps.staged = none) (hlive : s.maps.live = some m) :
    (beginRun m s).list = s.list := by
  rw [beginRun_eq hstaged hlive, armBlocks_eq]

theorem beginRun_droppedBefore {m : SteeringMap} {s : State} (hstaged : s.maps.staged = none)
    (hlive : s.maps.live = some m) : (beginRun m s).table.droppedBefore = 0 := by
  cases hmode : m.mode with
  | track => rw [beginRun_of_track hmode, armBlocks_eq]
  | fixed => rw [beginRun_of_fixed hmode hstaged hlive]

/-- In TRACK mode the run begins with a search and no repeat. -/
theorem beginRun_track_tracker {m : SteeringMap} (hmode : m.mode = .track) (s : State) :
    (beginRun m s).tracker =
      { Tracker.initial with state := .search, markLevel := s.tracker.markLevel, searchStart := some 0 } := by
  rw [beginRun_of_track hmode, armBlocks_eq, armTracker, hmode]
  rfl

/-- In FIXED mode the tracker is LOCKED and expects the boundary after row M. -/
theorem beginRun_fixed_tracker {m : SteeringMap} {s : State} (hmode : m.mode = .fixed)
    (hstaged : s.maps.staged = none) (hlive : s.maps.live = some m) :
    (beginRun m s).tracker =
      { Tracker.initial with
        state := .locked
        markLevel := s.tracker.markLevel
        expected := some (m.M + m.N)
        halfWidth := some m.W
        decisionPoint := some (m.M + m.N - m.M) } := by
  rw [beginRun_of_fixed hmode hstaged hlive]
  simp [setWindow, armBlocks_eq, armTracker, hmode, Tracker.initial]

/-! ### ARM (R142) -/

theorem requestArm_of_noMap {s : State} (hstate : s.acq.state = .disarmed) (hlive : s.maps.live = none) :
    requestArm s = (plain .noMap, s) := by
  rw [requestArm, hstate, hlive]

theorem requestArm_of_map {m : SteeringMap} {s : State} (hstate : s.acq.state = .disarmed)
    (hlive : s.maps.live = some m) : requestArm s = (plain .ok, beginRun m s) := by
  rw [requestArm, hstate, hlive]

theorem requestArm_of_armed {s : State} (hstate : s.acq.state ≠ .disarmed) : requestArm s = (plain .busy, s) := by
  unfold requestArm
  split
  next h _ => exact absurd h hstate
  next h _ => exact absurd h hstate
  next => rfl

/-- Settles O31, by the three rows of the table of R142; in the last, what both modes share stands in `beginRun_eq`
and `armBlocks_eq`, and the tracker and the table are taken mode by mode. -/
theorem armBeginsTheRun : Obligations.ArmBeginsTheRun := by
  intro s c hf hs ht
  refine ⟨fun hstate hlive => ?noMap, fun hstate => ?busy, fun m hstate hlive hstaged hentries => ?run⟩
  case noMap =>
    exact commandedRequest_answered hf ht (requestArm_of_noMap (s := released s) hstate hlive) hs
  case busy =>
    exact commandedRequest_answered hf ht (requestArm_of_armed (s := released s) hstate) hs
  case run =>
    have hreq := requestArm_of_map (s := released s) hstate hlive
    have hlist : (beginRun m (released s)).list = s.list := beginRun_list (s := released s) hstaged hlive
    have hsettled : ListSettled (beginRun m (released s)) := listSettled_of_noEntries hs hentries hlist
    refine ⟨_, commandedRequest_responds hf ht hreq, ?_⟩
    have hdropped : (beginRun m (released s)).table.droppedBefore = 0 :=
      beginRun_droppedBefore (s := released s) hstaged hlive
    have hshared := beginRun_eq (s := released s) hstaged hlive
    rw [armBlocks_eq] at hshared
    rw [respond_of_settled hsettled, hlist, hshared]
    refine ⟨rfl, rfl, rfl, rfl, rfl, rfl, Lanes.get_ofFn _, hdropped, rfl, rfl, rfl, rfl, rfl, rfl, rfl, rfl,
      ?track, ?fixed⟩
    case track =>
      intro hmode
      refine ⟨beginRun_track_tracker hmode _, ?_⟩
      simp [beginRun_of_track hmode, armBlocks_eq]
    case fixed =>
      intro hmode
      refine ⟨beginRun_fixed_tracker (s := released s) hmode hstaged hlive, ?_⟩
      rw [beginRun_of_fixed (s := released s) hmode hstaged hlive]
      exact ⟨rfl, _, rfl, rfl, rfl, rfl, rfl, rfl, rfl⟩

end Sys2Proof.AcquisitionProofs
end

section
/-! SUPPORT and PROOFS. The mailbox commands that FAULTED refuses (chapter 11): how such a command is answered, and
ACK and SET_MASK with the attention line that follows them. -/

namespace Sys2Proof.MailboxProofs

open Sys2Proof Sys2Proof.Machine Sys2Proof.AcquisitionProofs

/-! ### Carrying out a mailbox command (R158) -/

section
variable {s t : State} {c : TakenCommand} {code : Byte} {f : TakenCommand → State → State} {r : ResultCode}
  {d : List Byte}

/-- The row of the command taken carries it out on the state that no longer holds it. -/
theorem carryOut_of_taken (ht : Taken s c code) : unlessReset (carryOut code f) s = .next (f c (released s)) := by
  obtain ⟨hawake, htaken, hcode⟩ := ht
  have hcarried : carryOut code f s = f c (released s) := by
    simp only [carryOut, htaken, hcode, if_true]
    rfl
  rw [unlessReset, hawake, if_neg Bool.false_ne_true, hcarried]

/-- Out of FAULTED, a command that writes `t` and responds, on a list that is settled then, has its response at the
tail of the list. -/
theorem refusedIfFaulted_answered (hf : s.profile.faulted = false) (ht : Taken s c code)
    (hr : f c (released s) = respond c.seq c.code r d (released t)) (hs : ListSettled t) :
    unlessReset (carryOut code (refusedIfFaulted f)) s = .next (answered c r d t) := by
  have hsettled : ListSettled (released t) := listSettled_of_same hs rfl rfl
  have hallowed : refusedIfFaulted f c (released s) = f c (released s) :=
    if_neg (ne_true_of_eq_false hf)
  rw [carryOut_of_taken ht, hallowed, hr, respond_of_settled hsettled]
  rfl

end

/-! ### A set of causes as bytes (R162, R169) -/

theorem leBytes_two (v : Nat) : leBytes 2 v = [BitVec.ofNat 8 v, BitVec.ofNat 8 (v / 256)] := by
  simp [leBytes, List.range_succ, Nat.shiftRight_eq_div_pow]

/-- The set parameter is the low 13 bits of its two bytes, bits 13 to 15 naming no cause. -/
theorem paramSet_eq {c : TakenCommand} {b0 b1 : Byte} {rest : List Byte} (hp : c.params = b0 :: b1 :: rest) :
    paramSet c = BitVec.setWidth 13 (b1 ++ b0) := by
  have hvalue : field c.params 0 2 = (b1 ++ b0).toNat := by
    rw [BitVec.toNat_append, ← Nat.shiftLeft_add_eq_or_of_lt b0.isLt, Nat.shiftLeft_eq]
    simp only [hp, field, leNat, List.drop_zero, List.take_succ_cons, List.take_zero]
    omega
  rw [paramSet, hvalue, BitVec.ofNat_toNat]

/-! ### The attention line (R163) -/

/-- Of an awake bridge the line is high exactly when its assertion and the polarity ACTIVE_HIGH agree. -/
theorem attentionLineHigh_iff {s : State} (h : Awake s) :
    attentionLineHigh s = true ↔
      (s.attention.causes &&& s.attention.mask ≠ 0 ↔ s.profile.inForce.activeHigh = true) := by
  have hreset : s.resetLine = false := h
  rw [attentionLineHigh, attentionAsserted, hreset, Bool.false_or, beq_iff_eq, Bool.eq_iff_iff, decide_eq_true_iff]

/-! ### ACK and SET_MASK (R160, R161) -/

/-- Settles O37: each command writes one of the two sets, which the list does not depend on, so its response stands
at the tail; the line then takes its level from the sets as written. -/
theorem ackAndSetMaskAreAnswered : Obligations.AckAndSetMaskAreAnswered := by
  intro s c b0 b1 rest hf hs hp
  constructor
  · intro ht
    have htake :
        takeAck c (released s) =
          respond c.seq c.code .ok (leBytes 2 (s.attention.causes &&& ~~~paramSet c).toNat)
            (released { s with attention := { s.attention with causes := s.attention.causes &&& ~~~paramSet c } }) :=
      rfl
    rw [paramSet_eq hp, leBytes_two] at htake
    exact ⟨_, _, rfl, refusedIfFaulted_answered hf ht htake (listSettled_of_same hs rfl rfl), rfl,
      attentionLineHigh_iff ht.1⟩
  · intro ht
    have htake :
        takeSetMask c (released s) =
          respond c.seq c.code .ok (leBytes 2 s.attention.mask.toNat)
            (released { s with attention := { s.attention with mask := paramSet c } }) :=
      rfl
    rw [paramSet_eq hp, leBytes_two] at htake
    exact ⟨_, refusedIfFaulted_answered hf ht htake (listSettled_of_same hs rfl rfl), rfl,
      attentionLineHigh_iff ht.1⟩

end Sys2Proof.MailboxProofs
end

section
/-! SUPPORT and PROOFS. What a part of a run can do, said once: the moves of the Line Ring (chapter 4), the moves of
the run as a whole (chapters 3, 4, 6, 8 and 10), and how each shared operation is a sequence of them. The invariants
and the frames of the commands are read off the moves. -/

namespace Sys2Proof.RunProofs

open Sys2Proof Sys2Proof.Machine Sys2Proof.AcquisitionProofs

/-! ### Moves of the Line Ring -/

/-- A map is live, and the bridge is armed or has a slot record bound. A bridge quiet in DISARMED is not so. -/
def Running (s : State) : Prop :=
  s.maps.live ≠ none ∧ (s.acq.state ≠ .disarmed ∨ s.ring.slots ≠ Lanes.every [])

/-- A change of an entry that leaves alone what the internal write list and the Ring Unit go by. -/
structure Bookkeeping (f : Entry → Entry) : Prop where
  key : ∀ e, (f e).key = e.key
  state : ∀ e, (f e).state = e.state
  buffer : ∀ e, (f e).buffer = e.buffer
  descIndex : ∀ e, (f e).descIndex = e.descIndex

theorem bookkeeping_updateCounts (l : Lane) (f : LaneCounts → LaneCounts) : Bookkeeping (updateCounts l f) :=
  ⟨fun _ => rfl, fun _ => rfl, fun _ => rfl, fun _ => rfl⟩

theorem bookkeeping_countSkipped (l : Lane) (b : Bool) : Bookkeeping (countSkipped l b) :=
  ⟨fun _ => rfl, fun _ => rfl, fun _ => rfl, fun _ => rfl⟩

theorem bookkeeping_fillLost : Bookkeeping fun e => { e with fillLost := true } :=
  ⟨fun _ => rfl, fun _ => rfl, fun _ => rfl, fun _ => rfl⟩

theorem bookkeeping_endEntry (row : Nat) (k : Kind) : Bookkeeping (endEntry row k) := by
  constructor <;> intro e <;> unfold endEntry <;> split <;> rfl

/-- One move of the Line Ring: a flag, a count, a slot record or a binding written, a fill that joins the list, a lane
put OUT_OF_STEP, or a free value taken. -/
inductive LineMove : State → State → Prop
  | raise (c : Cause) (s : State) : LineMove s (Machine.raise c s)
  | lose (s : State) : LineMove s (bump .fillsLost s)
  | choose (cs : List Nat) (n : Nat) (s : State) : LineMove s { s with choices := cs, choiceCount := n }
  | counts (key : Nat) {f : Entry → Entry} (s : State) (hf : Bookkeeping f) : LineMove s (updateEntry key f s)
  | slot (l : Lane) (i : Nat) (r : SlotRecord) {s : State} (h : Running s) : LineMove s (setSlot l i r s)
  | binding (i : Nat) (v : BitVec 48) {s : State} (h : Running s) :
      LineMove s { s with ring := { s.ring with bindings := slotPut i v s.ring.bindings } }
  | fill (f : FillJob) {s : State} (h : Running s) (hn : fillCount s < 240) : LineMove s (enqueue (.fill f) s)
  | outOfStep (l : Lane) (s : State) :
      LineMove s { s with ring := { s.ring with step := s.ring.step.set l .outOfStep } }

/-- Moves of the Line Ring one after another. -/
abbrev LineMoves : State → State → Prop := Relation.ReflTransGen LineMove

/-- What the moves of the Line Ring can write. -/
abbrev LineFrame (s t : State) : Prop :=
  t =
    { s with
      ring := t.ring
      table := { s.table with entries := t.table.entries }
      list := t.list
      attention := { s.attention with causes := t.attention.causes }
      counters := { s.counters with fillsLost := t.counters.fillsLost }
      choices := t.choices
      choiceCount := t.choiceCount }

theorem LineFrame.trans {s t u : State} (hst : LineFrame s t) (htu : LineFrame t u) : LineFrame s u := by
  rw [htu, hst]

theorem enqueue_eq (j : Job) (s : State) : enqueue j s = { s with list := (enqueue j s).list } := by
  unfold enqueue settleList
  split <;> rfl

theorem LineMove.frame {s t : State} (h : LineMove s t) : LineFrame s t := by
  cases h with
  | fill f _ _ => rw [LineFrame, enqueue_eq]
  | _ => rfl

theorem LineMoves.frame {s t : State} (h : LineMoves s t) : LineFrame s t := by
  induction h with
  | refl => rfl
  | tail _ hlast ih => exact ih.trans hlast.frame

section
variable {s t : State} (h : LineMoves s t)
include h

theorem LineMoves.acq : t.acq = s.acq := by rw [h.frame]
theorem LineMoves.maps : t.maps = s.maps := by rw [h.frame]
theorem LineMoves.outlet : t.outlet = s.outlet := by rw [h.frame]
theorem LineMoves.strobe : t.strobe = s.strobe := by rw [h.frame]
theorem LineMoves.tracker : t.tracker = s.tracker := by rw [h.frame]
theorem LineMoves.clock : t.clock = s.clock := by rw [h.frame]

end

/-! ### Running bridges -/

theorem slotPut_ne_nil {α : Type} (k : Nat) (v : α) (xs : List (Nat × α)) : slotPut k v xs ≠ [] := by
  cases xs with
  | nil => simp [slotPut]
  | cons p xs =>
    unfold slotPut
    split
    · simp
    · split <;> simp

theorem setSlot_slots_ne (l : Lane) (i : Nat) (r : SlotRecord) (s : State) :
    (setSlot l i r s).ring.slots ≠ Lanes.every [] := by
  intro h
  have hl : (setSlot l i r s).ring.slots.get l = [] := by rw [h, Lanes.get_every]
  rw [setSlot, Lanes.get_set_same] at hl
  exact slotPut_ne_nil _ _ _ hl

/-- A slot record that is OPEN is bound. -/
theorem running_of_opened {s : State} {l : Lane} {i : Nat} (hm : s.maps.live ≠ none)
    (h : (slotRecord s l i).state = .opened) : Running s := by
  refine ⟨hm, .inr fun hs => ?_⟩
  simp [slotRecord, hs, slotFind, unboundRecord] at h

theorem LineMove.running {s t : State} (h : LineMove s t) (hs : Running s) : Running t := by
  cases h with
  | slot l i r _ => exact ⟨hs.1, .inr (setSlot_slots_ne l i r s)⟩
  | fill f _ _ => simpa [Running] using hs
  | _ => exact hs

theorem LineMoves.running {s t : State} (h : LineMoves s t) (hs : Running s) : Running t := by
  induction h with
  | refl => exact hs
  | tail _ hlast ih => exact hlast.running ih

/-! ### The operations of the Line Ring as moves -/

/-- Things done in an open order are done in some order, after free values are taken. -/
theorem forEachOpenly_eq {α : Type} (offers : α → Bool) (xs : List α) (f : α → State → State) (s : State) :
    ∃ (order : List α) (cs : List Nat) (n : Nat), order.Perm xs ∧
      forEachOpenly offers xs f s =
        order.foldl (fun t x => f x t) { s with choices := cs, choiceCount := n } := by
  have hloud := freeOrder_perm (xs.filter offers) s
  refine ⟨xs.filter (fun x => !offers x) ++ (freeOrder (xs.filter offers) s).1, (freeOrder (xs.filter offers) s).2.choices,
    (freeOrder (xs.filter offers) s).2.choiceCount, ?_, ?_⟩
  · exact ((List.Perm.append_left _ hloud).trans List.perm_append_comm).trans (List.filter_append_perm offers xs)
  · rw [← freeOrder_state]
    rfl

theorem foldl_lineMoves {α : Type} {f : α → State → State} (hf : ∀ x t, Running t → LineMoves t (f x t))
    (xs : List α) {s : State} (hs : Running s) : LineMoves s (xs.foldl (fun t x => f x t) s) := by
  induction xs generalizing s with
  | nil => exact .refl
  | cons x xs ih =>
    have hx := hf x s hs
    exact hx.trans (ih (hx.running hs))

theorem forEachOpenly_moves {α : Type} (offers : α → Bool) (xs : List α) {f : α → State → State}
    (hf : ∀ x t, Running t → LineMoves t (f x t)) {s : State} (hs : Running s) :
    LineMoves s (forEachOpenly offers xs f s) := by
  obtain ⟨order, cs, n, -, heq⟩ := forEachOpenly_eq offers xs f s
  rw [heq]
  have hchoose := Relation.ReflTransGen.single (LineMove.choose cs n s)
  exact hchoose.trans (foldl_lineMoves hf order (LineMoves.running hchoose hs))

section
variable {s : State} (hs : Running s)
include hs

theorem retireLine_moves (l : Lane) (i : Nat) : LineMoves s (retireLine l i s) := by
  unfold retireLine
  dsimp only
  have hslot := Relation.ReflTransGen.single (LineMove.slot l i
    { slotRecord s l i with
      state := .retired
      stamp := if (slotRecord s l i).stamp = .unchecked then .skipped else (slotRecord s l i).stamp } hs)
  split
  next k _ => exact hslot.tail (.counts k _ (bookkeeping_updateCounts _ _))
  next => exact hslot

theorem offerFill_moves (e : Entry) (row c len : Nat) (v : List Byte) : LineMoves s (offerFill e row c len v s) := by
  rcases offerFill_cases e row c len v s with ⟨hn, h⟩ | ⟨-, h⟩ <;> rw [h]
  · exact .single (.fill _ hs hn)
  · exact ((Relation.ReflTransGen.single (.counts e.key s bookkeeping_fillLost)).tail (.lose _)).tail
      (.raise .fillLost _)

theorem fillLine_moves (m : SteeringMap) (l : Lane) (i : Nat) (e : Entry) (y1 y2 : Nat) :
    LineMoves s (fillLine m l i e y1 y2 s) := by
  unfold fillLine
  dsimp only
  split
  · have hslot := Relation.ReflTransGen.single (LineMove.slot l i { slotRecord s l i with fillMade := true } hs)
    exact hslot.trans (offerFill_moves (LineMoves.running hslot hs) _ _ _ _ _)
  · exact .refl

theorem forceRetire_moves (m : SteeringMap) (short : Bool) (l : Lane) (i : Nat) :
    LineMoves s (forceRetire m short l i s) := by
  unfold forceRetire
  dsimp only
  split
  next => exact retireLine_moves hs l i
  next e _ =>
    have hfill := fillLine_moves hs m l i e
      (max (slotRecord s l i).fillMark (keptStart m (linePlacement m l (some e))))
      (keptEnd m (linePlacement m l (some e)))
    split
    · have hshort := hfill.tail (.counts e.key _ (bookkeeping_updateCounts l fun c => { c with shortLines := satInc c.shortLines }))
      exact hshort.trans (retireLine_moves (LineMoves.running hshort hs) l i)
    · exact hfill.trans (retireLine_moves (LineMoves.running hfill hs) l i)

theorem bindLane_moves (m : SteeringMap) (k i : Nat) (l : Lane) : LineMoves s (bindLane m k i l s) := by
  unfold bindLane
  split
  next => exact .refl
  next lm _ =>
    dsimp only
    have hgive : LineMoves s (if (slotRecord s l i).state = .opened then forceRetire m true l i s else s) := by
      split
      · exact forceRetire_moves hs m true l i
      · exact .refl
    revert hgive
    generalize (if (slotRecord s l i).state = .opened then forceRetire m true l i s else s) = s1
    intro hgive
    have hbound := hgive.tail (.slot l i
      { state := .opened, fillMark := 0, row := (bindingRow s1 k lm.lag).1, ref := some (bindingRow s1 k lm.lag).2,
        stamp := .unchecked, fillMade := false } (hgive.running hs))
    have hrun := LineMoves.running hbound hs
    split
    · split
      · exact hbound.trans (retireLine_moves hrun l i)
      next e _ =>
        have hfill := hbound.trans (fillLine_moves hrun m l i e (keptStart m (linePlacement m l (some e)))
          (keptEnd m (linePlacement m l (some e))))
        exact hfill.trans (retireLine_moves (LineMoves.running hfill hs) l i)
    · exact hbound

theorem bindStrobe_moves (m : SteeringMap) (i : BitVec 48) (k : Nat) : LineMoves s (bindStrobe m i k s) := by
  have hbind := Relation.ReflTransGen.single (LineMove.binding (i.toNat % m.S) i hs)
  exact hbind.trans (forEachOpenly_moves _ _ (fun l t ht => bindLane_moves ht m k _ l) (LineMoves.running hbind hs))

theorem skipLane_moves (m : SteeringMap) (k : Nat) (l : Lane) : LineMoves s (skipLane m k l s) := by
  unfold skipLane
  split
  next => exact .refl
  next e _ =>
    dsimp only
    have hcount := Relation.ReflTransGen.single
      (LineMove.counts e.key s (bookkeeping_countSkipped l (entryLive e)))
    split
    · exact hcount.trans (offerFill_moves (LineMoves.running hcount hs) _ _ _ _ _)
    · exact hcount

theorem skipRows_moves (m : SteeringMap) (k : Nat) : LineMoves s (skipRows m k s) :=
  forEachOpenly_moves _ _ (fun l _ ht => skipLane_moves ht m k l) hs

theorem goOutOfStep_moves (m : SteeringMap) (l : Lane) : LineMoves s (goOutOfStep m l s) := by
  have hstep := (Relation.ReflTransGen.single (LineMove.outOfStep l s)).tail (.raise .laneFault _)
  exact hstep.trans (forEachOpenly_moves _ _ (fun i _ ht => forceRetire_moves ht m false l i)
    (LineMoves.running hstep hs))

end

/-! ### The ends of entries -/

/-- One entry closes or is freed, its rows all retired (R93, R94, R96). -/
inductive EndMove : State → State → Prop
  | close {e : Entry} {m : SteeringMap} {s : State} (hf : findEntry s e.key = some e) (hm : s.maps.live = some m)
      (hr : allRetired m e = true) (he : e.state = .opened) : EndMove s (closeEntry e s)
  | free {e : Entry} {m : SteeringMap} {s : State} (hf : findEntry s e.key = some e) (hm : s.maps.live = some m)
      (hr : allRetired m e = true) (he : e.state = .dropped) : EndMove s (freeEntry e s)

/-- Ends of entries one after another. -/
abbrev EndMoves : State → State → Prop := Relation.ReflTransGen EndMove

theorem testEntry_ends (key : Nat) (s : State) : EndMoves s (testEntry key s) := by
  unfold testEntry
  split
  next e m hf hm =>
    obtain rfl := findEntry_key hf
    split
    next hr =>
      split
      next => exact .refl
      next he => exact .single (.close hf hm hr he)
      next he => exact .single (.free hf hm hr he)
    next => exact .refl
  next => exact .refl

theorem closeTests_ends (s : State) : EndMoves s (closeTests s) := by
  unfold closeTests
  generalize s.table.entries.map Entry.key = ks
  induction ks generalizing s with
  | nil => exact .refl
  | cons k ks ih => exact (testEntry_ends k s).trans (ih _)

/-! ### Moves of the run -/

/-- The entry of an opening operation dropped for its descriptor, before the drop is counted: its record is queued at
once (R87, R120). -/
def faultDropped (key : Nat) (s : State) : State :=
  let s1 := dropState key (setOpening none s)
  match findEntry s1 key with
  | some e => queueRecord e .descriptorFault s1
  | none => s1

/-- The counters that the parts of a run count in. Skipped strobes, absorbed and stray writes are counted beside them. -/
def RunCounter (k : Counter) : Prop :=
  k = .rejectedMarks ∨ k = .strayMarks ∨ k = .busFaults

/-- One move of a run: one of the Line Ring, a re-aimed write, the end of an entry, entry into DISARMED, a part of a
boundary decision, or a part of an opening operation. -/
inductive RunMove : State → State → Prop
  | line {s t : State} (h : LineMove s t) : RunMove s t
  | bump {k : Counter} (s : State) (hk : RunCounter k) : RunMove s (Machine.bump k s)
  | place (w : OutTxn) {s : State} (h : s.outlet.length < 64) : RunMove s (enterOutlet w s)
  | close (b : Buffer) {e : Entry} {s : State} (hf : findEntry s e.key = some e) (he : e.state = .opened)
      (hm : s.maps.live ≠ none) : RunMove s (removeEntry e.key (queueRecord e .clean (bindJobs e.key b s)))
  | free {e : Entry} {s : State} (hf : findEntry s e.key = some e) (he : e.state = .dropped) :
      RunMove s (removeEntry e.key (removeJobs (isFillOf e.key) s))
  | disarm {s : State} (ha : s.acq.state ≠ .disarmed) (he : s.table.entries = []) : RunMove s (enterDisarmed s)
  | abort {s : State} (ha : s.acq.state ≠ .disarmed) : RunMove s (abortTable s)
  | cutOver (s : State) : RunMove s (Machine.cutOver s)
  | track (tr : Tracker) {s : State} (h : s.acq.state ≠ .disarmed ∨ s.tracker.state ≠ .idle)
      (hl : tr.markLevel = s.tracker.markLevel) (hc : s.tracker.coast ≤ 8 → tr.coast ≤ 8) :
      RunMove s { s with tracker := tr }
  | dropQualification (s : State) : RunMove s (Machine.dropQualification s)
  | ruling (s : State) :
      RunMove s
        (setAcq (openingRule s.acq.state s.acq.request).2.1 (openingRule s.acq.state s.acq.request).2.2 s)
  | openRepeat (row : Nat) (k : Kind) (m : SteeringMap) {s : State} (ha : s.acq.state ≠ .disarmed) :
      RunMove s (Machine.openRepeat row k m s)
  | countDrop (s : State) : RunMove s (Machine.countDrop s)
  | beginOpening {e : Entry} {s : State} (h : nextOpening s = some e) :
      RunMove s (setOpening (some { key := e.key, phase := .allowance }) s)
  | askReturnCount {o : Opening} {s : State} (h : s.ringUnit.opening = some o) (hp : o.phase = .allowance)
      (ha : recordAllowance s < 4) :
      RunMove s
        (requestRead .ring (returnCountAddress s) 4 (setOpening (some { o with phase := .returnCount }) s))
  | acceptCount (v : BitVec 32) (s : State) : RunMove s { s with ringUnit := { s.ringUnit with returned := v } }
  | takeDescriptor (m : SteeringMap) {key : Nat} {s : State}
      (h : s.ringUnit.opening = some { key := key, phase := .returnCount }) :
      RunMove s (Machine.takeDescriptor m key s)
  | drop {key : Nat} {s : State} (h : s.ringUnit.opening = some { key := key, phase := .returnCount }) :
      RunMove s (dropState key (setOpening none s))
  | faultDrop {key : Nat} {s : State} (h : s.ringUnit.opening = some { key := key, phase := .descriptor })
      (hm : s.maps.live ≠ none) : RunMove s (faultDropped key s)
  | opened (b : Buffer) {key : Nat} {s : State}
      (h : s.ringUnit.opening = some { key := key, phase := .descriptor }) :
      RunMove s
        (settleList (updateEntry key (fun e => { e with state := .opened, buffer := some b }) (setOpening none s)))
  | endOpening {key : Nat} {s : State} (h : s.ringUnit.opening = some { key := key, phase := .descriptor })
      (hf : findEntry s key = none) : RunMove s (setOpening none s)

/-- Moves of a run one after another. -/
abbrev RunMoves : State → State → Prop := Relation.ReflTransGen RunMove

theorem LineMoves.run {s t : State} (h : LineMoves s t) : RunMoves s t :=
  Relation.ReflTransGen.mono (fun _ _ => RunMove.line) _ _ h

theorem RunMove.raise (c : Cause) (s : State) : RunMove s (Machine.raise c s) := .line (.raise c s)

theorem reportEmpty_moves (s : State) : RunMoves s (reportEmpty s) := by
  unfold reportEmpty
  split
  next h => exact .single (.disarm (by simp [h.1]) h.2)
  next => exact .refl

theorem EndMove.run {s t : State} (h : EndMove s t) : RunMoves s t := by
  cases h with
  | close hf hm _ he =>
    exact (Relation.ReflTransGen.single (.close _ hf he (by simp [hm]))).trans (reportEmpty_moves _)
  | free hf _ _ he => exact (Relation.ReflTransGen.single (.free hf he)).trans (reportEmpty_moves _)

theorem EndMoves.run {s t : State} (h : EndMoves s t) : RunMoves s t := by
  induction h with
  | refl => exact .refl
  | tail _ hlast ih => exact ih.trans hlast.run

theorem closeTests_moves (s : State) : RunMoves s (closeTests s) := (closeTests_ends s).run

/-! ### Boundary decisions as moves -/

theorem endNewest_moves (row : Nat) (k : Kind) (s : State) : RunMoves s (endNewest row k s) := by
  unfold endNewest
  split
  next => exact .refl
  next e _ => exact .single (.line (.counts e.key s (bookkeeping_endEntry row k)))

/-- A repeat opens only while the bridge is armed. -/
theorem openingRule_opens {a : AcqState} {r : Request} (h : (openingRule a r).1 = true) :
    (openingRule a r).2.1 ≠ .disarmed := by
  cases a <;> cases r <;> simp_all [openingRule]

theorem endNewest_acq (row : Nat) (k : Kind) (s : State) : (endNewest row k s).acq = s.acq := by
  unfold endNewest
  split <;> rfl

theorem decideBoundary_moves (b : Nat) (k : Kind) {s : State}
    (h : s.acq.state ≠ .disarmed ∨ s.tracker.state ≠ .idle) : RunMoves s (decideBoundary b k s) := by
  have hcut := Relation.ReflTransGen.single (RunMove.cutOver s)
  unfold decideBoundary
  dsimp only
  split
  next => exact hcut
  next m _ =>
    have hwindow : RunMoves s (setWindow m b (cutOver s)) :=
      hcut.tail (.track _ (by simpa using h) rfl id)
    have hruled := hwindow.tail (.ruling _)
    have hended := hruled.trans (endNewest_moves b k _)
    refine Relation.ReflTransGen.trans ?_ (reportEmpty_moves _)
    split
    next hopens =>
      refine hended.tail (.openRepeat b k m ?_)
      rw [endNewest_acq]
      exact openingRule_opens hopens
    next => exact hended

theorem judgeMark_moves (b : Nat) (s : State) : RunMoves s (judgeMark b s) := by
  have hrelock (h : s.tracker.state ≠ .idle) : RunMoves s (decideBoundary b .mark (relock s)) :=
    (Relation.ReflTransGen.single (RunMove.track (s := s) (relock s).tracker (.inr h) rfl fun _ => by simp [relock])).trans
      (decideBoundary_moves b .mark (s := relock s) (.inr (by simp [relock])))
  have hstray : RunMoves s (bump .strayMarks s) := .single (.bump s (.inr (.inl rfl)))
  unfold judgeMark
  split
  next => exact .refl
  next h =>
    exact (Relation.ReflTransGen.single (RunMove.track (s := s) (endSearch s).tracker (.inr (by simp [h])) rfl fun _ => by simp [endSearch])).trans
      (decideBoundary_moves b .mark (s := endSearch s) (.inr (by simp [endSearch])))
  next h =>
    split
    · exact hrelock (by simp [h])
    · exact hstray
  next h =>
    split
    · exact hrelock (by simp [h])
    · exact hstray

theorem endQualification_moves (m : SteeringMap) (s : State) : RunMoves s (endQualification m s) := by
  unfold endQualification
  split
  next => exact .refl
  next q _ =>
    have hdrop := Relation.ReflTransGen.single (RunMove.dropQualification s)
    dsimp only
    split
    · exact hdrop.trans (judgeMark_moves _ _)
    · exact hdrop.tail (.bump _ (.inl rfl))

theorem watchOf_idle {m : SteeringMap} {s : State} (h : s.tracker.state = .idle) : watchOf m s = .nothing := by
  simp [watchOf, h]

/-- A flywheel decision comes only with the coast count below its limit. -/
theorem watchOf_flywheel {m : SteeringMap} {s : State} {e : Nat} (h : watchOf m s = .flywheel e) :
    s.tracker.coast < 8 := by
  unfold watchOf at h
  dsimp only at h
  split at h
  next => cases h
  next => split at h <;> cases h
  next =>
    split at h
    · cases h
    · split at h <;> cases h
  next => cases h
  next =>
    split at h
    next =>
      split at h
      next =>
        split at h
        next hcoast => exact hcoast
        next => cases h
      next => cases h
    next => cases h

theorem lostDecision_moves (e : Nat) {s : State} (h : s.tracker.state ≠ .idle) : RunMoves s (lostDecision e s) := by
  have hended := (endNewest_moves e .flywheel s).tail (.raise .markFault _)
  have htracker (t : State) (ht : t.tracker = s.tracker) : RunMoves t (reportEmpty
      { t with tracker :=
          { t.tracker with
            state := .search
            qualification := none
            expected := none
            halfWidth := none
            decisionPoint := none
            coast := 0
            searchStart := some t.strobe.nextStrobe.toNat
            searchFault := false } }) :=
    (Relation.ReflTransGen.single (RunMove.track
      { t.tracker with
        state := .search
        qualification := none
        expected := none
        halfWidth := none
        decisionPoint := none
        coast := 0
        searchStart := some t.strobe.nextStrobe.toNat
        searchFault := false } (.inr (by rwa [ht])) rfl fun _ => Nat.zero_le 8)).trans
      (reportEmpty_moves _)
  have hkept : (Machine.raise .markFault (endNewest e .flywheel s)).tracker = s.tracker := by
    unfold endNewest
    split <;> rfl
  unfold lostDecision
  dsimp only
  split
  · exact (hended.tail (.bump _ (.inl rfl))).trans (htracker _ hkept)
  · exact hended.trans (htracker _ hkept)

theorem actOnWatch_moves (m : SteeringMap) (s : State) : RunMoves s (actOnWatch m s) := by
  have hbusy (h : watchOf m s ≠ .nothing) : s.tracker.state ≠ .idle := fun hi => h (watchOf_idle hi)
  unfold actOnWatch
  split
  next => exact .refl
  next h =>
    exact (Relation.ReflTransGen.single (RunMove.track { s.tracker with searchFault := true }
      (.inr (hbusy (by simp [h]))) rfl id)).tail (.raise .markFault _)
  next e h =>
    have hcoast := watchOf_flywheel h
    exact (Relation.ReflTransGen.single (RunMove.track
      { s.tracker with state := .coasting, coast := s.tracker.coast + 1 } (.inr (hbusy (by simp [h]))) rfl
      fun _ => by simpa using hcoast)).trans (decideBoundary_moves e .flywheel (.inr (by simp)))
  next e h => exact lostDecision_moves e (hbusy (by simp [h]))
  next e h => exact decideBoundary_moves e .fixed (.inr (hbusy (by simp [h])))

theorem abortRun_moves {s : State} (h : s.acq.state ≠ .disarmed) : RunMoves s (abortRun s) := by
  have habort := RunMove.abort h
  refine (Relation.ReflTransGen.single habort).tail (.disarm ?_ rfl)
  have hfold (es : List Entry) (t : State) :
      (es.foldl (fun t e => queueRecord (cancelEnd e) .cancelled t) t).acq = t.acq := by
    induction es generalizing t with
    | nil => rfl
    | cons e es ih => rw [List.foldl_cons, ih]; simp [queueRecord]
  simpa [abortTable, hfold] using h

/-! ### Opening operations as moves -/

theorem pumpOpening_moves (s : State) : RunMoves s (pumpOpening s) := by
  unfold pumpOpening
  split
  next o ho =>
    split
    next h => exact .single (.askReturnCount ho h.1 h.2)
    next => exact .refl
  next => exact .refl

theorem beginOpening_moves (s : State) : RunMoves s (beginOpening s) := by
  unfold beginOpening
  split
  next => exact .refl
  next e he => exact (Relation.ReflTransGen.single (RunMove.beginOpening he)).trans (pumpOpening_moves _)

theorem judgeReturnCount_moves (v : Option (BitVec 32)) (s : State) : RunMoves s (judgeReturnCount v s) := by
  unfold judgeReturnCount
  split
  next => exact (Relation.ReflTransGen.single (RunMove.bump s (.inr (.inr rfl)))).tail (.raise _ _)
  next v =>
    split
    · exact .single (.acceptCount v s)
    · exact .single (.raise _ s)

theorem judgeReturnCount_opening (v : Option (BitVec 32)) (s : State) :
    (judgeReturnCount v s).ringUnit.opening = s.ringUnit.opening := by
  unfold judgeReturnCount
  split
  · rfl
  · split <;> rfl

theorem dropDescriptorFault_eq (key : Nat) (s : State) :
    dropDescriptorFault key s = closeTests (countDrop (faultDropped key s)) := rfl

theorem dropDescriptorFault_moves {key : Nat} {s : State}
    (h : s.ringUnit.opening = some { key := key, phase := .descriptor }) (hm : s.maps.live ≠ none) :
    RunMoves s (dropDescriptorFault key s) := by
  rw [dropDescriptorFault_eq]
  exact ((Relation.ReflTransGen.single (RunMove.faultDrop h hm)).tail (.countDrop _)).trans (closeTests_moves _)

theorem ringReadDone_moves (bytes : Option (List Byte)) (s : State) : RunMoves s (ringReadDone bytes s) := by
  unfold ringReadDone
  split
  next o m ho hm =>
    obtain ⟨key, phase⟩ := o
    split
    next => exact .refl
    next hp =>
      obtain rfl : phase = .returnCount := hp
      have hjudged := judgeReturnCount_moves (bytes.map fun bs => BitVec.ofNat 32 (leNat bs)) s
      have hopening := (judgeReturnCount_opening (bytes.map fun bs => BitVec.ofNat 32 (leNat bs)) s).trans ho
      unfold returnCountDone
      dsimp only
      split
      · exact hjudged.tail (.takeDescriptor m hopening)
      · exact ((hjudged.tail (.drop hopening)).tail (.countDrop _)).trans (closeTests_moves _)
    next hp =>
      obtain rfl : phase = .descriptor := hp
      have hlive : s.maps.live ≠ none := by simp [hm]
      unfold descriptorDone
      split
      next =>
        exact ((Relation.ReflTransGen.single (RunMove.bump s (.inr (.inr rfl)))).tail (.raise .busFault _)).trans
          (dropDescriptorFault_moves ho hlive)
      next bs =>
        split
        next hf => exact .single (.endOpening ho hf)
        next e hf =>
          dsimp only
          split
          · exact (Relation.ReflTransGen.single (RunMove.opened (readDescriptor bs) ho)).trans (closeTests_moves _)
          · exact dropDescriptorFault_moves ho hlive
  next => exact .refl

end Sys2Proof.RunProofs
end

section
/-! SUPPORT and PROOFS. What the moves of a run leave alone, and the ways of the three commands that carry a run: a
piece accounted for (chapter 4), a high-water advance (chapter 2) and an encoder transition. -/

namespace Sys2Proof.RunProofs

open Sys2Proof Sys2Proof.Machine Sys2Proof.AcquisitionProofs

/-! ### What the operations on the write list leave alone -/

theorem settleList_eq (s : State) : settleList s = { s with list := (settleList s).list } := by
  unfold settleList
  split <;> rfl

theorem headLeaves_eq (s : State) : headLeaves s = { s with list := (headLeaves s).list } := by
  unfold headLeaves
  rw [settleList_eq]

theorem removeJobs_eq (p : Job → Bool) (s : State) : removeJobs p s = { s with list := (removeJobs p s).list } := by
  unfold removeJobs
  dsimp only
  rw [settleList_eq]

theorem queueRecord_eq (e : Entry) (st : RecordStatus) (s : State) :
    queueRecord e st s =
      { s with list := (queueRecord e st s).list, table := { s.table with droppedBefore := 0 } } := by
  unfold queueRecord
  rw [enqueue_eq]

theorem queueRecords_eq (st : RecordStatus) (f : Entry → Entry) (es : List Entry) (s : State) :
    es.foldl (fun t e => queueRecord (f e) st t) s =
      { s with
        list := (es.foldl (fun t e => queueRecord (f e) st t) s).list
        table :=
          { s.table with
            droppedBefore := (es.foldl (fun t e => queueRecord (f e) st t) s).table.droppedBefore } } := by
  induction es generalizing s with
  | nil => rfl
  | cons e es ih =>
    rw [List.foldl_cons, ih, queueRecord_eq]

theorem abortTable_eq (s : State) :
    abortTable s =
      { s with
        list := (abortTable s).list
        table := { s.table with entries := [], droppedBefore := (abortTable s).table.droppedBefore }
        ringUnit := { s.ringUnit with opening := none } } := by
  unfold abortTable
  dsimp only
  rw [removeJobs_eq, queueRecords_eq]

theorem enterDisarmed_eq (s : State) :
    enterDisarmed s =
      { s with
        acq := { s.acq with state := .disarmed, request := .none }
        tracker := { Tracker.initial with markLevel := s.tracker.markLevel }
        ring := (enterDisarmed s).ring
        maps := (enterDisarmed s).maps
        ringUnit := (enterDisarmed s).ringUnit
        attention := { s.attention with causes := s.attention.causes ||| 4096 } } := by
  have hset : causeSet .runEnded = 4096 := by decide
  unfold enterDisarmed adoptStaged
  split
  · simp [raise, clearRing, trackerIdle, setAcq, Tracker.initial, hset]
  · simp [raise, makeLive, clearRing, trackerIdle, setAcq, Tracker.initial, hset]

theorem cutOver_eq (s : State) : cutOver s = { s with maps := (cutOver s).maps } := by
  unfold cutOver
  split <;> rfl

theorem openRepeat_eq (row : Nat) (k : Kind) (m : SteeringMap) (s : State) :
    openRepeat row k m s =
      { s with
        table := (openRepeat row k m s).table
        attention := { s.attention with causes := (openRepeat row k m s).attention.causes }
        counters := { s.counters with droppedRepeats := (openRepeat row k m s).counters.droppedRepeats } } := by
  unfold openRepeat
  dsimp only
  split <;> rfl

theorem faultDropped_eq (key : Nat) (s : State) :
    faultDropped key s =
      { s with
        list := (faultDropped key s).list
        table := (faultDropped key s).table
        ringUnit := { s.ringUnit with opening := none } } := by
  unfold faultDropped dropState
  dsimp only
  split
  · rw [queueRecord_eq, settleList_eq]
    rfl
  · rw [settleList_eq]
    rfl

/-! ### Counters and causes -/

theorem countersNotBelow_iff (a b : Counters) :
    CountersNotBelow a b ↔
      a.strayWrites.toNat ≤ b.strayWrites.toNat ∧ a.strayReads.toNat ≤ b.strayReads.toNat ∧
        a.absorbedWrites.toNat ≤ b.absorbedWrites.toNat ∧ a.skippedStrobes.toNat ≤ b.skippedStrobes.toNat ∧
        a.rejectedMarks.toNat ≤ b.rejectedMarks.toNat ∧ a.strayMarks.toNat ≤ b.strayMarks.toNat ∧
        a.encoderFaults.toNat ≤ b.encoderFaults.toNat ∧ a.droppedRepeats.toNat ≤ b.droppedRepeats.toNat ∧
        a.fillsLost.toNat ≤ b.fillsLost.toNat ∧ a.busFaults.toNat ≤ b.busFaults.toNat ∧
        a.refusedLine.toNat ≤ b.refusedLine.toNat := by
  simp [CountersNotBelow, counterList]

theorem countersNotBelow_refl (a : Counters) : CountersNotBelow a a := by simp [countersNotBelow_iff]

theorem countersNotBelow_trans {a b c : Counters} (hab : CountersNotBelow a b) (hbc : CountersNotBelow b c) :
    CountersNotBelow a c := by
  rw [countersNotBelow_iff] at *
  omega

theorem satInc_not_below {w : Nat} (x : BitVec w) : x.toNat ≤ (satInc x).toNat := by
  unfold satInc
  split
  · rfl
  next h =>
    have hx : x.toNat ≠ 2 ^ w - 1 := fun h1 => h (BitVec.eq_of_toNat_eq (by rw [h1, BitVec.toNat_allOnes]))
    have hlt := x.isLt
    rcases Nat.eq_zero_or_pos w with rfl | hw
    · omega
    · have hpow : 1 < 2 ^ w := Nat.one_lt_two_pow hw.ne'
      have hone : (1 : BitVec w).toNat = 1 := by simp [Nat.mod_eq_of_lt hpow]
      rw [BitVec.toNat_add, hone, Nat.mod_eq_of_lt (by omega)]
      omega

theorem bump_not_below (k : Counter) (s : State) : CountersNotBelow s.counters (bump k s).counters := by
  rw [countersNotBelow_iff]
  cases k <;> simp [bump, bumpCounters, satInc_not_below]

/-- Every cause pending in s is pending in t. -/
def CausesKept (s t : State) : Prop := s.attention.causes &&& t.attention.causes = s.attention.causes

theorem CausesKept.refl (s : State) : CausesKept s s := by simp [CausesKept]

theorem CausesKept.trans {s t u : State} (hst : CausesKept s t) (htu : CausesKept t u) : CausesKept s u := by
  unfold CausesKept at *
  rw [← hst, BitVec.and_assoc, htu]

theorem causesKept_or {s t : State} {c : BitVec 13} (h : t.attention.causes = s.attention.causes ||| c) :
    CausesKept s t := by
  unfold CausesKept
  rw [h]
  ext i hi
  simp only [BitVec.getElem_and, BitVec.getElem_or]
  cases s.attention.causes[i] <;> simp

theorem causesKept_raise (c : Cause) (s : State) : CausesKept s (raise c s) := causesKept_or rfl

theorem causesKept_of_eq {s t : State} (h : t.attention.causes = s.attention.causes) : CausesKept s t := by
  simp [CausesKept, h]

/-! ### The frame of the run -/

/-- What the moves of a run leave alone: they write the named fields, add to the outlet at its end, and take back no
cause and no count. -/
structure RunFrame (s t : State) : Prop where
  kept :
    t =
      { s with
        outlet := t.outlet
        reads := t.reads
        tracker := { t.tracker with markLevel := s.tracker.markLevel }
        ring := t.ring
        maps := t.maps
        table := t.table
        list := t.list
        ringUnit := t.ringUnit
        acq := { s.acq with state := t.acq.state, request := t.acq.request }
        attention := { s.attention with causes := t.attention.causes }
        counters :=
          { t.counters with
            skippedStrobes := s.counters.skippedStrobes
            absorbedWrites := s.counters.absorbedWrites
            strayWrites := s.counters.strayWrites }
        choices := t.choices
        choiceCount := t.choiceCount }
  outlet : s.outlet <+: t.outlet
  causes : CausesKept s t
  counters : CountersNotBelow s.counters t.counters

theorem RunFrame.refl (s : State) : RunFrame s s :=
  ⟨rfl, List.prefix_refl _, .refl s, countersNotBelow_refl _⟩

theorem RunFrame.trans {s t u : State} (hst : RunFrame s t) (htu : RunFrame t u) : RunFrame s u := by
  refine ⟨?_, hst.outlet.trans htu.outlet, hst.causes.trans htu.causes, countersNotBelow_trans hst.counters htu.counters⟩
  rw [htu.kept, hst.kept]

theorem LineMove.runFrame {s t : State} (h : LineMove s t) : RunFrame s t := by
  refine ⟨?_, ?_, ?_, ?_⟩
  · rw [h.frame]
  · rw [h.frame]
  · cases h with
    | raise c => exact causesKept_raise c s
    | fill f _ _ => exact causesKept_of_eq (by simp)
    | _ => exact causesKept_of_eq rfl
  · cases h with
    | lose => exact bump_not_below _ s
    | fill f _ _ => rw [enqueue_counters]; exact countersNotBelow_refl _
    | _ => exact countersNotBelow_refl _

theorem countDrop_not_below (s : State) : CountersNotBelow s.counters (countDrop s).counters :=
  bump_not_below .droppedRepeats s

theorem RunMove.runFrame {s t : State} (h : RunMove s t) : RunFrame s t := by
  cases h with
  | line h => exact h.runFrame
  | bump _ hk =>
    refine ⟨?_, List.prefix_refl _, .refl s, bump_not_below _ s⟩
    rcases hk with rfl | rfl | rfl <;> rfl
  | place w _ => exact ⟨rfl, List.prefix_append _ _, .refl s, countersNotBelow_refl _⟩
  | close b _ _ _ =>
    rw [queueRecord_eq]
    exact ⟨rfl, List.prefix_refl _, .refl s, countersNotBelow_refl _⟩
  | free _ _ =>
    rw [removeJobs_eq]
    exact ⟨rfl, List.prefix_refl _, .refl s, countersNotBelow_refl _⟩
  | disarm _ _ =>
    rw [enterDisarmed_eq]
    exact ⟨rfl, List.prefix_refl _, causesKept_or rfl, countersNotBelow_refl _⟩
  | abort _ =>
    rw [abortTable_eq]
    exact ⟨rfl, List.prefix_refl _, .refl s, countersNotBelow_refl _⟩
  | cutOver =>
    rw [cutOver_eq]
    exact ⟨rfl, List.prefix_refl _, .refl s, countersNotBelow_refl _⟩
  | track tr _ hl _ =>
    refine ⟨?_, List.prefix_refl _, .refl s, countersNotBelow_refl _⟩
    dsimp only
    rw [← hl]
  | openRepeat row k m _ =>
    refine ⟨by rw [openRepeat_eq], by rw [openRepeat_eq], ?_, ?_⟩
    · unfold Machine.openRepeat
      dsimp only
      split
      · exact causesKept_of_eq rfl
      · exact causesKept_or rfl
    · unfold Machine.openRepeat
      dsimp only
      split
      · exact countersNotBelow_refl _
      · exact bump_not_below .droppedRepeats s
  | countDrop => exact ⟨rfl, List.prefix_refl _, causesKept_or rfl, countDrop_not_below s⟩
  | drop _ =>
    unfold dropState
    rw [settleList_eq]
    exact ⟨rfl, List.prefix_refl _, .refl s, countersNotBelow_refl _⟩
  | faultDrop _ _ =>
    rw [faultDropped_eq]
    exact ⟨rfl, List.prefix_refl _, .refl s, countersNotBelow_refl _⟩
  | opened b _ =>
    rw [settleList_eq]
    exact ⟨rfl, List.prefix_refl _, .refl s, countersNotBelow_refl _⟩
  | _ => exact ⟨rfl, List.prefix_refl _, .refl s, countersNotBelow_refl _⟩

theorem RunMoves.runFrame {s t : State} (h : RunMoves s t) : RunFrame s t := by
  induction h with
  | refl => exact .refl _
  | tail _ hlast ih => exact ih.trans hlast.runFrame

section
variable {s t : State} (h : RunMoves s t)
include h

theorem RunMoves.strobe : t.strobe = s.strobe := by rw [h.runFrame.kept]
theorem RunMoves.encoder : t.encoder = s.encoder := by rw [h.runFrame.kept]
theorem RunMoves.clock : t.clock = s.clock := by rw [h.runFrame.kept]
theorem RunMoves.mailbox : t.mailbox = s.mailbox := by rw [h.runFrame.kept]
theorem RunMoves.decode : t.decode = s.decode := by rw [h.runFrame.kept]
theorem RunMoves.skippedStrobes : t.counters.skippedStrobes = s.counters.skippedStrobes := by rw [h.runFrame.kept]
theorem RunMoves.absorbedWrites : t.counters.absorbedWrites = s.counters.absorbedWrites := by rw [h.runFrame.kept]
theorem RunMoves.strayWrites : t.counters.strayWrites = s.counters.strayWrites := by rw [h.runFrame.kept]

end

theorem cutOver_live {s : State} (hs : s.maps.live ≠ none) : (cutOver s).maps.live ≠ none := by
  unfold cutOver
  split
  · exact hs
  · simp

/-- A live map stays live, or another becomes it. -/
theorem RunMove.live {s t : State} (h : RunMove s t) (hs : s.maps.live ≠ none) : t.maps.live ≠ none := by
  cases h with
  | line h =>
    rw [h.frame]
    exact hs
  | close b _ _ _ => rwa [queueRecord_eq]
  | free _ _ => rwa [removeJobs_eq]
  | disarm _ _ =>
    rw [enterDisarmed_live]
    cases s.maps.staged with
    | none => exact hs
    | some m => simp
  | abort _ => rwa [abortTable_eq]
  | cutOver => exact cutOver_live hs
  | openRepeat row k m _ => rwa [openRepeat_eq]
  | drop _ => rwa [dropState, settleList_eq]
  | faultDrop _ _ => rwa [faultDropped_eq]
  | opened b _ => rwa [settleList_eq]
  | _ => exact hs

theorem RunMoves.live {s t : State} (h : RunMoves s t) (hs : s.maps.live ≠ none) : t.maps.live ≠ none := by
  induction h with
  | refl => exact hs
  | tail _ hlast ih => exact hlast.live ih

/-! ### A piece accounted against an OPEN line -/

/-- The gap of a piece filled and its gap and rewrite bytes counted (R58, R59). -/
def gapAccounted (m : SteeringMap) (l : Lane) (slot x n : Nat) (s : State) : State :=
  let r := slotRecord s l slot
  let p := linePlacement m l (recordEntry s r)
  let gap := gapRange (keptStart m p) (keptEnd m p) r.fillMark x
  match recordEntry s r with
  | none => s
  | some e =>
    updateEntry e.key (countPiece l (gap.2 - gap.1) (rewriteBytes r.fillMark x n))
      (fillLine m l slot e gap.1 gap.2 s)

/-- The fill mark of a line after a piece (R58). -/
def markAfter (m : SteeringMap) (mark x n : Nat) : Nat := max mark (min (x + n) (lineBytes m))

/-- The fill mark raised, and the line retired when the mark reaches the line's length (R58, R61). -/
def markRaised (m : SteeringMap) (l : Lane) (slot mark : Nat) (s : State) : State :=
  let s1 := setSlot l slot { slotRecord s l slot with fillMark := mark } s
  if mark = lineBytes m then retireLine l slot s1 else s1

/-- The new kept run of a piece, accounted against a line as it stood in `s` (R58, R60). -/
def runDisposed (m : SteeringMap) (l : Lane) (slot x : Nat) (bytes : List Byte) (s t : State) : State :=
  let r := slotRecord s l slot
  let p := linePlacement m l (recordEntry s r)
  let run := newRange (keptStart m p) (keptEnd m p) r.fillMark x bytes.length
  disposeRun m l (r.row.getD 0) (recordEntry s r) x bytes run.1 run.2 t

/-- The third mismatch of a lane in a row was counted at this piece (R65). -/
def thirdMismatch (l : Lane) (slot : Nat) (s t : State) : Prop :=
  (slotRecord s l slot).stamp = .unchecked ∧ (slotRecord t l slot).stamp = .mismatched ∧
    3 ≤ t.ring.mismatches.get l

theorem accountOpen_third {m : SteeringMap} {l : Lane} {slot x : Nat} {bytes : List Byte} {s s2 s5 : State}
    (h2 : s2 = stampPiece m l slot x bytes (gapAccounted m l slot x bytes.length s))
    (h5 : s5 = markRaised m l slot (markAfter m (slotRecord s l slot).fillMark x bytes.length)
      (runDisposed m l slot x bytes s s2))
    (h : thirdMismatch l slot s s2) : accountOpen m l slot x bytes s = goOutOfStep m l s5 := by
  subst h2 h5
  exact if_pos h

theorem accountOpen_else {m : SteeringMap} {l : Lane} {slot x : Nat} {bytes : List Byte} {s s2 s5 : State}
    (h2 : s2 = stampPiece m l slot x bytes (gapAccounted m l slot x bytes.length s))
    (h5 : s5 = markRaised m l slot (markAfter m (slotRecord s l slot).fillMark x bytes.length)
      (runDisposed m l slot x bytes s s2))
    (h : ¬thirdMismatch l slot s s2) : accountOpen m l slot x bytes s = s5 := by
  subst h2 h5
  exact if_neg h

/-- The stamp state that a line's first piece decides (R63). -/
def stampOf (m : SteeringMap) (l : Lane) (slot x : Nat) (bytes : List Byte) (s : State) : StampState :=
  decideStamp ((slotFind slot s.ring.bindings).getD 0)
    (linePlacement m l (recordEntry s (slotRecord s l slot))).stampCheck x bytes

/-- A lane's consecutive-mismatch count written. -/
def setMismatches (l : Lane) (n : Nat) (s : State) : State :=
  { s with ring := { s.ring with mismatches := s.ring.mismatches.set l n } }

/-- A stamp mismatch counted in the entry of a line (R64). -/
def mismatchCounted (l : Lane) (st : StampState) (e : Option Entry) (s : State) : State :=
  match e with
  | some e => if st = .mismatched then updateEntry e.key (countMismatch l) s else s
  | none => s

theorem stampPiece_decided {m : SteeringMap} {l : Lane} {slot x : Nat} {bytes : List Byte} {s : State}
    (h : (slotRecord s l slot).stamp ≠ .unchecked) : stampPiece m l slot x bytes s = s :=
  if_neg h

theorem stampPiece_unchecked {m : SteeringMap} {l : Lane} {slot x : Nat} {bytes : List Byte} {s : State}
    (h : (slotRecord s l slot).stamp = .unchecked) :
    stampPiece m l slot x bytes s =
      mismatchCounted l (stampOf m l slot x bytes s) (recordEntry s (slotRecord s l slot))
        (setMismatches l (mismatchesAfter (s.ring.mismatches.get l) (stampOf m l slot x bytes s))
          (setSlot l slot { slotRecord s l slot with stamp := stampOf m l slot x bytes s } s)) := by
  unfold stampPiece mismatchCounted stampOf
  dsimp only
  rw [if_pos h]
  generalize decideStamp _ _ x bytes = st
  cases recordEntry s (slotRecord s l slot) <;> cases st <;> rfl

/-- How the new kept run of a piece is disposed of: by nothing, by the count of an absorbed write, or by a write. -/
inductive Disposal : State → State → Prop
  | nothing (s : State) : Disposal s s
  | absorbed (s : State) : Disposal s (bump .absorbedWrites s)
  | placed (w : OutTxn) (s : State) : Disposal s (enterOutlet w s)

theorem disposeRun_disposal (m : SteeringMap) (l : Lane) (row : Nat) (e : Option Entry) (x : Nat) (bytes : List Byte)
    (lo hi : Nat) (s : State) : Disposal s (disposeRun m l row e x bytes lo hi s) := by
  unfold disposeRun
  split
  next => exact .absorbed s
  next e =>
    split
    next => exact .absorbed s
    next => exact .nothing s
    next =>
      split
      · split
        next t _ => exact .placed t s
        next => exact .nothing s
      · exact .nothing s

section
variable {s : State} (hs : Running s)
include hs

theorem gapAccounted_moves (m : SteeringMap) (l : Lane) (slot x n : Nat) :
    LineMoves s (gapAccounted m l slot x n s) := by
  unfold gapAccounted
  dsimp only
  split
  next => exact .refl
  next e _ => exact (fillLine_moves hs m l slot e _ _).tail (.counts e.key _ (bookkeeping_updateCounts l _))

theorem markRaised_moves (m : SteeringMap) (l : Lane) (slot mark : Nat) :
    LineMoves s (markRaised m l slot mark s) := by
  unfold markRaised
  dsimp only
  have hslot := Relation.ReflTransGen.single
    (LineMove.slot l slot { slotRecord s l slot with fillMark := mark } hs)
  split
  · exact hslot.trans (retireLine_moves (LineMoves.running hslot hs) l slot)
  · exact hslot

/-- A stamp decided is one write of the lane's consecutive-mismatch count among moves of the Line Ring. -/
theorem stampPiece_moves (m : SteeringMap) (l : Lane) (slot x : Nat) (bytes : List Byte) :
    stampPiece m l slot x bytes s = s ∨
      ∃ u n, LineMoves s u ∧ LineMoves (setMismatches l n u) (stampPiece m l slot x bytes s) := by
  by_cases h : (slotRecord s l slot).stamp = .unchecked
  · rw [stampPiece_unchecked h]
    refine .inr ⟨_, mismatchesAfter (s.ring.mismatches.get l) (stampOf m l slot x bytes s),
      .single (.slot l slot { slotRecord s l slot with stamp := stampOf m l slot x bytes s } hs), ?_⟩
    unfold mismatchCounted
    split
    next e _ =>
      split
      · exact .single (.counts e.key _ (bookkeeping_updateCounts l _))
      · exact .refl
    next => exact .refl
  · exact .inl (stampPiece_decided h)

end

theorem Disposal.running {s t : State} (h : Disposal s t) (hs : Running s) : Running t := by
  cases h <;> exact hs

/-- A piece accounted against an OPEN line: moves of the Line Ring, at most one write of the lane's mismatch count, and
one disposal of the new kept run. -/
theorem accountOpen_path (m : SteeringMap) (l : Lane) (slot x : Nat) (bytes : List Byte) {s : State}
    (hs : Running s) :
    ∃ u v w, LineMoves s u ∧ (v = u ∨ ∃ n, v = setMismatches l n u) ∧
      ∃ v', LineMoves v v' ∧ Disposal v' w ∧ LineMoves w (accountOpen m l slot x bytes s) := by
  have hgap := gapAccounted_moves hs m l slot x bytes.length
  have hrest (s2 : State) (h2 : s2 = stampPiece m l slot x bytes (gapAccounted m l slot x bytes.length s))
      (hs2 : Running s2) :
      ∃ w, Disposal s2 w ∧ LineMoves w (accountOpen m l slot x bytes s) := by
    have hdisposal : Disposal s2 (runDisposed m l slot x bytes s s2) := disposeRun_disposal _ _ _ _ _ _ _ _ _
    refine ⟨_, hdisposal, ?_⟩
    have hraised := markRaised_moves (hdisposal.running hs2) m l slot
      (markAfter m (slotRecord s l slot).fillMark x bytes.length)
    by_cases hthird : thirdMismatch l slot s s2
    · rw [accountOpen_third h2 rfl hthird]
      exact hraised.trans (goOutOfStep_moves (LineMoves.running hraised (hdisposal.running hs2)) m l)
    · rw [accountOpen_else h2 rfl hthird]
      exact hraised
  rcases stampPiece_moves (LineMoves.running hgap hs) m l slot x bytes with hsame | ⟨u, n, hu, hstamp⟩
  · obtain ⟨w, hw, hlast⟩ := hrest _ hsame.symm (LineMoves.running hgap hs)
    exact ⟨_, _, w, hgap, .inl rfl, _, .refl, hw, hlast⟩
  · have hu' := hgap.trans hu
    have hrunning : Running (setMismatches l n u) := (LineMoves.running hu' hs : Running u)
    obtain ⟨w, hw, hlast⟩ := hrest _ rfl (LineMoves.running hstamp hrunning)
    exact ⟨u, _, w, hu', .inr ⟨n, rfl⟩, _, hstamp, hw, hlast⟩

/-! ### A high-water advance -/

/-- The strobe number of an advance taken: φ falls by Q and the next-strobe number rises (R25). -/
def strobeDue (m : SteeringMap) (s : State) : State :=
  { s with strobe :=
      { s.strobe with
        phase := s.strobe.phase + 65536 - m.Q
        nextStrobe := s.strobe.nextStrobe + 1 } }

/-- The values a strobe takes at its issue, before its binding (R27, R29). -/
def issued (s : State) : State :=
  { s with strobe :=
      { s.strobe with
        issueIndex := s.strobe.issueIndex + 1
        lastIssue := some s.clock
        lineUntil := some (s.clock + 100) } }

theorem issueStrobe_eq (m : SteeringMap) (k : Nat) (s : State) :
    issueStrobe m k s = bindStrobe m s.strobe.issueIndex k (issued s) := rfl

theorem highWaterAdvance_below {m : SteeringMap} {s : State} (h : s.strobe.phase + 65536 < m.Q) :
    highWaterAdvance m s =
      actPart m .confirm { s with strobe := { s.strobe with phase := s.strobe.phase + 65536 } } := by
  rw [highWaterAdvance]
  exact if_pos h

/-- At Q the parts of the advance are carried out in some order, after a free value may have been taken. -/
theorem highWaterAdvance_due {m : SteeringMap} {s : State} (h : m.Q ≤ s.strobe.phase + 65536) :
    ∃ (order : List AdvancePart) (cs : List Nat) (n : Nat), order.Perm (dueParts m s.strobe.nextStrobe.toNat (strobeDue m s)) ∧
      highWaterAdvance m s =
        order.foldl (fun t p => actPart m p t) { strobeDue m s with choices := cs, choiceCount := n } := by
  have hstate := freeOrder_state (dueParts m s.strobe.nextStrobe.toNat (strobeDue m s)) (strobeDue m s)
  refine ⟨(freeOrder (dueParts m s.strobe.nextStrobe.toNat (strobeDue m s)) (strobeDue m s)).1,
    (freeOrder (dueParts m s.strobe.nextStrobe.toNat (strobeDue m s)) (strobeDue m s)).2.choices,
    (freeOrder (dueParts m s.strobe.nextStrobe.toNat (strobeDue m s)) (strobeDue m s)).2.choiceCount,
    freeOrder_perm _ _, ?_⟩
  rw [← hstate, highWaterAdvance]
  exact if_neg (by omega)

/-- The strobe of an advance is one of its parts; the others are a confirmation and a watch. -/
theorem dueParts_split {m : SteeringMap} {k : Nat} {s : State} {order : List AdvancePart}
    (h : order.Perm (dueParts m k s)) :
    ∃ xs ys, order = xs ++ .strobe k :: ys ∧ ∀ p ∈ xs ++ ys, p = .confirm ∨ p = .watch := by
  have hparts : ∃ rest : List AdvancePart, (dueParts m k s).Perm (.strobe k :: rest) ∧
      ∀ p ∈ rest, p = .confirm ∨ p = .watch := by
    unfold dueParts
    split
    · exact ⟨[.confirm, .watch], List.perm_middle (l₁ := [AdvancePart.confirm, .watch]) (l₂ := []), by simp⟩
    · split
      · exact ⟨[], .refl _, by simp⟩
      · exact ⟨[.watch], .swap _ _ _, by simp⟩
  obtain ⟨rest, hrest, hkinds⟩ := hparts
  have hmem : AdvancePart.strobe k ∈ order := (h.trans hrest).mem_iff.2 (List.mem_cons_self ..)
  obtain ⟨xs, ys, rfl⟩ := List.append_of_mem hmem
  have hothers : (xs ++ ys).Perm rest := (List.perm_middle.symm.trans (h.trans hrest)).cons_inv
  exact ⟨xs, ys, rfl, fun p hp => hkinds p (hothers.mem_iff.1 hp)⟩

theorem actPart_moves {m : SteeringMap} {p : AdvancePart} (hp : p = .confirm ∨ p = .watch) (s : State) :
    RunMoves s (actPart m p s) := by
  rcases hp with rfl | rfl
  · unfold actPart
    dsimp only
    split
    · exact endQualification_moves _ s
    · exact .refl
  · exact actOnWatch_moves _ s

theorem foldl_actPart_moves {m : SteeringMap} {ps : List AdvancePart} (hps : ∀ p ∈ ps, p = .confirm ∨ p = .watch)
    (s : State) : RunMoves s (ps.foldl (fun t p => actPart m p t) s) := by
  induction ps generalizing s with
  | nil => exact .refl
  | cons p ps ih =>
    exact (actPart_moves (hps p (List.mem_cons_self ..)) s).trans
      (ih (fun q hq => hps q (List.mem_cons_of_mem _ hq)) _)

/-- A strobe that has fallen due in an armed bridge: moves of a run after it has taken the values of its issue, or
after it is counted as skipped; with the bridge disarmed, nothing. -/
theorem issueOrSkip_path (m : SteeringMap) (k : Nat) {s : State} (hm : s.maps.live ≠ none) :
    (s.acq.state = .disarmed ∧ issueOrSkip m k s = s) ∨
      (s.acq.state ≠ .disarmed ∧ spacingPasses m s = true ∧ RunMoves (issued s) (issueOrSkip m k s)) ∨
      (s.acq.state ≠ .disarmed ∧ spacingPasses m s = false ∧
        RunMoves (bump .skippedStrobes s) (issueOrSkip m k s)) := by
  unfold issueOrSkip
  by_cases ha : s.acq.state = .disarmed
  · exact .inl ⟨ha, if_neg (by simp [armed, ha])⟩
  · rw [if_pos (by simpa [armed] using ha)]
    have hrunning : Running s := ⟨hm, .inl ha⟩
    cases hspacing : spacingPasses m s with
    | true =>
      refine .inr (.inl ⟨ha, rfl, ?_⟩)
      rw [if_pos rfl, issueStrobe_eq]
      exact (bindStrobe_moves (s := issued s) hrunning m _ k).run.trans (closeTests_moves _)
    | false =>
      refine .inr (.inr ⟨ha, rfl, ?_⟩)
      rw [if_neg Bool.false_ne_true]
      have hraised := Relation.ReflTransGen.single (RunMove.raise .overspeed (bump .skippedStrobes s))
      exact (hraised.trans (skipRows_moves (s := raise .overspeed (bump .skippedStrobes s)) hrunning m k).run).trans
        (closeTests_moves _)

/-- A high-water advance: one write of the strobe's numbers, then moves of a run, among which a strobe that falls due
takes the values of its issue or is counted as skipped. -/
theorem highWaterAdvance_path (m : SteeringMap) {s : State} (hm : s.maps.live ≠ none) :
    (s.strobe.phase + 65536 < m.Q ∧
        RunMoves { s with strobe := { s.strobe with phase := s.strobe.phase + 65536 } } (highWaterAdvance m s)) ∨
      (m.Q ≤ s.strobe.phase + 65536 ∧
        ∃ u, RunMoves (strobeDue m s) u ∧
          ((u.acq.state = .disarmed ∧ RunMoves u (highWaterAdvance m s)) ∨
            (u.acq.state ≠ .disarmed ∧ spacingPasses m u = true ∧ RunMoves (issued u) (highWaterAdvance m s)) ∨
            (u.acq.state ≠ .disarmed ∧ spacingPasses m u = false ∧
              RunMoves (bump .skippedStrobes u) (highWaterAdvance m s)))) := by
  by_cases hq : s.strobe.phase + 65536 < m.Q
  · refine .inl ⟨hq, ?_⟩
    rw [highWaterAdvance_below hq]
    exact actPart_moves (.inl rfl) _
  · refine .inr ⟨by omega, ?_⟩
    obtain ⟨order, cs, n, horder, heq⟩ := highWaterAdvance_due (m := m) (s := s) (by omega)
    obtain ⟨xs, ys, rfl, hkinds⟩ := dueParts_split horder
    have hbefore := foldl_actPart_moves (m := m) (fun p hp => hkinds p (List.mem_append_left _ hp))
      { strobeDue m s with choices := cs, choiceCount := n }
    have hstart := Relation.ReflTransGen.single (RunMove.line (LineMove.choose cs n (strobeDue m s)))
    have hafter (t : State) := foldl_actPart_moves (m := m) (fun p hp => hkinds p (List.mem_append_right _ hp)) t
    rw [List.foldl_append, List.foldl_cons] at heq
    refine ⟨_, hstart.trans hbefore, ?_⟩
    rw [heq]
    rcases issueOrSkip_path m s.strobe.nextStrobe.toNat (RunMoves.live (hstart.trans hbefore) hm) with
      ⟨ha, h⟩ | ⟨ha, hp, h⟩ | ⟨ha, hp, h⟩
    · refine .inl ⟨ha, ?_⟩
      rw [actPart, h]
      exact hafter _
    · exact .inr (.inl ⟨ha, hp, h.trans (hafter _)⟩)
    · exact .inr (.inr ⟨ha, hp, h.trans (hafter _)⟩)

/-! ### An encoder transition -/

/-- Between s and t time has passed, the phase pair was observed and the position may have moved; the high-water mark
and the strobe's numbers stand. -/
def Observed (s t : State) : Prop :=
  t =
    { s with
      clock := t.clock
      encoder := { t.encoder with highWater := s.encoder.highWater }
      strobe := { s.strobe with lineUntil := t.strobe.lineUntil } }

/-- A count at new ground: position and high-water mark rise (R21). -/
def advanced (s : State) : State :=
  { s with encoder :=
      { s.encoder with position := s.encoder.position + 1, highWater := s.encoder.highWater + 1 } }

/-- An encoder transition observes, and then is a few moves of a run or a high-water advance of an armed bridge. -/
theorem observePair_path (pair : PhasePair) (n : Nat) (s : State) :
    ∃ u, Observed s u ∧
      (RunMoves u (observePair pair (setClock n s)) ∨ observePair pair (setClock n s) = bump .encoderFaults (raise .encoderFault u) ∨
        ∃ m, u.maps.live = some m ∧ u.acq.state ≠ .disarmed ∧ u.encoder.highWater ≠ BitVec.allOnes 48 ∧
          observePair pair (setClock n s) = highWaterAdvance m (advanced u)) := by
  have hobs (enc : Encoder) : Observed s { setClock n s with encoder := { enc with highWater := s.encoder.highWater } } :=
    rfl
  have hseen := hobs { s.encoder with lastPair := some pair }
  have hmoved (p : BitVec 48) (f : Bool) :=
    hobs { s.encoder with lastPair := some pair, position := p, reverseFlag := f }
  unfold observePair
  dsimp only [setClock_encoder]
  split
  next => exact ⟨_, hseen, .inl .refl⟩
  next last _ =>
    unfold actOnTransition
    split
    next => exact ⟨_, hseen, .inl .refl⟩
    next => exact ⟨_, hseen, .inr (.inl rfl)⟩
    next =>
      split
      next m harmed hlive =>
        unfold armedForward
        split
        next =>
          split
          next =>
            exact ⟨_, hseen, .inl (abortRun_moves (of_decide_eq_true harmed))⟩
          next hlimit =>
            exact ⟨_, hseen, .inr (.inr ⟨m, hlive, of_decide_eq_true harmed, hlimit, rfl⟩)⟩
        next =>
          dsimp only
          split
          · exact ⟨_, hmoved (s.encoder.position + 1) false, .inl .refl⟩
          · exact ⟨_, hmoved (s.encoder.position + 1) s.encoder.reverseFlag, .inl .refl⟩
      next => exact ⟨_, hmoved (s.encoder.position + 1) s.encoder.reverseFlag, .inl .refl⟩
    next =>
      split
      next m harmed hlive =>
        unfold armedReverse
        split
        next => exact ⟨_, hseen, .inl .refl⟩
        next =>
          dsimp only
          split
          · exact ⟨_, hmoved (s.encoder.position - 1) true, .inl (.single (.raise .webReverse _))⟩
          · exact ⟨_, hmoved (s.encoder.position - 1) s.encoder.reverseFlag, .inl .refl⟩
      next => exact ⟨_, hmoved (s.encoder.position - 1) s.encoder.reverseFlag, .inl .refl⟩

end Sys2Proof.RunProofs
end

section
/-! SUPPORT and PROOFS. Every command as a sequence of moves, from which each invariant is proved by cases over the
moves. -/

namespace Sys2Proof.RunProofs

open Sys2Proof Sys2Proof.Machine Sys2Proof.AcquisitionProofs

/-! ### What the port takes -/

/-- Taking what the port holds writes the decoder, what is held, what is returned and the stray reads. -/
structure PortFrame (s t : State) : Prop where
  kept :
    t =
      { s with
        inletHeld := t.inletHeld
        decode := t.decode
        returned := t.returned
        counters := { s.counters with strayReads := t.counters.strayReads } }
  returned : s.returned <+: t.returned
  counters : CountersNotBelow s.counters t.counters

theorem PortFrame.trans {s t u : State} (hst : PortFrame s t) (htu : PortFrame t u) : PortFrame s u := by
  refine ⟨?_, hst.returned.trans htu.returned, countersNotBelow_trans hst.counters htu.counters⟩
  rw [htu.kept, hst.kept]

theorem takeTransaction_frame (x : InletTxn) (s : State) : PortFrame s (takeTransaction x s) := by
  unfold takeTransaction
  split
  next => exact ⟨rfl, List.prefix_refl _, countersNotBelow_refl _⟩
  next =>
    split
    · exact ⟨rfl, List.prefix_append _ _, bump_not_below .strayReads s⟩
    · exact ⟨rfl, List.prefix_refl _, countersNotBelow_refl _⟩

theorem takeHeld_frame (xs : List InletTxn) (s : State) : PortFrame s (takeHeld xs s) := by
  induction xs generalizing s with
  | nil => exact ⟨rfl, List.prefix_refl _, countersNotBelow_refl _⟩
  | cons x xs ih =>
    rw [takeHeld]
    split
    · exact (takeTransaction_frame x s).trans (ih _)
    · exact ⟨rfl, List.prefix_refl _, countersNotBelow_refl _⟩

theorem settleInlet_frame (s : State) : PortFrame s (settleInlet s) := takeHeld_frame _ s

/-! ### Moves of the bridge -/

/-- Between s and t nothing was written that an invariant of the run speaks of; the reads, the tags and the mailbox only
where `mail` holds. -/
structure Quiet (mail : Prop) (s t : State) : Prop where
  kept :
    t =
      { t with
        encoder := { t.encoder with highWater := s.encoder.highWater }
        strobe := { s.strobe with lineUntil := t.strobe.lineUntil }
        tracker := { s.tracker with markLevel := t.tracker.markLevel }
        ring := s.ring
        maps := s.maps
        table := s.table
        list := s.list
        ringUnit := s.ringUnit
        acq := { t.acq with state := s.acq.state, request := s.acq.request }
        profile := { t.profile with faulted := s.profile.faulted } }
  outlet : t.outlet.length ≤ s.outlet.length
  load : ∀ q a, t.mailbox.inProgress = some (.loadMap q a) →
    s.mailbox.inProgress = some (.loadMap q a) ∨ s.profile.faulted = false
  same : mail ∨ (t.reads = s.reads ∧ t.heldTags = s.heldTags ∧ t.mailbox = s.mailbox)

/-- One move of the bridge: one of a run, or a step of the inline path, the mailbox or a reset. `web` says whether the
encoder and the strobe's numbers may be written, `stamps` whether a lane's mismatch count may be, and `mail` whether
the bridge's reads, its tags and the mailbox may be. -/
inductive Move (web stamps mail : Prop) : State → State → Prop
  | run {s t : State} (h : RunMove s t) : Move web stamps mail s t
  | quiet {s t : State} (h : Quiet mail s t) : Move web stamps mail s t
  | web (h : web) (enc : Encoder) (str : Strobe) (s : State) :
      Move web stamps mail s { s with encoder := enc, strobe := str }
  | stamp (h : stamps) (l : Lane) (n : Nat) (s : State) : Move web stamps mail s (setMismatches l n s)
  | issue (s : State) : Move web stamps mail s { s with list := { s.list with progress := s.list.progress + 1 } }
  | headLeaves (s : State) : Move web stamps mail s (Machine.headLeaves s)
  | respond (hm : mail) (q : BitVec 32) (c : Byte) (r : ResultCode) (d : List Byte) (s : State) :
      Move web stamps mail s (Machine.respond q c r d s)
  | request (a : AcqState) (rq : Request) {s : State} (hs : s.acq.state ≠ .disarmed) (ha : a ≠ .disarmed) :
      Move web stamps mail s (setAcq a rq s)
  | makeLive {m : SteeringMap} {s : State} (hd : s.acq.state = .disarmed) (hq : 65536 ≤ m.Q)
      (hl : ∃ q a, s.mailbox.inProgress = some (.loadMap q a)) : Move web stamps mail s (Machine.makeLive m s)
  | stage {m : SteeringMap} {s : State} (ha : s.acq.state ≠ .disarmed)
      (hl : ∃ q a, s.mailbox.inProgress = some (.loadMap q a))
      (hm : ∀ old, s.maps.live = some old → FrozenAgree old m) :
      Move web stamps mail s { s with maps := { s.maps with staged := some m } }
  | arm {m : SteeringMap} {s : State} (hd : s.acq.state = .disarmed) (hm : s.maps.live = some m) :
      Move web stamps mail s (armBlocks m s)
  | reset (hm : mail) (cause : ResetCause) (s : State) : Move web stamps mail s (performReset cause s)

/-- Moves of the bridge one after another. -/
abbrev Moves (web stamps mail : Prop) : State → State → Prop := Relation.ReflTransGen (Move web stamps mail)

section
variable {web stamps mail : Prop} {s t : State}

theorem RunMoves.moves (h : RunMoves s t) : Moves web stamps mail s t :=
  Relation.ReflTransGen.mono (fun _ _ => Move.run) _ _ h

theorem LineMoves.moves (h : LineMoves s t) : Moves web stamps mail s t := h.run.moves

theorem Quiet.moves (h : Quiet mail s t) : Moves web stamps mail s t := .single (.quiet h)

/-- A property that every move keeps is kept by moves one after another. -/
theorem Moves.keep {P : State → Prop} (hP : ∀ s t, P s → Move web stamps mail s t → P t) (h : Moves web stamps mail s t)
    (hs : P s) : P t := by
  induction h with
  | refl => exact hs
  | tail _ hlast ih => exact hP _ _ ih hlast

end

/-! ### Quiet steps -/

section
variable {mail : Prop}

theorem PortFrame.quiet {s t : State} (h : PortFrame s t) : Quiet mail s t := by
  refine ⟨?_, ?_, fun q a hq => .inl ?_, .inr ?_⟩
  · rw [h.kept]
  · rw [h.kept]
  · rwa [h.kept] at hq
  · rw [h.kept]
    exact ⟨rfl, rfl, rfl⟩

theorem quiet_counters (c : Counters) (s : State) : Quiet mail s { s with counters := c } :=
  ⟨rfl, le_rfl, fun _ _ => .inl, .inr ⟨rfl, rfl, rfl⟩⟩

theorem quiet_attention (a : Attention) (s : State) : Quiet mail s { s with attention := a } :=
  ⟨rfl, le_rfl, fun _ _ => .inl, .inr ⟨rfl, rfl, rfl⟩⟩

theorem quiet_reads (rs : List BridgeRead) (s : State) : Quiet True s { s with reads := rs } :=
  ⟨rfl, le_rfl, fun _ _ => .inl, .inl trivial⟩

theorem quiet_requestRead (u : ReadUnit) (a n : Nat) (s : State) : Quiet True s (requestRead u a n s) :=
  ⟨rfl, le_rfl, fun _ _ => .inl, .inl trivial⟩

theorem quiet_released (s : State) : Quiet True s (released s) := ⟨rfl, le_rfl, fun _ _ => .inl, .inl trivial⟩

theorem quiet_setProgress {p : Option Progress} {s : State}
    (h : ∀ q a, p = some (.loadMap q a) → s.profile.faulted = false) : Quiet True s (setProgress p s) :=
  ⟨rfl, le_rfl, fun q a hq => .inr (h q a hq), .inl trivial⟩

theorem Observed.quiet {s t : State} (h : Observed s t) : Quiet mail s t := by
  unfold Observed at h
  refine ⟨by rw [h], by rw [h], fun q a hq => .inl ?_, .inr ?_⟩
  · rwa [h] at hq
  · rw [h]
    exact ⟨rfl, rfl, rfl⟩

end

/-! ### The inline path as moves -/

section
variable {web stamps mail : Prop}

theorem requestRead_moves (u : ReadUnit) (a n : Nat) (s : State) : Moves web stamps True s (requestRead u a n s) :=
  (quiet_requestRead u a n s).moves

theorem respond_moves (q : BitVec 32) (c : Byte) (r : ResultCode) (d : List Byte) {s t : State}
    (h : Moves web stamps True s t) : Moves web stamps True s (respond q c r d t) :=
  h.tail (.respond trivial q c r d t)

theorem enterOutlet_moves (w : OutTxn) {s : State} (h : s.outlet.length < 64) : Moves web stamps mail s (enterOutlet w s) :=
  .single (.run (.place w h))

theorem grantRead_moves (r : BridgeRead) {s : State} (h : s.outlet.length < 64) :
    Moves web stamps True s (grantRead r s) := by
  unfold grantRead
  split
  next => exact (quiet_reads _ s).moves.trans (enterOutlet_moves _ h)
  next => exact .refl

theorem grantList_moves {s t : State} (h : s.outlet.length < 64) (ht : grantList s = some t) :
    Moves web stamps mail s t := by
  have hleaves (w : OutTxn) : Moves web stamps mail s (headLeaves (enterOutlet w s)) :=
    (enterOutlet_moves w h).tail (.headLeaves _)
  unfold grantList at ht
  split at ht
  next => cases ht
  next r _ _ =>
    cases ht
    exact (hleaves _).trans (RunMoves.moves (.head (.raise .repeatDone _) (pumpOpening_moves _)))
  next r _ _ =>
    cases ht
    unfold grantResponse
    dsimp only
    split
    · exact (enterOutlet_moves _ h).tail (.issue _)
    · exact (hleaves _).tail (.run (.raise .commandDone _))
  next f _ _ =>
    split at ht
    next b _ =>
      cases ht
      unfold grantFill
      dsimp only
      split
      · exact hleaves _
      · exact (enterOutlet_moves _ h).tail (.issue _)
    next => cases ht
    next => cases ht

theorem bump_moves (k : Counter) (s : State) : Moves web stamps mail s (bump k s) := (quiet_counters _ s).moves

theorem accountOpen_moves (m : SteeringMap) (l : Lane) (slot x : Nat) (bytes : List Byte) {s : State}
    (hs : Running s) (h : s.outlet.length < 64) : Moves web True mail s (accountOpen m l slot x bytes s) := by
  obtain ⟨u, v, w, hu, hv, v', hv', hw, hlast⟩ := accountOpen_path m l slot x bytes hs
  have hsv : Moves web True mail s v ∧ v.outlet = s.outlet := by
    rcases hv with rfl | ⟨n, rfl⟩
    · exact ⟨hu.moves, LineMoves.outlet hu⟩
    · exact ⟨hu.moves.tail (.stamp trivial l n u), (LineMoves.outlet hu : u.outlet = s.outlet)⟩
  have hvw : Moves web True mail v' w := by
    cases hw with
    | nothing => exact .refl
    | absorbed => exact bump_moves _ _
    | placed t =>
      refine enterOutlet_moves t ?_
      rwa [LineMoves.outlet hv', hsv.2]
  exact ((hsv.1.trans hv'.moves).trans hvw).trans hlast.moves

theorem accountPiece_moves (l : Lane) (slot x : Nat) (bytes : List Byte) {s : State} (h : s.outlet.length < 64) :
    Moves web True mail s (accountPiece l slot x bytes s) := by
  unfold accountPiece
  split
  next => exact bump_moves _ s
  next => exact bump_moves _ s
  next => exact bump_moves _ s
  next => exact bump_moves _ s
  next => exact bump_moves _ s
  next m hm _ hopen =>
    exact (accountOpen_moves m l slot x bytes (running_of_opened (by simp [hm]) hopen) h).trans
      (closeTests_moves _).moves

theorem grantInlet_moves {s t : State} (h : s.outlet.length < 64) (ht : grantInlet s = some t) :
    Moves web True mail s t := by
  unfold grantInlet at ht
  split at ht
  next => cases ht
  next p rest _ =>
    split at ht
    · cases ht
      have htaken : Quiet mail s { s with decode := rest } := ⟨rfl, le_rfl, fun _ _ => .inl, .inr ⟨rfl, rfl, rfl⟩⟩
      refine (htaken.moves.trans ?_).trans (settleInlet_frame _).quiet.moves
      cases p with
      | outside a bytes => exact enterOutlet_moves _ h
      | read a n tag => exact enterOutlet_moves _ h
      | aperture l slot x bytes => exact accountPiece_moves l slot x bytes h
    · cases ht

theorem grantPlace_moves {s : State} (h : s.outlet.length < 64) : Moves web True True s (grantPlace s) := by
  unfold grantPlace
  split
  next r _ => exact grantRead_moves r h
  next =>
    split
    next t ht => exact grantList_moves h ht
    next =>
      cases ht : grantInlet s with
      | none => exact .refl
      | some t => exact grantInlet_moves h ht

theorem leaveOutlet_quiet (s : State) : Quiet True s (leaveOutlet s) := by
  unfold leaveOutlet
  split
  next => exact ⟨rfl, le_rfl, fun _ _ => .inl, .inl trivial⟩
  next w rest hw =>
    have hlen : rest.length ≤ s.outlet.length := by simp [hw]
    cases w with
    | write a p => exact ⟨rfl, hlen, fun _ _ => .inl, .inl trivial⟩
    | read a n tag => exact ⟨rfl, hlen, fun _ _ => .inl, .inl trivial⟩

theorem resetBridge_moves (cause : ResetCause) (s : State) : Moves web stamps True s (resetBridge cause s) :=
  (Relation.ReflTransGen.single (.reset trivial cause s)).trans (settleInlet_frame _).quiet.moves

theorem assignTag_quiet (s : State) : Quiet True s (assignTag s) := by
  unfold assignTag
  split
  next => exact ⟨rfl, le_rfl, fun _ _ => .inl, .inl trivial⟩
  next t _ =>
    have hstate := freeOrder_state (untaggedUnits s) s
    dsimp only
    split
    next => exact ⟨rfl, le_rfl, fun _ _ => .inl, .inl trivial⟩
    next =>
      rw [hstate]
      exact ⟨rfl, le_rfl, fun _ _ => .inl, .inl trivial⟩

/-! ### Completions as moves -/

theorem mailboxReadDone_moves (bytes : Option (List Byte)) (s : State) :
    Moves web stamps True s (mailboxReadDone bytes s) := by
  have hfailed : Moves web stamps True s (setPoll .none (raise .busFault (bump .busFaults s))) :=
    Quiet.moves ⟨rfl, le_rfl, fun _ _ => .inl, .inl trivial⟩
  have hended (p : PollState) : Moves web stamps True s (setPoll p s) := Quiet.moves ⟨rfl, le_rfl, fun _ _ => .inl, .inl trivial⟩
  unfold mailboxReadDone
  split
  next => exact .refl
  next =>
    unfold sequenceReadDone
    split
    next => exact hfailed
    next bs =>
      dsimp only
      split
      next => exact respond_moves _ _ _ _ (Quiet.moves ⟨rfl, le_rfl, fun _ _ => .inl, .inl trivial⟩)
      next =>
        split
        · exact hended .none
        · exact (hended .command).trans (requestRead_moves _ _ _ _)
  next =>
    unfold commandReadDone
    split
    next => exact hfailed
    next bs =>
      dsimp only
      split
      · exact hended .none
      · exact Quiet.moves ⟨rfl, le_rfl, fun _ _ => .inl, .inl trivial⟩

theorem endLoad_moves (q : BitVec 32) (r : ResultCode) (d : List Byte) {s t : State} (h : Moves web stamps True s t) :
    Moves web stamps True s (endLoad q r d t) :=
  respond_moves _ _ _ _ (h.trans (quiet_setProgress (by simp)).moves)

theorem endSave_moves (q : BitVec 32) (r : ResultCode) {s t : State} (h : Moves web stamps True s t) :
    Moves web stamps True s (endSave q r t) :=
  respond_moves _ _ _ _ (h.trans (quiet_setProgress (by simp)).moves)

theorem firstFailing_none {cs : List (Nat × Bool)} (h : firstFailing cs = none) : ∀ c ∈ cs, c.2 = false := by
  induction cs with
  | nil => simp
  | cons c cs ih =>
    obtain ⟨n, fails⟩ := c
    unfold firstFailing at h
    split at h
    · cases h
    next hf => exact List.forall_mem_cons.2 ⟨Bool.eq_false_iff.2 hf, ih h⟩

/-- An accepted map has Q within its range. -/
theorem failingCheck_none_Q {bs : List Byte} (h : failingCheck bs = none) : 65536 ≤ (readMap bs).Q := by
  have hq := firstFailing_none h (10, decide ((readMap bs).Q < 65536 ∨ 16777215 < (readMap bs).Q))
    (by simp [mapChecks])
  simp only [decide_eq_false_iff_not] at hq
  omega

theorem lanes_ext {α : Type} {v w : Lanes α} : v = w ↔ ∀ l, v.get l = w.get l :=
  ⟨fun h l => by rw [h], Lanes.ext_get⟩

theorem firstFrozenDifference_none {a b : SteeringMap} (h : firstFrozenDifference a b = none) : FrozenAgree a b := by
  have hall := firstFailing_none h
  simp only [frozenChecks, List.mem_cons, List.not_mem_nil, or_false, forall_eq_or_imp, forall_eq,
    decide_eq_false_iff_not, not_not] at hall
  obtain ⟨h1, h2, h3, h4, -, h6, h7, h8, h9, h10, h11, h12, h13, h14, h15⟩ := hall
  refine ⟨h1, h2, h3, h4, fun l => ?_, h7, h8, h9, h10, h11, h12, h13, h14, h15⟩
  have hl := lanes_ext.1 h6 l
  rwa [Lanes.get_map, Lanes.get_map] at hl

theorem mapReadDone_moves (bytes : Option (List Byte)) (s : State) : Moves web stamps True s (mapReadDone bytes s) := by
  unfold mapReadDone
  split
  next q a hload =>
    have hl : ∃ q a, s.mailbox.inProgress = some (.loadMap q a) := ⟨q, a, hload⟩
    split
    next => exact endLoad_moves _ _ _ (bump_moves _ s)
    next bs =>
      split
      next => exact endLoad_moves _ _ _ .refl
      next hcheck =>
        unfold disposeMap
        dsimp only
        split
        next hd =>
          exact endLoad_moves _ _ _ (.single (.makeLive hd (failingCheck_none_Q hcheck) hl))
        next hlive ha =>
          exact endLoad_moves _ _ _ (.single (.stage ha hl (by simp [hlive])))
        next old hlive ha =>
          split
          next => exact endLoad_moves _ _ _ .refl
          next hagree =>
            refine endLoad_moves _ _ _ (.single (.stage ha hl fun old' hold => ?_))
            obtain rfl := Option.some.inj (hlive.symm.trans hold)
            exact firstFrozenDifference_none hagree
  next => exact .refl

theorem profileReadDone_moves (bytes : Option (List Byte)) (s : State) :
    Moves web stamps True s (profileReadDone bytes s) := by
  unfold profileReadDone
  split
  next =>
    split
    next => exact endSave_moves _ _ (bump_moves _ s)
    next =>
      split
      next => exact endSave_moves _ _ .refl
      next => exact (quiet_setProgress (by simp)).moves
  next => exact .refl

theorem reservedCompletion_moves (c : Completion) (s : State) : Moves web stamps True s (reservedCompletion c s) := by
  unfold reservedCompletion
  dsimp only
  split
  next => exact Quiet.moves ⟨rfl, le_rfl, fun _ _ => .inl, .inl trivial⟩
  next r _ =>
    have hends := (quiet_reads (removeFirst (fun r => decide (stageTag r.stage = some c.tag)) s.reads) s).moves
      (web := web) (stamps := stamps) (mail := True)
    split
    · exact hends
    · refine hends.trans ?_
      cases r.unit with
      | ring => exact (ringReadDone_moves _ _).moves
      | mailbox => exact mailboxReadDone_moves _ _
      | maps => exact mapReadDone_moves _ _
      | profile => exact profileReadDone_moves _ _

/-! ### The web as moves -/

theorem observePair_moves (pair : PhasePair) (n : Nat) (s : State) :
    Moves True stamps mail s (observePair pair (setClock n s)) := by
  obtain ⟨u, hu, hrun | hfault | ⟨m, hm, -, -, hadvance⟩⟩ := observePair_path pair n s
  · exact hu.quiet.moves.trans hrun.moves
  · rw [hfault]
    exact (hu.quiet.moves.tail (.run (.raise .encoderFault u))).trans (bump_moves _ _)
  · rw [hadvance]
    have hstart : Moves True stamps mail s (advanced u) := hu.quiet.moves.tail (.web trivial _ u.strobe u)
    refine hstart.trans ?_
    rcases highWaterAdvance_path m (s := advanced u) (by simp [advanced, hm]) with
      ⟨-, h⟩ | ⟨-, v, hv, ⟨-, h⟩ | ⟨-, -, h⟩ | ⟨-, -, h⟩⟩
    · exact .head (.web trivial (advanced u).encoder _ _) h.moves
    · exact .head (.web trivial (advanced u).encoder _ _) (hv.moves.trans h.moves)
    · exact .head (.web trivial (advanced u).encoder _ _) (hv.moves.trans (.head (.web trivial v.encoder _ _) h.moves))
    · exact .head (.web trivial (advanced u).encoder _ _) ((hv.moves.trans (bump_moves _ _)).trans h.moves)

theorem setClock_quiet (n : Nat) (s : State) : Quiet mail s (setClock n s) := ⟨rfl, le_rfl, fun _ _ => .inl, .inr ⟨rfl, rfl, rfl⟩⟩

theorem endPulse_quiet (s : State) : Quiet mail s (endPulse s) := by
  unfold endPulse
  split
  · exact ⟨rfl, le_rfl, fun _ _ => .inl, .inr ⟨rfl, rfl, rfl⟩⟩
  · exact setClock_quiet _ s

theorem observeMark_moves (level : Bool) (s : State) : Moves web stamps mail s (observeMark level s) := by
  have hlevel : Moves web stamps mail s { s with tracker := { s.tracker with markLevel := some level } } :=
    Quiet.moves ⟨rfl, le_rfl, fun _ _ => .inl, .inr ⟨rfl, rfl, rfl⟩⟩
  unfold observeMark
  dsimp only
  split
  next m _ _ =>
    split
    next =>
      refine hlevel.trans ?_
      unfold actOnEdge
      split
      next hedge =>
        unfold acceptEdge
        split
        next => exact bump_moves _ _
        next =>
          have hbegun := Relation.ReflTransGen.single (RunMove.track
            { ({ s with tracker := { s.tracker with markLevel := some level } } : State).tracker with
              qualification := some
                { edge := s.strobe.nextStrobe.toNat, confirm := s.encoder.highWater.toNat + m.h } }
            (.inr hedge.1) rfl id)
          dsimp only
          split
          · exact RunMoves.moves (hbegun.trans (endQualification_moves m _))
          · exact RunMoves.moves hbegun
      next => exact .refl
    next => exact hlevel
  next => exact hlevel

theorem pollTimerExpires_moves (s : State) : Moves web stamps True s (pollTimerExpires s) := by
  unfold pollTimerExpires
  dsimp only
  split
  · exact Quiet.moves ⟨rfl, le_rfl, fun _ _ => .inl, .inl trivial⟩
  · exact Quiet.moves ⟨rfl, le_rfl, fun _ _ => .inl, .inl trivial⟩

/-! ### Commands as moves -/

theorem beginRun_moves {m : SteeringMap} {s : State} (hd : s.acq.state = .disarmed) (hm : s.maps.live = some m) :
    Moves web stamps mail s (beginRun m s) := by
  have harm : Moves web stamps mail s (armBlocks m s) := .single (.arm hd hm)
  unfold beginRun
  dsimp only
  split
  next => exact harm
  next => exact harm.trans (decideBoundary_moves m.M .fixed (.inl (by rw [armBlocks_eq]; simp))).moves

theorem requestArm_moves (s : State) : Moves web stamps mail s (requestArm s).2 := by
  unfold requestArm
  split
  next hd hm => exact beginRun_moves hd hm
  next => exact .refl
  next => exact .refl

theorem requestDisarm_moves (s : State) : Moves web stamps mail s (requestDisarm s).2 := by
  unfold requestDisarm
  split
  next => exact .refl
  next => exact .refl
  next hd _ =>
    split
    next he => exact .single (.run (.disarm hd he))
    next => exact .single (.request .draining .none hd (by simp))

theorem requestAbort_moves (s : State) : Moves web stamps mail s (requestAbort s).2 := by
  unfold requestAbort
  split
  next => exact .refl
  next hd => exact (abortRun_moves hd).moves

theorem requestHold_moves (s : State) : Moves web stamps mail s (requestHold s).2 := by
  unfold requestHold
  split
  next ha _ => exact .single (.request s.acq.state .hold (by simp [ha]) (by simp [ha]))
  next ha _ => exact .single (.request s.acq.state .none (by simp [ha]) (by simp [ha]))
  next => exact .refl

theorem requestResume_moves (s : State) : Moves web stamps mail s (requestResume s).2 := by
  unfold requestResume
  split
  next ha _ => exact .single (.request s.acq.state .resume (by simp [ha]) (by simp [ha]))
  next ha _ => exact .single (.request s.acq.state .none (by simp [ha]) (by simp [ha]))
  next => exact .refl

theorem unlessFaulted_moves {request : State → RequestResult × State} {s : State}
    (h : Moves web stamps mail s (request s).2) : Moves web stamps mail s (unlessFaulted request s).2 := by
  unfold unlessFaulted
  split
  · exact .refl
  · exact h

theorem lineRequest_moves {request : State → RequestResult × State} {s : State}
    (h : Moves web stamps mail s (request s).2) : Moves web stamps mail s (lineRequest request s) := by
  have hrequest := unlessFaulted_moves h
  unfold lineRequest
  dsimp only
  split
  · exact hrequest.trans (bump_moves _ _)
  · exact hrequest

/-- A step that a held bridge does not make is moves when its effect is. -/
theorem unlessReset_moves {f : State → State} {s t : State} (h : Moves web stamps mail s (f s))
    (ht : unlessReset f s = .next t) : Moves web stamps mail s t := by
  unfold unlessReset at ht
  split at ht <;> cases ht
  · exact .refl
  · exact h

theorem carryOut_moves {code : Byte} {f : TakenCommand → State → State}
    (h : ∀ c s, Moves web stamps True s (f c s)) (s : State) : Moves web stamps True s (carryOut code f s) := by
  unfold carryOut
  split
  next => exact .refl
  next c _ =>
    split
    · exact (quiet_released s).moves.trans (h c _)
    · exact .refl

theorem commandedRequest_moves {request : State → RequestResult × State}
    (h : ∀ s, Moves web stamps True s (request s).2) (c : TakenCommand) (s : State) :
    Moves web stamps True s (commandedRequest request c s) :=
  respond_moves _ _ _ _ (unlessFaulted_moves (h s))

theorem refusedIfFaulted_moves {f : TakenCommand → State → State}
    (h : ∀ c s, s.profile.faulted = false → Moves web stamps True s (f c s)) (c : TakenCommand) (s : State) :
    Moves web stamps True s (refusedIfFaulted f c s) := by
  unfold refusedIfFaulted
  split
  · exact respond_moves _ _ _ _ .refl
  next hf => exact h c s (Bool.eq_false_iff.2 hf)

theorem takeLoadMap_moves (c : TakenCommand) {s : State} (hf : s.profile.faulted = false) :
    Moves web stamps True s (takeLoadMap c s) := by
  unfold takeLoadMap
  dsimp only
  split
  · exact respond_moves _ _ _ _ .refl
  · exact (quiet_setProgress fun _ _ _ => hf).moves.trans (requestRead_moves _ _ _ _)

theorem takeSaveProfile_moves (c : TakenCommand) (s : State) : Moves web stamps True s (takeSaveProfile c s) := by
  unfold takeSaveProfile
  dsimp only
  split
  · exact respond_moves _ _ _ _ .refl
  · split
    · exact respond_moves _ _ _ _ .refl
    · exact (quiet_setProgress (by simp)).moves.trans (requestRead_moves _ _ _ _)

theorem takeStatus_moves (c : TakenCommand) (s : State) : Moves web stamps True s (takeStatus c s) := by
  refine respond_moves _ _ _ _ ?_
  split
  · exact (quiet_counters _ s).moves
  · exact .refl

theorem programmingDone_moves (s : State) : Moves web stamps True s (programmingDone s) := by
  unfold programmingDone
  split
  next => exact endSave_moves _ _ (Quiet.moves ⟨rfl, le_rfl, fun _ _ => .inl, .inl trivial⟩)
  next => exact .refl

theorem takeReset_moves (c : TakenCommand) (s : State) : Moves web stamps True s (takeReset c s) := by
  have hbegun := (quiet_setProgress (p := some .reset) (s := s) (by simp)).moves (web := web) (stamps := stamps) (mail := True)
  unfold takeReset
  dsimp only
  split
  · exact hbegun.trans (resetBridge_moves _ _)
  · exact hbegun

theorem answerUnsupported_moves (s : State) : Moves web stamps True s (answerUnsupported s) := by
  unfold answerUnsupported
  split
  next => exact .refl
  next c _ =>
    split
    · exact .refl
    · exact respond_moves _ _ _ _ (quiet_released s).moves

theorem observeJobLine_moves (level : Bool) (s : State) : Moves web stamps True s (observeJobLine level s) := by
  have hlevel : Moves web stamps True s { s with acq := { s.acq with jobLevel := some level } } :=
    Quiet.moves ⟨rfl, le_rfl, fun _ _ => .inl, .inl trivial⟩
  unfold observeJobLine
  dsimp only
  split
  next => exact hlevel
  next =>
    split
    · exact hlevel
    · refine hlevel.trans ?_
      split
      · unfold risingEdge
        split
        next => exact .refl
        next => exact lineRequest_moves (requestResume_moves _)
        next => exact lineRequest_moves (requestArm_moves _)
        next => exact .refl
        next =>
          split
          · exact resetBridge_moves _ _
          · exact .refl
      · unfold fallingEdge
        split
        next => exact .refl
        next => exact lineRequest_moves (requestHold_moves _)
        next => exact lineRequest_moves (requestDisarm_moves _)
        next => exact lineRequest_moves (requestAbort_moves _)
        next => exact Quiet.moves ⟨rfl, le_rfl, fun _ _ => .inl, .inl trivial⟩

/-- Every command is a sequence of moves. The encoder and the strobe's numbers are written at an encoder transition
only, a lane's mismatch count at a grant only. -/
theorem exec_moves {c : Instr} {s t : State} (h : exec c s = .next t) :
    Moves (∃ p n, c = .encoderTransition p n) (c = .outletPlaceGrant) True s t := by
  cases c with
  | inletTransactionTaken x =>
    cases h
    have hheld : Quiet True s { s with inletHeld := s.inletHeld ++ [x] } := ⟨rfl, le_rfl, fun _ _ => .inl, .inl trivial⟩
    exact hheld.moves.trans (settleInlet_frame _).quiet.moves
  | outletPlaceGrant =>
    refine unlessReset_moves ?_ h
    split
    next hfree =>
      exact Relation.ReflTransGen.mono (fun _ _ hm => by simpa using hm) _ _ (grantPlace_moves (web := _) hfree.1)
    next => exact .refl
  | outletTransactionLeaves => exact unlessReset_moves (leaveOutlet_quiet s).moves h
  | resetDrainEnd =>
    refine unlessReset_moves ?_ h
    split
    · exact resetBridge_moves _ s
    · exact .refl
  | readCompletion x =>
    cases h
    split
    · exact Quiet.moves ⟨rfl, le_rfl, fun _ _ => .inl, .inl trivial⟩
    · exact reservedCompletion_moves x s
  | tagAssigned => exact unlessReset_moves (assignTag_quiet s).moves h
  | encoderTransition p n =>
    refine unlessReset_moves (f := fun s => observePair p (setClock (s.clock + n) s)) ?_ h
    have hmoves := observePair_moves (mail := True) (stamps := Instr.encoderTransition p n = .outletPlaceGrant) p (s.clock + n) s
    exact Relation.ReflTransGen.mono (fun _ _ hm => by simpa using hm) _ _ hmoves
  | strobePulseEnd => exact unlessReset_moves (endPulse_quiet s).moves h
  | markEdge level => exact unlessReset_moves (observeMark_moves level s) h
  | openingOperationBegin => exact unlessReset_moves (beginOpening_moves s).moves h
  | pollTimerExpiry => exact unlessReset_moves (pollTimerExpires_moves s) h
  | arm => exact unlessReset_moves (carryOut_moves (commandedRequest_moves requestArm_moves) s) h
  | disarm => exact unlessReset_moves (carryOut_moves (commandedRequest_moves requestDisarm_moves) s) h
  | abort => exact unlessReset_moves (carryOut_moves (commandedRequest_moves requestAbort_moves) s) h
  | hold => exact unlessReset_moves (carryOut_moves (commandedRequest_moves requestHold_moves) s) h
  | resume => exact unlessReset_moves (carryOut_moves (commandedRequest_moves requestResume_moves) s) h
  | loadMap =>
    exact unlessReset_moves
      (carryOut_moves (refusedIfFaulted_moves fun c _ hf => takeLoadMap_moves c hf) s) h
  | status => exact unlessReset_moves (carryOut_moves takeStatus_moves s) h
  | ack =>
    refine unlessReset_moves (carryOut_moves (refusedIfFaulted_moves fun c s _ => ?_) s) h
    exact respond_moves _ _ _ _ (quiet_attention _ s).moves
  | setMask =>
    refine unlessReset_moves (carryOut_moves (refusedIfFaulted_moves fun c s _ => ?_) s) h
    exact respond_moves _ _ _ _ (quiet_attention _ s).moves
  | readProfile =>
    exact unlessReset_moves (carryOut_moves (refusedIfFaulted_moves fun c s _ => respond_moves _ _ _ _ .refl) s) h
  | saveProfile =>
    exact unlessReset_moves (carryOut_moves (refusedIfFaulted_moves fun c s _ => takeSaveProfile_moves c s) s) h
  | profileProgrammingDone => exact unlessReset_moves (programmingDone_moves s) h
  | reset => exact unlessReset_moves (carryOut_moves takeReset_moves s) h
  | unsupportedCommand => exact unlessReset_moves (answerUnsupported_moves s) h
  | jobLineEdge level => exact unlessReset_moves (observeJobLine_moves level s) h
  | powerUp =>
    cases h
    exact resetBridge_moves _ s
  | resetLineAssert =>
    have hheld : Quiet True s { s with resetLine := true, strobe := { s.strobe with lineUntil := none } } :=
      ⟨rfl, le_rfl, fun _ _ => .inl, .inl trivial⟩
    exact unlessReset_moves
      (f := fun s => { s with resetLine := true, strobe := { s.strobe with lineUntil := none } }) hheld.moves h
  | resetLineRelease =>
    cases h
    split
    · exact (Quiet.moves ⟨rfl, le_rfl, fun _ _ => .inl, .inl trivial⟩ : Moves _ _ True s { s with resetLine := false }).trans
        (resetBridge_moves _ _)
    · exact .refl

/-- A step is the command at the front of the queue, carried out on a state that differs in the queue alone. -/
theorem step_cases {s t : State} (h : step s = .next t) :
    t = s ∨ ∃ c rest, exec c { s with pending := rest } = .next t := by
  unfold step at h
  split at h
  next => exact .inl (by cases h; rfl)
  next c rest _ => exact .inr ⟨c, rest, h⟩

end

end Sys2Proof.RunProofs
end

section
/-! SUPPORT and PROOFS. The invariants of the run, each kept by every move: sizes, the Line Ring, DISARMED and FAULTED,
travel, the record allowance, and the head of the write list. -/

namespace Sys2Proof.RunProofs

open Sys2Proof Sys2Proof.Machine Sys2Proof.AcquisitionProofs

/-! ### What quiet moves leave alone -/

section
variable {mail : Prop} {s t : State} (h : Quiet mail s t)
include h

theorem Quiet.ring : t.ring = s.ring := by rw [h.kept]
theorem Quiet.maps : t.maps = s.maps := by rw [h.kept]
theorem Quiet.table : t.table = s.table := by rw [h.kept]
theorem Quiet.list : t.list = s.list := by rw [h.kept]
theorem Quiet.ringUnit : t.ringUnit = s.ringUnit := by rw [h.kept]
theorem Quiet.state : t.acq.state = s.acq.state := by rw [h.kept]
theorem Quiet.request : t.acq.request = s.acq.request := by rw [h.kept]
theorem Quiet.tracker : t.tracker = { s.tracker with markLevel := t.tracker.markLevel } := by rw [h.kept]
theorem Quiet.faulted : t.profile.faulted = s.profile.faulted := by rw [h.kept]
theorem Quiet.highWater : t.encoder.highWater = s.encoder.highWater := by rw [h.kept]
theorem Quiet.strobe : t.strobe = { s.strobe with lineUntil := t.strobe.lineUntil } := by rw [h.kept]

end

/-! ### Counts of jobs -/

/-- The jobs of a kind on the list. -/
def jobCount (p : Job → Bool) (s : State) : Nat := s.list.jobs.countP p

theorem jobCount_settleList_le (p : Job → Bool) (s : State) : jobCount p (settleList s) ≤ jobCount p s := by
  unfold jobCount settleList
  split
  · exact (settleJobs_suffix _ _).sublist.countP_le
  · exact le_rfl

/-- Settling discards FILL jobs only. -/
theorem jobCount_settleList {p : Job → Bool} (hp : ∀ f, p (.fill f) = false) (s : State) :
    jobCount p (settleList s) = jobCount p s := by
  have hcount (js : List Job) : js.countP p = (js.filter fun j => !isFill j).countP p := by
    rw [List.countP_filter]
    refine List.countP_congr fun j _ => ?_
    cases j <;> simp [isFill, hp]
  unfold jobCount settleList
  split
  · rw [hcount, settleJobs_others, ← hcount]
  · rfl

theorem jobCount_enqueue_le (p : Job → Bool) (j : Job) (s : State) :
    jobCount p (enqueue j s) ≤ jobCount p s + if p j then 1 else 0 := by
  refine (jobCount_settleList_le p _).trans ?_
  simp [jobCount, List.countP_append, List.countP_singleton]

theorem jobCount_enqueue {p : Job → Bool} (hp : ∀ f, p (.fill f) = false) (j : Job) (s : State) :
    jobCount p (enqueue j s) = jobCount p s + if p j then 1 else 0 := by
  rw [enqueue, jobCount_settleList hp]
  simp [jobCount, List.countP_append, List.countP_singleton]

theorem jobCount_headLeaves_le (p : Job → Bool) (s : State) : jobCount p (headLeaves s) ≤ jobCount p s :=
  (jobCount_settleList_le p _).trans (List.tail_sublist _).countP_le

theorem jobCount_removeJobs_le (p q : Job → Bool) (s : State) : jobCount p (removeJobs q s) ≤ jobCount p s :=
  (jobCount_settleList_le p _).trans List.filter_sublist.countP_le

theorem jobCount_bindJobs {p : Job → Bool} (hp : ∀ f g, p (.fill f) = p (.fill g)) (k : Nat) (b : Buffer) (s : State) :
    jobCount p (bindJobs k b s) = jobCount p s := by
  unfold jobCount bindJobs
  rw [List.countP_map]
  refine List.countP_congr fun j _ => ?_
  cases j with
  | fill f =>
    simp only [Function.comp, bindJob]
    split
    · rw [hp]
    · rfl
  | record r => rfl
  | response r => rfl

theorem jobCount_queueRecord_le (p : Job → Bool) (hp : ∀ r, p (.record r) = false) (e : Entry) (st : RecordStatus)
    (s : State) : jobCount p (queueRecord e st s) ≤ jobCount p s := by
  refine (jobCount_enqueue_le p _ _).trans ?_
  simp [hp, jobCount]

theorem jobCount_queueRecords_le (p : Job → Bool) (hp : ∀ r, p (.record r) = false) (f : Entry → Entry)
    (st : RecordStatus) (es : List Entry) (s : State) :
    jobCount p (es.foldl (fun t e => queueRecord (f e) st t) s) ≤ jobCount p s := by
  induction es generalizing s with
  | nil => exact le_rfl
  | cons e es ih => exact (ih _).trans (jobCount_queueRecord_le p hp _ _ s)

/-- A run queues no job but FILL and RECORD jobs, and a FILL job only below the limit. -/
theorem RunMove.jobCount_le {p : Job → Bool} (hr : ∀ r, p (.record r) = false) (hf : ∀ f g, p (.fill f) = p (.fill g))
    {n : Nat} (hn : ∀ f, p (.fill f) = true → ∀ s, fillCount s < 240 → jobCount p s < n) {s t : State}
    (h : RunMove s t) (hs : jobCount p s ≤ n) : jobCount p t ≤ n := by
  cases h with
  | line h =>
    cases h with
    | fill f _ hlt =>
      have hle := jobCount_enqueue_le p (.fill f) s
      split at hle
      next hpf => exact hle.trans (hn f hpf s hlt)
      next => exact hle.trans hs
    | _ => exact hs
  | close b _ _ _ =>
    refine le_trans (jobCount_queueRecord_le p hr _ _ _) ?_
    rwa [jobCount_bindJobs hf]
  | free _ _ => exact le_trans (jobCount_removeJobs_le p _ s) hs
  | disarm _ _ => rwa [jobCount, enterDisarmed_list]
  | abort _ =>
    exact le_trans ((jobCount_removeJobs_le p _ _).trans (jobCount_queueRecords_le p hr _ _ _ _)) hs
  | cutOver => rwa [jobCount, cutOver_list]
  | openRepeat row k m _ => rwa [jobCount, openRepeat_eq]
  | drop _ => exact le_trans (jobCount_settleList_le p _) hs
  | faultDrop _ _ =>
    unfold faultDropped
    dsimp only
    split
    · exact (jobCount_queueRecord_le p hr _ _ _).trans ((jobCount_settleList_le p _).trans hs)
    · exact (jobCount_settleList_le p _).trans hs
  | opened b _ => exact (jobCount_settleList_le p _).trans hs
  | _ => exact hs

/-! ### Sizes (R11, R43, R82, R105) -/

theorem fillCount_eq (s : State) : fillCount s = jobCount isFill s := rfl

/-- The entries of a table grow at the opening of a repeat only. -/
theorem RunMove.entries_length_le {s t : State} (h : RunMove s t) (hs : s.table.entries.length ≤ 4) :
    t.table.entries.length ≤ 4 := by
  cases h with
  | line h =>
    cases h with
    | counts => simpa using hs
    | fill f _ _ => rwa [enqueue_table]
    | _ => exact hs
  | close b _ _ _ =>
    rw [removeEntry_entries, queueRecord_eq]
    exact (List.length_filter_le _ _).trans hs
  | free _ _ =>
    rw [removeEntry_entries, removeJobs_table]
    exact (List.length_filter_le _ _).trans hs
  | disarm _ _ => rwa [enterDisarmed_table]
  | abort _ => rw [abortTable_eq]; exact Nat.zero_le 4
  | cutOver => rwa [cutOver_table]
  | openRepeat row k m _ =>
    unfold Machine.openRepeat
    dsimp only
    split
    next hlt =>
      have hfour : s.table.entries.length < 4 := hlt
      simp only [List.length_append, List.length_singleton]
      omega
    next => exact hs
  | takeDescriptor m _ => simpa [Machine.takeDescriptor] using hs
  | drop _ => simpa [dropState] using hs
  | faultDrop _ _ =>
    unfold faultDropped
    dsimp only
    split
    · rw [queueRecord_eq]
      simpa [dropState] using hs
    · simpa [dropState] using hs
  | opened b _ => simpa using hs
  | _ => exact hs

theorem RunMove.coast_le {s t : State} (h : RunMove s t) (hs : s.tracker.coast ≤ 8) : t.tracker.coast ≤ 8 := by
  cases h with
  | line h => rwa [h.frame]
  | close b _ _ _ => rwa [queueRecord_eq]
  | free _ _ => rwa [removeJobs_eq]
  | disarm _ _ => rw [enterDisarmed_tracker]; exact Nat.zero_le 8
  | abort _ => rwa [abortTable_eq]
  | cutOver => rwa [cutOver_tracker]
  | track tr _ _ hc => exact hc hs
  | openRepeat row k m _ => rwa [openRepeat_eq]
  | drop _ => rwa [dropState, settleList_eq]
  | faultDrop _ _ => rwa [faultDropped_eq]
  | opened b _ => rwa [settleList_eq]
  | _ => exact hs

theorem RunMove.outlet_le {s t : State} (h : RunMove s t) (hs : s.outlet.length ≤ 64) : t.outlet.length ≤ 64 := by
  cases h with
  | line h => rwa [h.frame]
  | place w hlt => simpa using hlt
  | close b _ _ _ => rwa [queueRecord_eq]
  | free _ _ => rwa [removeJobs_eq]
  | disarm _ _ => rwa [enterDisarmed_outlet]
  | abort _ => rwa [abortTable_eq]
  | cutOver => rwa [cutOver_outlet]
  | openRepeat row k m _ => rwa [openRepeat_eq]
  | drop _ => rwa [dropState, settleList_eq]
  | faultDrop _ _ => rwa [faultDropped_eq]
  | opened b _ => rwa [settleList_eq]
  | _ => exact hs

theorem Move.sized {web stamps mail : Prop} {s t : State} (hs : Sized s) (h : Move web stamps mail s t) : Sized t := by
  obtain ⟨hout, hfill, hlen, hcoast⟩ := hs
  have hjobs (u : State) (hu : jobCount isFill u ≤ jobCount isFill s) : fillCount u ≤ 240 := hu.trans hfill
  cases h with
  | run h =>
    exact ⟨h.outlet_le hout, h.jobCount_le (fun _ => rfl) (fun _ _ => rfl) (fun _ _ _ hlt => hlt) hfill,
      h.entries_length_le hlen, h.coast_le hcoast⟩
  | quiet h =>
    refine ⟨h.outlet.trans hout, ?_, ?_, ?_⟩
    · rwa [fillCount, h.list]
    · rwa [h.table]
    · rwa [h.tracker]
  | headLeaves =>
    refine ⟨?_, hjobs _ (jobCount_headLeaves_le _ s), ?_, ?_⟩ <;> rw [headLeaves_eq] <;> assumption
  | respond _ q c r d =>
    refine ⟨by simpa using hout, hjobs _ ?_, by simpa using hlen, by simpa using hcoast⟩
    exact (jobCount_enqueue_le isFill _ s).trans (by simp [isFill])
  | arm hd hm =>
    rw [armBlocks_eq]
    refine ⟨hout, hfill, Nat.zero_le 4, ?_⟩
    unfold armTracker
    cases s.maps.live <;> split <;> exact Nat.zero_le 8
  | reset => exact ⟨Nat.zero_le 64, Nat.zero_le 240, Nat.zero_le 4, Nat.zero_le 8⟩
  | _ => exact ⟨hout, hfill, hlen, hcoast⟩

/-! ### The Line Ring's lists -/

theorem ringOrdered_clear {s : State} (hb : s.ring.bindings = []) (hs : s.ring.slots = Lanes.every []) :
    RingOrdered s := by
  refine ⟨by rw [hb]; exact List.Pairwise.nil, fun l => ?_⟩
  rw [hs, Lanes.get_every]
  exact List.Pairwise.nil

theorem ringOrdered_of_same {s t : State} (hs : RingOrdered s) (hb : t.ring.bindings = s.ring.bindings)
    (hl : t.ring.slots = s.ring.slots) : RingOrdered t := by
  unfold RingOrdered
  rw [hb, hl]
  exact hs

theorem LineMove.ringOrdered {s t : State} (h : LineMove s t) (hs : RingOrdered s) : RingOrdered t := by
  cases h with
  | slot l i r _ =>
    refine ⟨hs.1, fun k => ?_⟩
    by_cases hk : k = l
    · subst hk
      rw [setSlot, Lanes.get_set_same]
      exact slotPut_rises i r (hs.2 k)
    · rw [setSlot, Lanes.get_set_other _ _ hk]
      exact hs.2 k
  | binding i v _ => exact ⟨slotPut_rises i v hs.1, hs.2⟩
  | fill f _ _ => exact ringOrdered_of_same hs (by simp) (by simp)
  | _ => exact hs

/-- Moves of a run outside the Line Ring leave it alone, but for entry into DISARMED. -/
theorem RunMove.ring_cases {s t : State} (h : RunMove s t) :
    LineMove s t ∨ (t = enterDisarmed s ∧ s.acq.state ≠ .disarmed ∧ s.table.entries = []) ∨ t.ring = s.ring := by
  cases h with
  | line h => exact .inl h
  | disarm ha he => exact .inr (.inl ⟨rfl, ha, he⟩)
  | close b _ _ _ => exact .inr (.inr (by rw [queueRecord_eq]; rfl))
  | free _ _ => exact .inr (.inr (by rw [removeJobs_eq]; rfl))
  | abort _ => exact .inr (.inr (by rw [abortTable_eq]))
  | cutOver => exact .inr (.inr (cutOver_ring s))
  | openRepeat row k m _ => exact .inr (.inr (by rw [openRepeat_eq]))
  | drop _ => exact .inr (.inr (by rw [dropState, settleList_eq]; rfl))
  | faultDrop _ _ => exact .inr (.inr (by rw [faultDropped_eq]))
  | opened b _ => exact .inr (.inr (by rw [settleList_eq]; rfl))
  | _ => exact .inr (.inr rfl)

theorem Move.ringOrdered {web stamps mail : Prop} {s t : State} (hs : RingOrdered s)
    (h : Move web stamps mail s t) : RingOrdered t := by
  cases h with
  | run h =>
    rcases h.ring_cases with h | ⟨rfl, -, -⟩ | h
    · exact h.ringOrdered hs
    · exact ringOrdered_clear (enterDisarmed_bindings s) (enterDisarmed_slots s)
    · exact ringOrdered_of_same hs (by rw [h]) (by rw [h])
  | quiet h => exact ringOrdered_of_same hs (by rw [h.ring]) (by rw [h.ring])
  | headLeaves => exact ringOrdered_of_same hs (by rw [headLeaves_eq]) (by rw [headLeaves_eq])
  | respond _ q c r d => exact ringOrdered_of_same hs (by simp) (by simp)
  | makeLive => exact ringOrdered_clear rfl rfl
  | arm => rw [armBlocks_eq]; exact ringOrdered_clear rfl rfl
  | reset => exact ringOrdered_clear rfl rfl
  | _ => exact hs

/-! ### Mismatches (R64, R65) -/

theorem mismatchesInRange_makeLive (m : SteeringMap) {s : State} (hs : MismatchesInRange s) :
    MismatchesInRange (makeLive m s) := by
  intro l
  obtain ⟨hthree, htwo⟩ := hs l
  simp only [makeLive, Lanes.get_ofFn, stepAtMap, mismatchesAtMap]
  split
  · split
    · simp
    next => exact ⟨hthree, htwo⟩
  · simp

theorem mismatchesInRange_enterDisarmed {s : State} (hs : MismatchesInRange s) :
    MismatchesInRange (enterDisarmed s) := by
  unfold enterDisarmed adoptStaged
  split
  · exact hs
  · exact mismatchesInRange_makeLive (s := _) _ hs

theorem mismatchesInRange_of_same {s t : State} (hs : MismatchesInRange s) (h : t.ring = s.ring) :
    MismatchesInRange t := by
  unfold MismatchesInRange
  rw [h]
  exact hs

theorem mismatchesInRange_outOfStep (k : Lane) {s t : State} (hm : t.ring.mismatches = s.ring.mismatches)
    (ht : t.ring.step = s.ring.step.set k .outOfStep)
    (hs : ∀ l, s.ring.mismatches.get l ≤ 3 ∧ (l ≠ k → s.ring.step.get l = .inStep → s.ring.mismatches.get l ≤ 2)) :
    MismatchesInRange t := by
  intro l
  rw [hm, ht]
  refine ⟨(hs l).1, fun hstep => ?_⟩
  by_cases hk : l = k
  · subst hk
    rw [Lanes.get_set_same] at hstep
    cases hstep
  · rw [Lanes.get_set_other _ _ hk] at hstep
    exact (hs l).2 hk hstep

theorem LineMove.mismatchesInRange {s t : State} (h : LineMove s t) (hs : MismatchesInRange s) :
    MismatchesInRange t := by
  cases h with
  | outOfStep k => exact mismatchesInRange_outOfStep (s := s) k rfl rfl fun l => ⟨(hs l).1, fun _ => (hs l).2⟩
  | fill f _ _ => exact mismatchesInRange_of_same hs (by simp)
  | _ => exact hs

theorem Move.mismatchesInRange {web mail : Prop} {s t : State} (hs : MismatchesInRange s)
    (h : Move web False mail s t) : MismatchesInRange t := by
  cases h with
  | run h =>
    rcases h.ring_cases with h | ⟨rfl, -, -⟩ | h
    · exact h.mismatchesInRange hs
    · exact mismatchesInRange_enterDisarmed hs
    · exact mismatchesInRange_of_same hs h
  | quiet h => exact mismatchesInRange_of_same hs h.ring
  | stamp h => exact h.elim
  | headLeaves => exact mismatchesInRange_of_same hs (by rw [headLeaves_eq])
  | respond _ q c r d => exact mismatchesInRange_of_same hs (by simp)
  | makeLive => exact mismatchesInRange_makeLive _ hs
  | arm =>
    rw [armBlocks_eq]
    intro l
    simp
  | reset =>
    intro l
    simp [performReset, LineRing.initial]
  | _ => exact hs

/-! ### DISARMED (R38, R67, R127, R140, R148) -/

/-- A bridge quiet in DISARMED is not running. -/
theorem not_running_of_quiet {s : State} (hs : DisarmedQuiet s) (hd : s.acq.state = .disarmed) : ¬Running s := by
  rintro ⟨-, h | h⟩
  · exact h hd
  · exact h (hs hd).2.2.1

theorem disarmedQuiet_of_armed {s : State} (h : s.acq.state ≠ .disarmed) : DisarmedQuiet s := fun hd => absurd hd h

/-- In DISARMED the fields that are quiet there stand, or the table loses entries. -/
theorem disarmedQuiet_of_same {s t : State} (hs : DisarmedQuiet s) (ha : t.acq.state = .disarmed → s.acq.state = .disarmed)
    (he : s.table.entries = [] → t.table.entries = []) (hr : t.ring = s.ring)
    (ht : ∃ lv, t.tracker = { s.tracker with markLevel := lv }) (hm : t.maps.staged = s.maps.staged)
    (hq : t.acq.request = s.acq.request) : DisarmedQuiet t := by
  intro hd
  obtain ⟨h1, h2, h3, h4, h5, h6, h7, h8, h9⟩ := hs (ha hd)
  obtain ⟨lv, ht⟩ := ht
  rw [hr, ht, hm, hq]
  exact ⟨he h1, h2, h3, h4, h5, h6, h7, h8, h9⟩

theorem LineMove.disarmedQuiet {s t : State} (h : LineMove s t) (hs : DisarmedQuiet s) : DisarmedQuiet t := by
  intro hd
  have hd' : s.acq.state = .disarmed := by rwa [h.frame] at hd
  have hrun := not_running_of_quiet hs hd'
  have hquiet := hs hd'
  cases h with
  | counts key _ =>
    obtain ⟨he, hrest⟩ := hquiet
    exact ⟨by simp [he], hrest⟩
  | slot l i r h => exact absurd h hrun
  | binding i v h => exact absurd h hrun
  | fill f h _ => exact absurd h hrun
  | _ => exact hquiet

theorem RunMove.disarmedQuiet {s t : State} (h : RunMove s t) (hs : DisarmedQuiet s) : DisarmedQuiet t := by
  have hlevel : ∃ lv, s.tracker = { s.tracker with markLevel := lv } := ⟨_, rfl⟩
  cases h with
  | line h => exact h.disarmedQuiet hs
  | close b _ _ _ =>
    rw [queueRecord_eq]
    exact disarmedQuiet_of_same hs id (fun he => by simp [bindJobs, he]) rfl hlevel rfl rfl
  | free _ _ =>
    rw [removeJobs_eq]
    exact disarmedQuiet_of_same hs id (fun he => by simp [he]) rfl hlevel rfl rfl
  | disarm _ he =>
    intro _
    simp [he, Tracker.initial]
  | abort ha =>
    rw [abortTable_eq]
    exact disarmedQuiet_of_armed ha
  | cutOver =>
    intro hd
    rw [cutOver_acq] at hd
    rw [cutOver_of_noneStaged (hs hd).2.2.2.2.2.2.2.1]
    exact hs hd
  | track tr h _ _ =>
    intro hd
    rcases h with h | h
    · exact absurd hd h
    · exact absurd (hs hd).2.2.2.1 h
  | dropQualification =>
    intro hd
    obtain ⟨h1, h2, h3, h4, -, h6⟩ := hs hd
    exact ⟨h1, h2, h3, h4, rfl, h6⟩
  | ruling =>
    intro hd
    cases ha : s.acq.state with
    | disarmed =>
      obtain ⟨h1, h2, h3, h4, h5, h6, h7, h8, -⟩ := hs ha
      exact ⟨h1, h2, h3, h4, h5, h6, h7, h8, by simp [openingRule]⟩
    | _ => cases hr : s.acq.request <;> simp [ha, hr, openingRule] at hd
  | openRepeat row k m ha =>
    rw [openRepeat_eq]
    exact disarmedQuiet_of_armed ha
  | takeDescriptor m _ => exact disarmedQuiet_of_same hs id (fun he => by simp [Machine.takeDescriptor, he]) rfl hlevel rfl rfl
  | drop _ =>
    unfold dropState
    exact disarmedQuiet_of_same hs (by simp) (fun he => by simp [he]) (by simp) (by simpa using hlevel) (by simp) (by simp)
  | faultDrop _ _ =>
    refine disarmedQuiet_of_same hs (by rw [faultDropped_eq]; exact id) (fun he => ?_) (by rw [faultDropped_eq])
      (by rw [faultDropped_eq]; exact hlevel) (by rw [faultDropped_eq]) (by rw [faultDropped_eq])
    unfold faultDropped
    dsimp only
    split
    · rw [queueRecord_eq]
      simp [dropState, he]
    · simp [dropState, he]
  | opened b _ =>
    exact disarmedQuiet_of_same hs (by simp) (fun he => by simp [he]) (by simp) (by simpa using hlevel) (by simp) (by simp)
  | _ => exact hs

theorem Move.disarmedQuiet {web stamps mail : Prop} {s t : State} (hs : DisarmedQuiet s)
    (h : Move web stamps mail s t) : DisarmedQuiet t := by
  have hlevel : ∃ lv, s.tracker = { s.tracker with markLevel := lv } := ⟨_, rfl⟩
  cases h with
  | run h => exact h.disarmedQuiet hs
  | quiet h =>
    exact disarmedQuiet_of_same hs (h.state ▸ id) (by rw [h.table]; exact id) h.ring ⟨_, h.tracker⟩ (by rw [h.maps])
      h.request
  | stamp _ l n => exact hs
  | headLeaves =>
    rw [headLeaves_eq]
    exact hs
  | respond _ q c r d =>
    exact disarmedQuiet_of_same hs (by simp) (by simp) (by simp) (by simpa using hlevel) (by simp) (by simp)
  | request a rq _ ha => exact disarmedQuiet_of_armed ha
  | makeLive hd =>
    intro _
    obtain ⟨h1, -, -, h4, h5, h6, h7, h8, h9⟩ := hs hd
    exact ⟨h1, rfl, rfl, h4, h5, h6, h7, h8, h9⟩
  | stage ha _ _ => exact disarmedQuiet_of_armed ha
  | arm => rw [armBlocks_eq]; exact disarmedQuiet_of_armed (by simp)
  | reset => exact fun _ => ⟨rfl, rfl, rfl, rfl, rfl, rfl, rfl, rfl, rfl⟩
  | _ => exact hs

end Sys2Proof.RunProofs
end

section
/-! SUPPORT and PROOFS. More invariants kept by every move: FAULTED, travel, the record allowance and the head of the
write list; then the statements of the steps that rest on them. -/

namespace Sys2Proof.RunProofs

open Sys2Proof Sys2Proof.Machine Sys2Proof.AcquisitionProofs

/-! ### Members of the write list -/

theorem mem_settleList {j : Job} {s : State} (h : j ∈ (settleList s).list.jobs) : j ∈ s.list.jobs := by
  unfold settleList at h
  split at h
  · exact (settleJobs_suffix _ _).subset h
  · exact h

theorem mem_enqueue {j k : Job} {s : State} (h : j ∈ (enqueue k s).list.jobs) : j ∈ s.list.jobs ∨ j = k := by
  simpa using mem_settleList h

theorem mem_removeJobs {j : Job} {p : Job → Bool} {s : State} (h : j ∈ (removeJobs p s).list.jobs) :
    j ∈ s.list.jobs ∧ p j = false := by
  simpa using mem_settleList h

/-! ### FAULTED (R15, R165) -/

theorem faultedInert_of_same {s t : State} (hs : FaultedInert s) (hf : t.profile.faulted = s.profile.faulted)
    (ha : t.acq.state = s.acq.state) (ht : t.tracker.state = s.tracker.state) (hm : t.maps = s.maps)
    (hl : ∀ j ∈ t.list.jobs, j ∈ s.list.jobs ∨ isResponse j = true)
    (hp : ∀ q a, s.profile.faulted = true → t.mailbox.inProgress = some (.loadMap q a) →
      s.mailbox.inProgress = some (.loadMap q a)) : FaultedInert t := by
  intro hfault
  rw [hf] at hfault
  obtain ⟨h1, h2, h3, h4, h5, h6⟩ := hs hfault
  rw [ha, ht, hm]
  exact ⟨h1, h2, h3, h4, fun j hj => (hl j hj).elim (h5 j) id, fun q a h => h6 q a (hp q a hfault h)⟩

theorem RunMove.faultedInert {s t : State} (h : RunMove s t) (hs : FaultedInert s) : FaultedInert t := by
  have hkeep (hl : s.maps.live ≠ none ∨ s.acq.state ≠ .disarmed) : FaultedInert t := by
    intro hf
    have hf' : s.profile.faulted = true := by rwa [h.runFrame.kept] at hf
    obtain ⟨h1, -, h3, -⟩ := hs hf'
    rcases hl with hl | hl
    · exact absurd h3 hl
    · exact absurd h1 hl
  cases h with
  | line h =>
    cases h with
    | slot l i r h => exact hkeep (.inl h.1)
    | binding i v h => exact hkeep (.inl h.1)
    | fill f h _ => exact hkeep (.inl h.1)
    | _ => exact hs
  | close b _ _ hm => exact hkeep (.inl hm)
  | free _ _ =>
    refine faultedInert_of_same hs (by simp) (by simp) (by simp) (by simp) (fun j hj => ?_) fun q a _ h => by simpa using h
    exact .inl (mem_removeJobs hj).1
  | disarm ha _ => exact hkeep (.inr ha)
  | abort ha => exact hkeep (.inr ha)
  | cutOver =>
    intro hf
    have hf' : s.profile.faulted = true := by rwa [cutOver_profile] at hf
    rw [cutOver_of_noneStaged (hs hf').2.2.2.1]
    exact hs hf'
  | track tr h _ _ =>
    intro hf
    rcases h with h | h
    · exact hkeep (.inr h) hf
    · exact absurd (hs hf).2.1 h
  | ruling =>
    intro hf
    obtain ⟨h1, hrest⟩ := hs hf
    refine ⟨?_, hrest⟩
    simp [h1, openingRule]
  | openRepeat row k m ha => exact hkeep (.inr ha)
  | drop _ =>
    unfold dropState
    exact faultedInert_of_same hs (by simp) (by simp) (by simp) (by simp) (fun j hj => .inl (by simpa using mem_settleList hj)) fun q a _ h => by simpa using h
  | faultDrop _ hm => exact hkeep (.inl hm)
  | opened b _ =>
    exact faultedInert_of_same hs (by simp) (by simp) (by simp) (by simp) (fun j hj => .inl (by simpa using mem_settleList hj)) fun q a _ h => by simpa using h
  | _ => exact hs

theorem Move.faultedInert {web stamps mail : Prop} {s t : State} (hs : FaultedInert s)
    (h : Move web stamps mail s t) : FaultedInert t := by
  cases h with
  | run h => exact h.faultedInert hs
  | quiet h =>
    refine faultedInert_of_same hs h.faulted h.state (by rw [h.tracker]) h.maps (by rw [h.list]; exact fun j => .inl)
      fun q a hf hq => (h.load q a hq).resolve_right (by simp [hf])
  | headLeaves =>
    refine faultedInert_of_same hs (by simp) (by simp) (by simp) (by simp) (fun j hj => ?_) fun q a _ h => by simpa using h
    exact .inl ((List.tail_sublist _).subset (mem_settleList hj))
  | respond _ q c r d =>
    refine faultedInert_of_same hs (by simp) (by simp) (by simp) (by simp) (fun j hj => ?_) fun q a _ h => by simpa using h
    exact (mem_enqueue hj).imp_right fun h => by rw [h]; rfl
  | request a rq ha _ => exact fun hf => absurd (hs hf).1 ha
  | makeLive _ _ hl =>
    intro hf
    obtain ⟨q, a, hq⟩ := hl
    exact absurd hq ((hs hf).2.2.2.2.2 q a)
  | stage ha _ _ => exact fun hf => absurd (hs hf).1 ha
  | arm hd hm =>
    intro hf
    have hf' : s.profile.faulted = true := by rwa [armBlocks_eq] at hf
    have hnone := (hs hf').2.2.1
    rw [hm] at hnone
    cases hnone
  | reset =>
    exact fun _ => ⟨rfl, rfl, rfl, rfl, (fun j hj => by cases hj), fun q a h => by cases h⟩
  | _ => exact hs

/-! ### Travel (R24, R25, R28, R127, R129) -/

theorem travelAccounted_of_same {s t : State} (hs : TravelAccounted s) (ha : t.acq.state = s.acq.state)
    (hm : t.maps = s.maps) (he : t.encoder.highWater = s.encoder.highWater)
    (hb : t.strobe = { s.strobe with lineUntil := t.strobe.lineUntil }) : TravelAccounted t := by
  unfold TravelAccounted MapsAgree at *
  rw [ha, hm, he, hb]
  exact hs

/-- A map that agrees with the live one in every frozen field takes its place in the account of travel. -/
theorem travelAccounted_adopts {s t : State} {old m : SteeringMap} (hs : TravelAccounted s)
    (hold : s.maps.live = some old) (hagree : FrozenAgree old m) (hm : t.maps = { live := some m, staged := none })
    (ha : t.acq.state = s.acq.state ∨ t.acq.state = .disarmed) (he : t.encoder.highWater = s.encoder.highWater)
    (hb : t.strobe = s.strobe) : TravelAccounted t := by
  obtain ⟨-, hq, haccount⟩ := hs
  obtain ⟨-, -, -, -, -, hQ, -⟩ := hagree
  have hlive (m' : SteeringMap) (h' : t.maps.live = some m') : m' = m := by
    rw [hm] at h'
    exact (Option.some.inj h').symm
  refine ⟨⟨fun _ => by rw [hm], fun _ => ⟨m, by rw [hm], fun m' h' => by rw [hm] at h'; cases h'⟩⟩, ?_, ?_⟩
  · intro m' h'
    rw [hlive m' h', ← hQ]
    exact hq old hold
  · intro harmed m' h'
    rw [hlive m' h', ← hQ, he, hb]
    exact haccount (ha.resolve_right harmed ▸ harmed) old hold

/-- Acquisition state and maps change at entry into DISARMED, at a cut-over and by the opening rule. -/
theorem RunMove.acq_cases {s t : State} (h : RunMove s t) :
    (t.acq.state = s.acq.state ∧ t.maps = s.maps) ∨ (t = enterDisarmed s ∧ s.acq.state ≠ .disarmed) ∨
      t = Machine.cutOver s ∨
      t = setAcq (openingRule s.acq.state s.acq.request).2.1 (openingRule s.acq.state s.acq.request).2.2 s := by
  cases h with
  | line h => exact .inl (by rw [h.frame]; exact ⟨rfl, rfl⟩)
  | close b _ _ _ => exact .inl (by rw [queueRecord_eq]; exact ⟨rfl, rfl⟩)
  | free _ _ => exact .inl (by rw [removeJobs_eq]; exact ⟨rfl, rfl⟩)
  | disarm ha _ => exact .inr (.inl ⟨rfl, ha⟩)
  | abort _ => exact .inl (by rw [abortTable_eq]; exact ⟨rfl, rfl⟩)
  | cutOver => exact .inr (.inr (.inl rfl))
  | ruling => exact .inr (.inr (.inr rfl))
  | openRepeat row k m _ => exact .inl (by rw [openRepeat_eq]; exact ⟨rfl, rfl⟩)
  | drop _ => exact .inl (by rw [dropState, settleList_eq]; exact ⟨rfl, rfl⟩)
  | faultDrop _ _ => exact .inl (by rw [faultDropped_eq]; exact ⟨rfl, rfl⟩)
  | opened b _ => exact .inl (by rw [settleList_eq]; exact ⟨rfl, rfl⟩)
  | _ => exact .inl ⟨rfl, rfl⟩

theorem openingRule_disarmed {a : AcqState} {r : Request} : (openingRule a r).2.1 = .disarmed ↔ a = .disarmed := by
  cases a <;> cases r <;> simp [openingRule]

theorem RunMove.travelAccounted {s t : State} (h : RunMove s t) (hs : TravelAccounted s) : TravelAccounted t := by
  have hencoder : t.encoder = s.encoder := by rw [h.runFrame.kept]
  have hstrobe : t.strobe = s.strobe := by rw [h.runFrame.kept]
  rcases h.acq_cases with ⟨ha, hm⟩ | ⟨rfl, ha⟩ | rfl | rfl
  · exact travelAccounted_of_same hs ha hm (by rw [hencoder]) (by rw [hstrobe])
  · obtain ⟨old, hold, hagree⟩ := hs.1.2 ha
    cases hstaged : s.maps.staged with
    | none =>
      have hmaps : (enterDisarmed s).maps.live = s.maps.live := by rw [enterDisarmed_live, hstaged]; rfl
      refine ⟨⟨fun _ => enterDisarmed_staged s, fun h => ?_⟩, ?_, fun h => ?_⟩
      · exact absurd (by simp) h
      · rw [hmaps]
        exact hs.2.1
      · exact absurd (by simp) h
    | some m =>
      refine travelAccounted_adopts hs hold (hagree m hstaged) ?_ (.inr (by simp)) (by rw [hencoder]) hstrobe
      have hlive : (enterDisarmed s).maps.live = some m := by rw [enterDisarmed_live, hstaged]; rfl
      have hnone := enterDisarmed_staged s
      exact (congrArg₂ MapStore.mk hlive hnone : _)
  · cases hstaged : s.maps.staged with
    | none =>
      rw [cutOver_of_noneStaged hstaged]
      exact hs
    | some m =>
      have ha : s.acq.state ≠ .disarmed := fun hd => by
        have hnone := hs.1.1 hd
        rw [hstaged] at hnone
        cases hnone
      obtain ⟨old, hold, hagree⟩ := hs.1.2 ha
      exact travelAccounted_adopts hs hold (hagree m hstaged) (by simp [Machine.cutOver, hstaged]) (.inl (by simp))
        (by rw [hencoder]) hstrobe
  · obtain ⟨⟨hstaged, hagree⟩, hq, haccount⟩ := hs
    refine ⟨⟨fun hd => hstaged (openingRule_disarmed.1 hd), fun ha => hagree fun hd => ?_⟩, hq, fun ha => haccount fun hd => ?_⟩
    · exact ha (openingRule_disarmed.2 hd)
    · exact ha (openingRule_disarmed.2 hd)

theorem Move.travelAccounted {stamps mail : Prop} {s t : State} (hs : TravelAccounted s)
    (h : Move False stamps mail s t) : TravelAccounted t := by
  cases h with
  | run h => exact h.travelAccounted hs
  | quiet h => exact travelAccounted_of_same hs h.state h.maps h.highWater h.strobe
  | web h => exact h.elim
  | headLeaves => exact travelAccounted_of_same hs (by simp) (by simp) (by simp) (by simp)
  | respond _ q c r d => exact travelAccounted_of_same hs (by simp) (by simp) (by simp) (by simp)
  | request a rq hs' ha => exact ⟨⟨fun hd => absurd hd ha, fun _ => hs.1.2 hs'⟩, hs.2.1, fun _ => hs.2.2 hs'⟩
  | makeLive hd hq _ =>
    refine ⟨⟨fun _ => hs.1.1 hd, fun ha => absurd hd ha⟩, fun m' h' => ?_, fun ha => absurd hd ha⟩
    obtain rfl := Option.some.inj h'
    exact hq
  | stage ha _ hm =>
    obtain ⟨old, hold, -⟩ := hs.1.2 ha
    refine ⟨⟨fun hd => absurd hd ha, fun _ => ⟨old, hold, fun m' h' => ?_⟩⟩, hs.2⟩
    obtain rfl := Option.some.inj h'
    exact hm old hold
  | @arm m _ hd hm =>
    rw [armBlocks_eq]
    have hstaged := hs.1.1 hd
    have hq := hs.2.1 m hm
    refine ⟨⟨fun _ => hstaged, fun _ => ⟨m, hm, fun m' h' => ?_⟩⟩, hs.2.1, fun _ m' h' => ?_⟩
    · rw [hstaged] at h'
      cases h'
    · obtain rfl := Option.some.inj (hm.symm.trans h')
      exact ⟨rfl, by dsimp only; omega, le_rfl⟩
  | reset =>
    exact ⟨⟨fun _ => rfl, fun ha => absurd rfl ha⟩, (fun m' h' => by cases h'), fun ha => absurd rfl ha⟩
  | _ => exact hs

/-! ### Lists of things with keys of their own -/

section
variable {α : Type} (key : α → Nat) {xs : List α} {x : α}

/-- With keys named apart, a member stands between others of other keys. -/
theorem split_at_key (h : (xs.map key).Nodup) (hx : x ∈ xs) :
    ∃ as bs, xs = as ++ x :: bs ∧ ∀ y ∈ as ++ bs, key y ≠ key x := by
  obtain ⟨as, bs, rfl⟩ := List.append_of_mem hx
  refine ⟨as, bs, rfl, fun y hy heq => ?_⟩
  have hperm : ((as ++ x :: bs).map key).Perm (key x :: (as ++ bs).map key) := by
    simp
  have hnodup := (hperm.nodup_iff.1 h)
  exact (List.nodup_cons.1 hnodup).1 (heq ▸ List.mem_map_of_mem hy)

variable {as bs : List α} (h : ∀ y ∈ as ++ bs, key y ≠ key x)
include h

theorem map_at_key (f : α → α) :
    (as ++ x :: bs).map (fun y => if key y = key x then f y else y) = as ++ f x :: bs := by
  have hother (ys : List α) (hys : ∀ y ∈ ys, key y ≠ key x) :
      ys.map (fun y => if key y = key x then f y else y) = ys :=
    (List.map_congr_left fun y hy => if_neg (hys y hy)).trans (List.map_id ys)
  rw [List.map_append, List.map_cons, hother as fun y hy => h y (List.mem_append_left _ hy),
    hother bs fun y hy => h y (List.mem_append_right _ hy), if_pos rfl]

theorem filter_at_key : (as ++ x :: bs).filter (fun y => decide (key y ≠ key x)) = as ++ bs := by
  rw [List.filter_append, List.filter_cons_of_neg (by simp), ← List.filter_append]
  exact List.filter_eq_self.2 fun y hy => by simpa using h y hy

theorem find_at_key : (as ++ x :: bs).find? (fun y => decide (key y = key x)) = some x := by
  rw [List.find?_append, List.find?_eq_none.2 fun y hy => by simpa using h y (List.mem_append_left _ hy)]
  simp

end

/-! ### The record allowance (R106) -/

/-- What the record allowance goes by in an entry: its key, its state, and whether it holds a descriptor index. -/
structure Standing where
  key : Nat
  state : EntryState
  held : Bool

def standing (e : Entry) : Standing := { key := e.key, state := e.state, held := e.descIndex.isSome }

/-- An entry of this standing owes a record. -/
def Standing.owes (v : Standing) : Bool := v.held && decide (v.state ≠ .dropped)

/-- `AllowanceKept` of a number of RECORD jobs, of the standings of the table's entries, and of the opening operation. -/
structure Allowed (records : Nat) (vs : List Standing) (nextKey : Nat) (op : Option Opening) : Prop where
  total : records + vs.countP Standing.owes ≤ 4
  asked : ∀ o, op = some o → o.phase = .returnCount → records + vs.countP Standing.owes ≤ 3
  apart : (vs.map Standing.key).Nodup
  below : ∀ v ∈ vs, v.key < nextKey
  opened : ∀ v ∈ vs, v.state = .opened → v.held = true
  opening : ∀ v ∈ vs, v.state = .opening → (v.held = true ↔ op = some { key := v.key, phase := .descriptor })
  present : ∀ o, op = some o → ∃ v ∈ vs, v.key = o.key ∧ v.state = .opening

/-- The standings of the table. -/
def standings (s : State) : List Standing := s.table.entries.map standing

theorem recordAllowance_eq (s : State) :
    recordAllowance s = jobCount isRecord s + (standings s).countP Standing.owes := by
  rw [recordAllowance, jobCount, standings, List.countP_map]
  rfl

theorem allowanceKept_iff (s : State) :
    AllowanceKept s ↔
      Allowed (jobCount isRecord s) (standings s) s.table.nextKey s.ringUnit.opening ∧
        (s.acq.state = .disarmed → s.table.entries = []) := by
  have hkeys : (standings s).map Standing.key = s.table.entries.map Entry.key := by simp [standings, standing]
  unfold AllowanceKept
  rw [recordAllowance_eq, ← hkeys]
  constructor
  · rintro ⟨h1, h2, h3, h4, h5, h6, h7, h8⟩
    exact ⟨⟨h1, h2, h3, List.forall_mem_map.2 h4, List.forall_mem_map.2 h6, List.forall_mem_map.2 h7,
      fun o ho => by simpa [standings, standing] using h8 o ho⟩, h5⟩
  · rintro ⟨⟨h1, h2, h3, h4, h6, h7, h8⟩, h5⟩
    exact ⟨h1, h2, h3, List.forall_mem_map.1 h4, h5, List.forall_mem_map.1 h6, List.forall_mem_map.1 h7,
      fun o ho => by simpa [standings, standing] using h8 o ho⟩

section
variable {n nk : Nat} {as bs : List Standing} {v : Standing} {op : Option Opening}

/-- With a standing taken out that owed no less than the records that come in for it, and that no operation opens. -/
theorem Allowed.without {n' : Nat} (h : Allowed n (as ++ v :: bs) nk op) (hv : v.state ≠ .opening)
    (hn : n' ≤ n + if v.owes then 1 else 0) : Allowed n' (as ++ bs) nk op := by
  have hmem {u : Standing} (hu : u ∈ as ++ bs) : u ∈ as ++ v :: bs := by
    simp only [List.mem_append, List.mem_cons] at hu ⊢
    tauto
  have hcount : (as ++ v :: bs).countP Standing.owes = (as ++ bs).countP Standing.owes + if v.owes then 1 else 0 := by
    simp only [List.countP_append, List.countP_cons]
    omega
  obtain ⟨htotal, hasked, hapart, hbelow, hopened, hopening, hpresent⟩ := h
  rw [hcount] at htotal hasked
  refine ⟨by omega, fun o ho hp => ?_, ?_, fun u hu => hbelow u (hmem hu), fun u hu => hopened u (hmem hu),
    fun u hu => hopening u (hmem hu), fun o ho => ?_⟩
  · have := hasked o ho hp
    omega
  · refine hapart.sublist (List.Sublist.map _ ?_)
    exact List.Sublist.append_left (List.sublist_cons_self v bs) as
  · obtain ⟨u, hu, hkey, hstate⟩ := hpresent o ho
    have hne : u ≠ v := fun he => hv (he ▸ hstate)
    refine ⟨u, ?_, hkey, hstate⟩
    simp only [List.mem_append, List.mem_cons] at hu ⊢
    tauto

/-- With the standing of the opening operation's entry changed as the operation goes on or ends. -/
theorem Allowed.change {n' : Nat} {ph : OpeningPhase} {v' : Standing} {op' : Option Opening}
    (h : Allowed n (as ++ v :: bs) nk (some { key := v.key, phase := ph }))
    (hothers : ∀ u ∈ as ++ bs, u.key ≠ v.key) (hkey : v'.key = v.key)
    (htotal : n' + (if v'.owes then 1 else 0) + (as ++ bs).countP Standing.owes ≤ 4)
    (hopened : v'.state = .opened → v'.held = true)
    (hnext : op' = none ∧ v'.state ≠ .opening ∨
      op' = some { key := v.key, phase := .descriptor } ∧ v'.state = .opening ∧ v'.held = true) :
    Allowed n' (as ++ v' :: bs) nk op' := by
  have hold {u : Standing} (hu : u ∈ as ++ bs) : u ∈ as ++ v :: bs := by
    simp only [List.mem_append, List.mem_cons] at hu ⊢
    tauto
  have hsplit {u : Standing} (hu : u ∈ as ++ v' :: bs) : u = v' ∨ u ∈ as ++ bs := by
    simp only [List.mem_append, List.mem_cons] at hu ⊢
    tauto
  have hcount : (as ++ v' :: bs).countP Standing.owes = (if v'.owes then 1 else 0) + (as ++ bs).countP Standing.owes := by
    simp only [List.countP_append, List.countP_cons]
    omega
  have hasked (o : Opening) (ho : op' = some o) : o.phase ≠ .returnCount := by
    rcases hnext with ⟨hop, -⟩ | ⟨hop, -⟩
    · rw [hop] at ho
      cases ho
    · rw [hop] at ho
      cases ho
      simp
  refine ⟨by rw [hcount]; omega, fun o ho hp => absurd hp (hasked o ho), ?_, fun u hu => ?_, fun u hu hu' => ?_,
    fun u hu hu' => ?_, fun o ho => ?_⟩
  · have hapart := h.apart
    simpa [hkey] using hapart
  · rcases hsplit hu with rfl | hu
    · rw [hkey]
      exact h.below v (by simp)
    · exact h.below u (hold hu)
  · rcases hsplit hu with rfl | hu
    · exact hopened hu'
    · exact h.opened u (hold hu) hu'
  · rcases hsplit hu with rfl | hu
    · rcases hnext with ⟨-, hne⟩ | ⟨hop, -, hheld⟩
      · exact absurd hu' hne
      · simp [hop, hheld, hkey]
    · have hkeys := hothers u hu
      have hbefore := h.opening u (hold hu) hu'
      have hnot : u.held = false := by
        refine Bool.eq_false_iff.2 fun hheld => hkeys ?_
        have := hbefore.1 hheld
        simp only [Option.some.injEq, Opening.mk.injEq] at this
        exact this.1.symm
      rcases hnext with ⟨hop, -⟩ | ⟨hop, -⟩
      · simp [hop, hnot]
      · simp [hop, hnot, Ne.symm hkeys]
  · rcases hnext with ⟨hop, -⟩ | ⟨hop, hstate, -⟩
    · rw [hop] at ho
      cases ho
    · rw [hop] at ho
      cases ho
      exact ⟨v', by simp, hkey, hstate⟩

end

theorem standing_update {f : Entry → Entry} {g : Standing → Standing} (hfg : ∀ e, standing (f e) = g (standing e))
    (key : Nat) (es : List Entry) :
    (es.map fun e => if e.key = key then f e else e).map standing =
      (es.map standing).map fun v => if v.key = key then g v else v := by
  rw [List.map_map, List.map_map]
  refine List.map_congr_left fun e _ => ?_
  simp only [Function.comp]
  by_cases he : e.key = key
  · rw [if_pos he, if_pos (show (standing e).key = key from he), hfg]
  · rw [if_neg he, if_neg (show (standing e).key ≠ key from he)]

theorem standing_bookkeeping {f : Entry → Entry} (hf : Bookkeeping f) (e : Entry) : standing (f e) = standing e := by
  simp [standing, hf.key, hf.state, hf.descIndex]

theorem standing_filter (key : Nat) (es : List Entry) :
    (es.filter fun e => decide (e.key ≠ key)).map standing =
      (es.map standing).filter fun v => decide (v.key ≠ key) := by
  rw [List.filter_map]
  rfl

theorem allowanceKept_of_same {s t : State} (hs : AllowanceKept s) (hr : jobCount isRecord t ≤ jobCount isRecord s)
    (hv : standings t = standings s) (hk : t.table.nextKey = s.table.nextKey)
    (ho : t.ringUnit.opening = s.ringUnit.opening) (ha : t.acq.state = .disarmed → s.acq.state = .disarmed) :
    AllowanceKept t := by
  rw [allowanceKept_iff] at *
  obtain ⟨h, hd⟩ := hs
  rw [hv, hk, ho]
  refine ⟨⟨(Nat.add_le_add_right hr _).trans h.total, fun o hop hp => (Nat.add_le_add_right hr _).trans (h.asked o hop hp),
    h.apart, h.below, h.opened, h.opening, h.present⟩, fun hdis => ?_⟩
  have hempty : standings t = [] := by rw [hv, standings, hd (ha hdis), List.map_nil]
  simpa [standings] using hempty

theorem LineMove.allowanceKept {s t : State} (h : LineMove s t) (hs : AllowanceKept s) : AllowanceKept t := by
  cases h with
  | counts key hf =>
    refine allowanceKept_of_same hs le_rfl ?_ rfl rfl id
    rw [standings, updateEntry_entries, standing_update (g := id) (standing_bookkeeping ‹_›)]
    simp [standings]
  | fill f _ _ =>
    exact allowanceKept_of_same hs (jobCount_enqueue (fun _ => rfl) _ s).le (by simp [standings]) (by simp) (by simp) (by simp)
  | _ => exact hs

theorem jobCount_queueRecords (f : Entry → Entry) (st : RecordStatus) (es : List Entry) (s : State) :
    jobCount isRecord (es.foldl (fun t e => queueRecord (f e) st t) s) = jobCount isRecord s + es.length := by
  induction es generalizing s with
  | nil => rfl
  | cons e es ih =>
    rw [List.foldl_cons, ih, queueRecord, jobCount_enqueue (fun _ => rfl)]
    simp only [jobCount, isRecord, if_true, List.length_cons]
    omega

theorem jobCount_removeFills {p : Job → Bool} (hp : ∀ j, p j = true → isFill j = true) (s : State) :
    jobCount isRecord (removeJobs p s) = jobCount isRecord s := by
  unfold removeJobs
  dsimp only
  rw [jobCount_settleList fun _ => rfl]
  unfold jobCount
  dsimp only
  rw [List.countP_filter]
  refine List.countP_congr fun j _ => ?_
  cases j with
  | record r =>
    have : p (.record r) = false := Bool.eq_false_iff.2 fun h => by cases hp _ h
    simp [isRecord, this]
  | _ => simp [isRecord]

theorem isFill_of_isFillOf (k : Nat) (j : Job) (h : isFillOf k j = true) : isFill j = true := by
  cases j <;> simp_all [isFillOf, isFill]

theorem isFill_of_isEntryFill (j : Job) (h : isEntryFill j = true) : isFill j = true := by
  cases j <;> simp_all [isEntryFill, isFill]

/-- The entry that the opening operation in progress opens stands apart among the standings. -/
theorem Allowed.split {n nk : Nat} {vs : List Standing} {o : Opening} (h : Allowed n vs nk (some o)) :
    ∃ as v bs, vs = as ++ v :: bs ∧ (∀ u ∈ as ++ bs, u.key ≠ v.key) ∧ v.key = o.key ∧ v.state = .opening := by
  obtain ⟨v, hv, hkey, hstate⟩ := h.present o rfl
  obtain ⟨as, bs, hsplit, hothers⟩ := split_at_key Standing.key h.apart hv
  exact ⟨as, v, bs, hsplit, hothers, hkey, hstate⟩

theorem entries_ne_of_standings {s : State} {as bs : List Standing} {v : Standing} (h : standings s = as ++ v :: bs) :
    s.table.entries ≠ [] := by
  intro he
  simp [standings, he] at h

/-- The opening operation's entry changed, and the operation gone on or ended. -/
theorem allowanceKept_change {s t : State} {key : Nat} {ph : OpeningPhase} {g : Standing → Standing}
    (hs : AllowanceKept s) (ho : s.ringUnit.opening = some { key := key, phase := ph })
    (hv : standings t = (standings s).map fun v => if v.key = key then g v else v)
    (hk : t.table.nextKey = s.table.nextKey) (ha : t.acq.state = s.acq.state)
    (hg : ∀ v, v.state = .opening → v.key = key → (v.held = true ↔ ph = .descriptor) →
      (g v).key = v.key ∧ ((g v).state = .opened → (g v).held = true) ∧
        jobCount isRecord t + (if (g v).owes then 1 else 0) ≤
          jobCount isRecord s + (if ph = .descriptor then 1 else 0) + (if ph = .returnCount then 1 else 0) ∧
        (t.ringUnit.opening = none ∧ (g v).state ≠ .opening ∨
          t.ringUnit.opening = some { key := key, phase := .descriptor } ∧ (g v).state = .opening ∧
            (g v).held = true)) : AllowanceKept t := by
  rw [allowanceKept_iff] at hs ⊢
  obtain ⟨h, hd⟩ := hs
  rw [ho] at h
  obtain ⟨as, v, bs, hsplit, hothers, hkey, hstate⟩ := h.split
  dsimp only at hkey
  subst hkey
  rw [hsplit] at h hv
  rw [map_at_key Standing.key hothers] at hv
  have hheld : v.held = true ↔ ph = .descriptor := by
    rw [h.opening v (by simp) hstate]
    simp
  obtain ⟨hgkey, hgopened, hgtotal, hgnext⟩ := hg v hstate rfl hheld
  refine ⟨?_, fun hdis => absurd (hd (ha ▸ hdis)) (entries_ne_of_standings hsplit)⟩
  rw [hv, hk]
  refine h.change hothers hgkey ?_ hgopened hgnext
  have htotal := h.total
  have hasked := h.asked { key := v.key, phase := ph } rfl
  have hcount : (as ++ v :: bs).countP Standing.owes = (as ++ bs).countP Standing.owes + if ph = .descriptor then 1 else 0 := by
    have howes : v.owes = decide (ph = .descriptor) := by
      rw [Bool.eq_iff_iff, decide_eq_true_iff, ← hheld]
      simp [Standing.owes, hstate]
    simp only [List.countP_append, List.countP_cons, howes, decide_eq_true_iff]
    omega
  rw [hcount] at htotal hasked
  cases ph with
  | returnCount =>
    have := hasked rfl
    simp only [reduceCtorEq, if_false, if_true] at *
    omega
  | _ =>
    simp only [reduceCtorEq, if_false, if_true] at *
    omega

theorem faultDropped_counts {key : Nat} {s : State} {e : Entry} (hf : findEntry s key = some e) :
    standings (faultDropped key s) =
        (standings s).map (fun v => if v.key = key then { v with state := .dropped } else v) ∧
      jobCount isRecord (faultDropped key s) = jobCount isRecord s + 1 ∧
      (faultDropped key s).table.nextKey = s.table.nextKey := by
  have hfound : ∃ e', findEntry (dropState key (setOpening none s)) key = some e' := by
    have hmem := findEntry_mem hf
    have hkey := findEntry_key hf
    refine Option.isSome_iff_exists.1 (List.find?_isSome.2 ⟨{ e with state := .dropped }, ?_, by simpa using hkey⟩)
    rw [dropState, settleList_table, updateEntry_entries]
    exact List.mem_map.2 ⟨e, hmem, if_pos hkey⟩
  obtain ⟨e', he'⟩ := hfound
  have heq : faultDropped key s = queueRecord e' .descriptorFault (dropState key (setOpening none s)) := by
    simp only [faultDropped, he']
  rw [heq, queueRecord_eq]
  refine ⟨?_, ?_, ?_⟩
  · simp only [standings, dropState, settleList_table, updateEntry_entries]
    exact standing_update (fun _ => rfl) key _
  · rw [← queueRecord_eq, queueRecord, jobCount_enqueue fun _ => rfl]
    have hdrop : jobCount isRecord (dropState key (setOpening none s)) = jobCount isRecord s :=
      jobCount_settleList (fun _ => rfl) _
    simpa [jobCount, isRecord] using hdrop
  · simp [dropState]

theorem RunMove.allowanceKept {s t : State} (h : RunMove s t) (hs : AllowanceKept s) : AllowanceKept t := by
  have hsplitKey {e : Entry} (hf : findEntry s e.key = some e) :
      ∃ as bs, standings s = as ++ standing e :: bs ∧ ∀ u ∈ as ++ bs, u.key ≠ e.key :=
    split_at_key Standing.key ((allowanceKept_iff s).1 hs).1.apart (List.mem_map_of_mem (findEntry_mem hf))
  have hfilter {e : Entry} {as bs : List Standing} (hsplit : standings s = as ++ standing e :: bs)
      (hothers : ∀ u ∈ as ++ bs, u.key ≠ e.key) :
      (s.table.entries.filter fun x => decide (x.key ≠ e.key)).map standing = as ++ bs := by
    rw [standing_filter, ← standings, hsplit]
    exact filter_at_key Standing.key (x := standing e) hothers
  have hdis : s.acq.state = .disarmed → s.table.entries = [] := ((allowanceKept_iff s).1 hs).2
  cases h with
  | line h => exact h.allowanceKept hs
  | @close b e _ hf he hm =>
    obtain ⟨as, bs, hsplit, hothers⟩ := hsplitKey hf
    obtain ⟨h, -⟩ := (allowanceKept_iff s).1 hs
    rw [hsplit] at h
    have hheld : (standing e).held = true := h.opened (standing e) (by simp) he
    have howes : (standing e).owes = true := by
      rw [Standing.owes, hheld]
      simp [standing, he]
    have hcount : jobCount isRecord (queueRecord e .clean (bindJobs e.key b s)) = jobCount isRecord s + 1 := by
      rw [queueRecord, jobCount_enqueue (fun _ => rfl)]
      simpa [jobCount, isRecord] using jobCount_bindJobs (p := isRecord) (fun _ _ => rfl) e.key b s
    rw [allowanceKept_iff]
    refine ⟨?_, fun hd => ?_⟩
    · have hstandings : standings (removeEntry e.key (queueRecord e .clean (bindJobs e.key b s))) = as ++ bs := by
        rw [← hfilter hsplit hothers, queueRecord_eq]
        rfl
      have hjobs : jobCount isRecord (removeEntry e.key (queueRecord e .clean (bindJobs e.key b s))) =
          jobCount isRecord s + 1 := hcount
      rw [hstandings, hjobs, queueRecord_eq]
      exact h.without (by simp [standing, he]) (by simp [howes])
    · rw [queueRecord_eq] at hd
      exact absurd (hdis hd) (entries_ne_of_standings hsplit)
  | @free e _ hf he =>
    obtain ⟨as, bs, hsplit, hothers⟩ := hsplitKey hf
    obtain ⟨h, -⟩ := (allowanceKept_iff s).1 hs
    rw [hsplit] at h
    rw [allowanceKept_iff]
    refine ⟨?_, fun hd => ?_⟩
    · have hstandings : standings (removeEntry e.key (removeJobs (isFillOf e.key) s)) = as ++ bs := by
        rw [← hfilter hsplit hothers, standings, removeEntry_entries, removeJobs_table]
      have hjobs : jobCount isRecord (removeEntry e.key (removeJobs (isFillOf e.key) s)) = jobCount isRecord s :=
        jobCount_removeFills (isFill_of_isFillOf e.key) s
      rw [hstandings, hjobs, removeJobs_eq]
      exact h.without (by simp [standing, he]) (by omega)
    · rw [removeEntry_acq, removeJobs_acq] at hd
      exact absurd (hdis hd) (entries_ne_of_standings hsplit)
  | disarm ha he =>
    have hopening : (enterDisarmed s).ringUnit.opening = s.ringUnit.opening := by
      unfold enterDisarmed adoptStaged
      split
      · rfl
      · simp only [raise_ringUnit, makeLive]
        split <;> rfl
    obtain ⟨h, -⟩ := (allowanceKept_iff s).1 hs
    rw [allowanceKept_iff, hopening]
    exact ⟨by simpa [standings, jobCount] using h, fun _ => by simpa using he⟩
  | abort ha =>
    obtain ⟨h, -⟩ := (allowanceKept_iff s).1 hs
    have hjobs : jobCount isRecord (abortTable s) =
        jobCount isRecord s + (s.table.entries.filter abortRecords).length := by
      have hremoved := jobCount_removeFills isFill_of_isEntryFill
        ((s.table.entries.filter abortRecords).foldl (fun t e => queueRecord (cancelEnd e) .cancelled t) s)
      rw [jobCount_queueRecords] at hremoved
      exact hremoved
    have howed : (s.table.entries.filter abortRecords).length ≤ (standings s).countP Standing.owes := by
      rw [← List.countP_eq_length_filter, standings, List.countP_map]
      refine List.countP_mono_left fun e he hrec => ?_
      have hopened := h.opened (standing e) (List.mem_map_of_mem he)
      unfold abortRecords at hrec
      cases hst : e.state <;> simp_all [Standing.owes, standing]
    rw [allowanceKept_iff, hjobs, abortTable_eq]
    have htotal := h.total
    refine ⟨⟨?_, (fun o ho => by cases ho), ?_, ?_, ?_, ?_, (fun o ho => by cases ho)⟩, fun hd => absurd hd ha⟩
    · simp only [standings, List.map_nil, List.countP_nil]
      omega
    all_goals simp [standings]
  | cutOver => exact allowanceKept_of_same hs (by simp [jobCount]) (by simp [standings]) (by simp) (by simp) (by simp)
  | ruling => exact allowanceKept_of_same hs le_rfl rfl rfl rfl fun h => openingRule_disarmed.1 h
  | openRepeat row k m ha =>
    obtain ⟨h, -⟩ := (allowanceKept_iff s).1 hs
    unfold Machine.openRepeat
    dsimp only
    split
    · rw [allowanceKept_iff]
      have hstandings : (s.table.entries ++ [newEntry s.table.nextKey row k s.table.nextSeq m]).map standing =
          standings s ++ [{ key := s.table.nextKey, state := .opening, held := false }] := by
        simp [standings, standing, newEntry]
      refine ⟨?_, fun hd => absurd hd ha⟩
      rw [standings, hstandings]
      have hcount : (standings s ++ [({ key := s.table.nextKey, state := .opening, held := false } : Standing)]).countP
          Standing.owes = (standings s).countP Standing.owes := by
        simp [List.countP_append, Standing.owes]
      have hfresh : s.table.nextKey ∉ (standings s).map Standing.key := fun hmem => by
        obtain ⟨v, hv, heq⟩ := List.mem_map.1 hmem
        have := h.below v hv
        omega
      refine ⟨by rw [hcount]; exact h.total, fun o ho hp => by rw [hcount]; exact h.asked o ho hp, ?_, ?_, ?_, ?_,
        fun o ho => ?_⟩
      · rw [List.map_append, List.map_singleton]
        exact List.Nodup.append h.apart (List.nodup_singleton _) (by simpa using hfresh)
      · intro v hv
        rcases List.mem_append.1 hv with hv | hv
        · have := h.below v hv
          dsimp only
          omega
        · obtain rfl := List.mem_singleton.1 hv
          exact Nat.lt_succ_self _
      · intro v hv hst
        rcases List.mem_append.1 hv with hv | hv
        · exact h.opened v hv hst
        · obtain rfl := List.mem_singleton.1 hv
          cases hst
      · intro v hv hst
        rcases List.mem_append.1 hv with hv | hv
        · exact h.opening v hv hst
        · obtain rfl := List.mem_singleton.1 hv
          simp only [Bool.false_eq_true, false_iff]
          intro hop
          obtain ⟨u, hu, hukey, -⟩ := h.present _ hop
          have := h.below u hu
          simp only at hukey
          omega
      · obtain ⟨v, hv, hrest⟩ := h.present o ho
        exact ⟨v, List.mem_append_left _ hv, hrest⟩
    · exact allowanceKept_of_same hs le_rfl rfl rfl rfl id
  | @beginOpening e _ hnext =>
    obtain ⟨h, -⟩ := (allowanceKept_iff s).1 hs
    unfold nextOpening at hnext
    split at hnext
    · cases hnext
    next hfree =>
      have hnone : s.ringUnit.opening = none := by
        cases ho : s.ringUnit.opening <;> simp_all
      rw [hnone] at h
      rw [allowanceKept_iff]
      refine ⟨⟨h.total, fun o ho hp => ?_, h.apart, h.below, h.opened, fun v hv hst => ?_, fun o ho => ?_⟩, hdis⟩
      · cases ho
        cases hp
      · rw [h.opening v hv hst]
        simp [setOpening]
      · cases ho
        refine ⟨standing e, List.mem_map_of_mem (List.mem_of_find?_eq_some hnext), rfl, ?_⟩
        simpa [standing] using List.find?_some hnext
  | @askReturnCount o _ ho hp ha =>
    obtain ⟨h, -⟩ := (allowanceKept_iff s).1 hs
    rw [ho] at h
    rw [recordAllowance_eq] at ha
    rw [allowanceKept_iff]
    obtain ⟨key, ph⟩ := o
    dsimp only at hp
    subst hp
    refine ⟨⟨h.total, fun o' ho' hp' => Nat.le_of_lt_succ ha, h.apart, h.below, h.opened, fun v hv hst => ?_, fun o' ho' => ?_⟩,
      hdis⟩
    · have hbefore : v.held = true ↔ _ := h.opening v hv hst
      rw [hbefore]
      simp [setOpening]
    · cases ho'
      exact h.present { key := key, phase := .allowance } rfl
  | takeDescriptor m ho =>
    refine allowanceKept_change (g := fun v => { v with held := true }) hs ho ?_ rfl rfl fun v hst hkey hheld => ?_
    · exact standing_update (fun _ => rfl) _ _
    · refine ⟨rfl, fun _ => rfl, ?_, .inr ⟨rfl, hst, rfl⟩⟩
      simp [Standing.owes, hst, jobCount, Machine.takeDescriptor]
  | @drop key _ ho =>
    refine allowanceKept_change (g := fun v => { v with state := .dropped }) hs ho ?_ (by simp [dropState])
      (by simp [dropState]) fun v hst hkey hheld => ?_
    · simp only [standings, dropState, settleList_table, updateEntry_entries]
      exact standing_update (fun _ => rfl) key _
    · refine ⟨rfl, (fun h => by cases h), ?_, .inl ⟨by simp [dropState], by simp⟩⟩
      have hjobs : jobCount isRecord (dropState key (setOpening none s)) = jobCount isRecord s :=
        jobCount_settleList (fun _ => rfl) _
      simp [Standing.owes, hjobs]
  | @faultDrop key _ ho hm =>
    obtain ⟨h, -⟩ := (allowanceKept_iff s).1 hs
    obtain ⟨v, hv, hkey, -⟩ := h.present _ ho
    obtain ⟨e, he, rfl⟩ := List.mem_map.1 hv
    obtain ⟨e', he'⟩ := Option.isSome_iff_exists.1
      (List.find?_isSome (p := fun e => decide (e.key = key)).2 ⟨e, he, by simpa [standing] using hkey⟩)
    obtain ⟨hstandings, hjobs, hnext⟩ := faultDropped_counts (s := s) he'
    refine allowanceKept_change hs ho hstandings hnext (by rw [faultDropped_eq]) fun v hst hkey hheld => ?_
    refine ⟨rfl, (fun h => by cases h), ?_, .inl ⟨by rw [faultDropped_eq], by simp⟩⟩
    simp [Standing.owes, hjobs]
  | @opened b key _ ho =>
    refine allowanceKept_change (g := fun v => { v with state := .opened }) hs ho ?_ (by simp) (by simp)
      fun v hst hkey hheld => ?_
    · simp only [standings, settleList_table, updateEntry_entries]
      exact standing_update (fun _ => rfl) key _
    · refine ⟨rfl, fun _ => hheld.2 rfl, ?_, .inl ⟨by simp, by simp⟩⟩
      have hjobs : jobCount isRecord (settleList (updateEntry key
          (fun e => { e with state := .opened, buffer := some b }) (setOpening none s))) = jobCount isRecord s :=
        jobCount_settleList (fun _ => rfl) _
      simp [Standing.owes, hjobs, hheld.2 rfl]
  | @endOpening key _ ho hf =>
    obtain ⟨h, -⟩ := (allowanceKept_iff s).1 hs
    obtain ⟨v, hv, hkey, -⟩ := h.present _ ho
    obtain ⟨e, he, rfl⟩ := List.mem_map.1 hv
    exact absurd hkey (by simpa [standing] using List.find?_eq_none.1 hf e he)
  | _ => exact hs

theorem Move.allowanceKept {web stamps mail : Prop} {s t : State} (hs : AllowanceKept s)
    (h : Move web stamps mail s t) : AllowanceKept t := by
  cases h with
  | run h => exact h.allowanceKept hs
  | quiet h =>
    refine allowanceKept_of_same hs (by rw [jobCount, h.list, jobCount]) ?_ (by rw [h.table]) (by rw [h.ringUnit])
      (h.state ▸ id)
    rw [standings, h.table, standings]
  | headLeaves =>
    exact allowanceKept_of_same hs (jobCount_headLeaves_le _ s) (by simp [standings]) (by simp) (by simp) (by simp)
  | respond _ q c r d =>
    exact allowanceKept_of_same hs (jobCount_enqueue (fun _ => rfl) _ s).le (by simp [standings]) (by simp) (by simp) (by simp)
  | request a rq _ ha => exact allowanceKept_of_same hs le_rfl rfl rfl rfl fun h => absurd h ha
  | makeLive =>
    refine allowanceKept_of_same hs le_rfl rfl rfl ?_ id
    unfold Machine.makeLive
    dsimp only
    split <;> rfl
  | @arm m _ hd hm =>
    have hempty := ((allowanceKept_iff s).1 hs).2 hd
    rw [armBlocks_eq]
    refine allowanceKept_of_same hs le_rfl ?_ rfl rfl fun h => by cases h
    simp [standings, hempty]
  | reset =>
    rw [allowanceKept_iff]
    exact ⟨⟨Nat.zero_le 4, (fun o ho => by cases ho), List.nodup_nil, (fun v hv => by cases hv),
      (fun v hv => by cases hv), (fun v hv => by cases hv), (fun o ho => by cases ho)⟩, fun _ => rfl⟩
  | _ => exact hs

end Sys2Proof.RunProofs
end

section
/-! PROOFS. The head of the write list kept settled by every move; then the statements of the steps that rest on
invariants kept by the moves: O54, O56, O57, O59 and O60. -/

namespace Sys2Proof.RunProofs

open Sys2Proof Sys2Proof.Machine Sys2Proof.AcquisitionProofs

/-! ### The table empty in DISARMED (R148) -/

/-- In DISARMED the table is empty. -/
def EmptyDisarmed (s : State) : Prop := s.acq.state = .disarmed → s.table.entries = []

theorem emptyDisarmed_of_same {s t : State} (hs : EmptyDisarmed s)
    (ha : t.acq.state = .disarmed → s.acq.state = .disarmed) (he : s.table.entries = [] → t.table.entries = []) :
    EmptyDisarmed t := fun hd => he (hs (ha hd))

theorem updateEntry_entries_nil {s : State} (key : Nat) (f : Entry → Entry) (h : s.table.entries = []) :
    (updateEntry key f s).table.entries = [] := by
  simp [h]

theorem RunMove.emptyDisarmed {s t : State} (h : RunMove s t) (hs : EmptyDisarmed s) : EmptyDisarmed t := by
  cases h with
  | line h =>
    cases h with
    | counts key _ _ => exact emptyDisarmed_of_same hs id (updateEntry_entries_nil key _)
    | fill f _ _ => exact emptyDisarmed_of_same hs (by simp) (by simp)
    | _ => exact hs
  | close b _ _ _ =>
    rw [queueRecord_eq]
    exact emptyDisarmed_of_same hs id fun h => by simp [h]
  | free _ _ => exact emptyDisarmed_of_same hs (by simp) fun h => by simp [h]
  | disarm _ he => exact fun _ => by simpa using he
  | abort _ =>
    rw [abortTable_eq]
    exact fun _ => rfl
  | cutOver => exact emptyDisarmed_of_same hs (by simp) (by simp)
  | ruling => exact emptyDisarmed_of_same hs (fun h => openingRule_disarmed.1 h) id
  | openRepeat row k m ha => exact fun hd => absurd (by rwa [openRepeat_eq] at hd) ha
  | drop _ =>
    rw [dropState, settleList_eq]
    exact emptyDisarmed_of_same hs id (updateEntry_entries_nil _ _)
  | @faultDrop key _ _ _ =>
    cases hf : findEntry s key with
    | none =>
      have hnil (h : s.table.entries = []) : (faultDropped key s).table.entries = [] := by
        unfold faultDropped
        dsimp only
        split
        · rw [queueRecord_eq]
          simp [dropState, h]
        · simp [dropState, h]
      exact emptyDisarmed_of_same hs (by rw [faultDropped_eq]; exact id) hnil
    | some e =>
      refine emptyDisarmed_of_same hs (by rw [faultDropped_eq]; exact id) fun h => ?_
      simp [findEntry, h] at hf
  | opened b _ =>
    rw [settleList_eq]
    exact emptyDisarmed_of_same hs id (updateEntry_entries_nil _ _)
  | takeDescriptor m _ => exact emptyDisarmed_of_same hs id (updateEntry_entries_nil _ _)
  | _ => exact hs

theorem Move.emptyDisarmed {web stamps mail : Prop} {s t : State} (hs : EmptyDisarmed s)
    (h : Move web stamps mail s t) : EmptyDisarmed t := by
  cases h with
  | run h => exact h.emptyDisarmed hs
  | quiet h => exact emptyDisarmed_of_same hs (h.state ▸ id) (by rw [h.table]; exact id)
  | headLeaves => exact emptyDisarmed_of_same hs (by simp) (by simp)
  | respond _ q c r d => exact emptyDisarmed_of_same hs (by simp) (by simp)
  | request a rq _ ha => exact fun hd => absurd hd ha
  | arm hd hm => exact fun _ => by rw [armBlocks_eq]
  | reset => exact fun _ => rfl
  | _ => exact hs

/-! ### The head of the write list (R107) -/

theorem listSettled_of_resolves {s t : State} (hs : ListSettled s) (hl : t.list = s.list)
    (hr : ∀ f, resolveFill s.table.entries f ≠ .discarded → resolveFill t.table.entries f ≠ .discarded) :
    ListSettled t := by
  intro hp f js hj
  rw [hl] at hp hj
  exact hr f (hs hp f js hj)

/-- The same when only the FILL jobs that stand on the list are to resolve. -/
theorem listSettled_of_members {s t : State} (hs : ListSettled s) (hl : t.list = s.list)
    (hr : ∀ f, .fill f ∈ s.list.jobs → resolveFill s.table.entries f ≠ .discarded →
      resolveFill t.table.entries f ≠ .discarded) : ListSettled t := by
  intro hp f js hj
  rw [hl] at hp hj
  exact hr f (by rw [hj]; exact List.mem_cons_self ..) (hs hp f js hj)

/-- A FILL job resolves by the key, the state and the buffer of its entry. -/
theorem resolveFill_update {g : Entry → Entry} (hkey : ∀ e, (g e).key = e.key) (hstate : ∀ e, (g e).state = e.state)
    (hbuffer : ∀ e, (g e).buffer = e.buffer) (key : Nat) (es : List Entry) (f : FillJob) :
    resolveFill (es.map fun e => if e.key = key then g e else e) f = resolveFill es f := by
  have hfind (k : Nat) :
      (es.map fun e => if e.key = key then g e else e).find? (fun e => decide (e.key = k)) =
        (es.find? fun e => decide (e.key = k)).map fun e => if e.key = key then g e else e := by
    rw [List.find?_map]
    congr 1
    refine congrArg (fun p => es.find? p) (funext fun e => ?_)
    simp only [Function.comp]
    split <;> simp [hkey]
  unfold resolveFill
  cases f.target with
  | bound b => rfl
  | entry k =>
    dsimp only
    rw [hfind]
    cases es.find? fun e => decide (e.key = k) with
    | none => rfl
    | some e =>
      have hs : (if e.key = key then g e else e).state = e.state := by split <;> simp [hstate]
      have hb : (if e.key = key then g e else e).buffer = e.buffer := by split <;> simp [hbuffer]
      simp only [Option.map_some, hs, hb]

/-- A fill of another entry, or of a buffer, resolves as before when an entry leaves the table. -/
theorem resolveFill_filter {key : Nat} {f : FillJob} (es : List Entry) (h : f.target ≠ .entry key) :
    resolveFill (es.filter fun e => decide (e.key ≠ key)) f = resolveFill es f := by
  unfold resolveFill
  cases ht : f.target with
  | bound b => rfl
  | entry k =>
    have hk : k ≠ key := fun hk => h (by rw [ht, hk])
    have hfind : (es.filter fun e => decide (e.key ≠ key)).find? (fun e => decide (e.key = k)) =
        es.find? fun e => decide (e.key = k) := by
      rw [List.find?_filter]
      refine congrArg (fun p => es.find? p) (funext fun e => ?_)
      by_cases he : e.key = k <;> simp [he, hk]
    dsimp only
    rw [hfind]

theorem resolveFill_append {es : List Entry} (e : Entry) {f : FillJob} (h : resolveFill es f ≠ .discarded) :
    resolveFill (es ++ [e]) f ≠ .discarded := by
  unfold resolveFill at *
  cases ht : f.target with
  | bound b => simpa only [ht] using h
  | entry k =>
    rw [ht] at h
    dsimp only at h ⊢
    rw [List.find?_append]
    cases hf : es.find? fun e => decide (e.key = k) with
    | none => simp [hf] at h
    | some x => simpa only [hf, Option.some_or] using h

theorem enqueue_settled (j : Job) (s : State) : ListSettled (enqueue j s) := settleList_settled _

theorem removeJobs_settled (p : Job → Bool) (s : State) : ListSettled (removeJobs p s) := settleList_settled _

/-- No FILL job that goes by the key of an entry is left after its jobs were bound. -/
theorem bindJobs_target {key : Nat} {b : Buffer} {s : State} {f : FillJob}
    (h : .fill f ∈ (bindJobs key b s).list.jobs) : f.target ≠ .entry key := by
  obtain ⟨j, -, hj⟩ := List.mem_map.1 h
  cases j with
  | fill g =>
    simp only [bindJob] at hj
    split at hj
    · cases hj
      simp
    next hne =>
      cases hj
      simpa [isFillOf] using hne
  | _ => cases hj

theorem target_of_not_isFillOf {key : Nat} {f : FillJob} (h : isFillOf key (.fill f) = false) :
    f.target ≠ .entry key := by
  intro ht
  simp [isFillOf, ht] at h

theorem queueRecord_table (e : Entry) (st : RecordStatus) (s : State) :
    (queueRecord e st s).table.entries = s.table.entries := by
  rw [queueRecord_eq]

theorem faultDropped_settled (key : Nat) (s : State) : ListSettled (faultDropped key s) := by
  unfold faultDropped
  dsimp only
  split
  · exact enqueue_settled _ _
  · exact settleList_settled _

theorem RunMove.listSettled {s t : State} (h : RunMove s t) (hs : ListSettled s) : ListSettled t := by
  cases h with
  | line h =>
    cases h with
    | counts key _ hf =>
      exact listSettled_of_resolves hs rfl fun f h => by
        rw [updateEntry_entries, resolveFill_update hf.key hf.state hf.buffer]
        exact h
    | fill f _ _ => exact enqueue_settled _ _
    | _ => exact hs
  | @close b e _ hf he hm =>
    refine listSettled_of_members (enqueue_settled _ _) rfl fun f hmem hres => ?_
    have hbound : f.target ≠ .entry e.key := by
      rcases mem_enqueue hmem with h | h
      · exact bindJobs_target h
      · cases h
    rw [removeEntry_entries]
    exact (resolveFill_filter _ hbound).trans_ne hres
  | @free e _ hf he =>
    refine listSettled_of_members (removeJobs_settled _ _) rfl fun f hmem hres => ?_
    rw [removeEntry_entries]
    exact (resolveFill_filter _ (target_of_not_isFillOf (mem_removeJobs hmem).2)).trans_ne hres
  | disarm _ he => exact listSettled_of_same hs (by simp) (by simp)
  | abort _ =>
    unfold abortTable
    refine listSettled_of_members (removeJobs_settled _ _) rfl fun f hmem hres => ?_
    have hbound := (mem_removeJobs hmem).2
    unfold resolveFill at hres ⊢
    cases ht : f.target with
    | bound b => simpa only [ht] using hres
    | entry k => simp [isEntryFill, ht] at hbound
  | cutOver => exact listSettled_of_same hs (by simp) (by simp)
  | openRepeat row k m _ =>
    unfold Machine.openRepeat
    dsimp only
    split
    · exact listSettled_of_resolves hs rfl fun f => resolveFill_append _
    · exact listSettled_of_resolves hs rfl fun f => id
  | takeDescriptor m _ =>
    refine listSettled_of_resolves hs rfl fun f h => ?_
    exact (resolveFill_update (g := fun e => { e with descIndex := some s.ringUnit.index }) (fun _ => rfl) (fun _ => rfl)
      (fun _ => rfl) _ _ f).trans_ne h
  | drop _ => exact settleList_settled _
  | faultDrop _ _ => exact faultDropped_settled _ _
  | opened b _ => exact settleList_settled _
  | _ => exact hs

theorem Move.listSettled {web stamps mail : Prop} {s t : State} (he : EmptyDisarmed s) (hs : ListSettled s)
    (h : Move web stamps mail s t) : ListSettled t := by
  cases h with
  | run h => exact h.listSettled hs
  | quiet h => exact listSettled_of_same hs h.list (by rw [h.table])
  | issue => exact fun hp => absurd hp (Nat.succ_ne_zero _)
  | headLeaves => exact settleList_settled _
  | respond _ q c r d => exact enqueue_settled _ _
  | arm hd hm =>
    rw [armBlocks_eq]
    exact listSettled_of_resolves hs rfl fun f h => by rwa [he hd] at h
  | reset => exact fun _ f js hj => by cases hj
  | _ => exact hs

theorem Move.headSettled {web stamps mail : Prop} {s t : State} (hs : HeadSettled s)
    (h : Move web stamps mail s t) : HeadSettled t :=
  ⟨h.listSettled hs.2 hs.1, h.emptyDisarmed hs.2⟩

/-! ### From the moves to the steps -/

/-- What every command keeps every step keeps, when the queue of commands has no part in it. -/
theorem step_keeps {P : State → Prop} (hP : ∀ s t : State, P s → (∃ rest, t = { s with pending := rest }) → P t)
    (hexec : ∀ c s t, P s → exec c s = .next t → P t) {s t : State} (hs : P s) (h : step s = .next t) : P t := by
  rcases step_cases h with rfl | ⟨c, rest, hc⟩
  · exact hs
  · exact hexec c _ _ (hP s _ hs ⟨rest, rfl⟩) hc

/-- What every move keeps every command keeps. -/
theorem exec_keeps {P : State → Prop} (hP : ∀ {web stamps mail : Prop} {s t : State}, P s → Move web stamps mail s t → P t)
    (c : Instr) (s t : State) (hs : P s) (h : exec c s = .next t) : P t :=
  (exec_moves h).keep (fun _ _ => hP) hs

/-- Settles O54: each of the two is kept by every move, and a command is moves. -/
theorem disarmedAndFaultedStayQuiet : Obligations.DisarmedAndFaultedStayQuiet := by
  intro s t h
  refine ⟨fun hs => ?_, fun hs => ?_⟩
  · exact step_keeps (fun _ _ hs ⟨_, ht⟩ => ht ▸ hs) (exec_keeps Move.disarmedQuiet) hs h
  · exact step_keeps (fun _ _ hs ⟨_, ht⟩ => ht ▸ hs) (exec_keeps Move.faultedInert) hs h

/-- Settles O57: the record allowance with what ties it to the table is kept by every move. -/
theorem recordAllowanceStaysBounded : Obligations.RecordAllowanceStaysBounded := by
  intro s t hs h
  exact step_keeps (fun _ _ hs ⟨_, ht⟩ => ht ▸ hs) (exec_keeps Move.allowanceKept) hs h

/-- Settles O59: every move that puts another job at the head of the list, or changes what its head resolves to,
settles the list. -/
theorem listHeadStaysSettled : Obligations.ListHeadStaysSettled := by
  intro s t hs h
  exact step_keeps (fun _ _ hs ⟨_, ht⟩ => ht ▸ hs) (exec_keeps Move.headSettled) hs h

/-! ### Travel through an advance (R24, R25, R27) -/

/-- The account of travel holds again after the phase step of a count at new ground, with the issue index then below
the next-strobe number when a strobe fell due. -/
theorem travelAccounted_advanced {m : SteeringMap} {s : State} (hs : TravelAccounted s) (hm : s.maps.live = some m)
    (ha : s.acq.state ≠ .disarmed) (hlimit : s.encoder.highWater ≠ BitVec.allOnes 48) :
    (s.strobe.phase + 65536 < m.Q →
      TravelAccounted
        { advanced s with strobe := { s.strobe with phase := s.strobe.phase + 65536 } }) ∧
      (m.Q ≤ s.strobe.phase + 65536 →
        TravelAccounted (strobeDue m (advanced s)) ∧
          (strobeDue m (advanced s)).strobe.issueIndex.toNat < (strobeDue m (advanced s)).strobe.nextStrobe.toNat) := by
  obtain ⟨hagree, hq, haccount⟩ := hs
  have hQ := hq m hm
  obtain ⟨htravel, hphase, hindex⟩ := haccount ha m hm
  have hw : s.encoder.highWater.toNat < 2 ^ 48 - 1 := by
    have hne : s.encoder.highWater.toNat ≠ (BitVec.allOnes 48).toNat := fun h => hlimit (BitVec.eq_of_toNat_eq h)
    have := s.encoder.highWater.isLt
    simp only [BitVec.toNat_allOnes] at hne
    omega
  have hraised : (s.encoder.highWater + 1).toNat = s.encoder.highWater.toNat + 1 := by
    rw [BitVec.toNat_add]
    exact Nat.mod_eq_of_lt (by simp; omega)
  have hlive (m' : SteeringMap) (h : s.maps.live = some m') : m' = m := Option.some.inj (h.symm.trans hm)
  refine ⟨fun hbelow => ⟨hagree, hq, fun _ m' h' => ?_⟩, fun hdue => ?_⟩
  · rw [hlive m' h']
    refine ⟨?_, hbelow, hindex⟩
    dsimp only [advanced]
    rw [hraised]
    omega
  · have hstrobe : s.strobe.nextStrobe.toNat ≤ s.encoder.highWater.toNat := by
      have := Nat.mul_le_mul_right s.strobe.nextStrobe.toNat hQ
      omega
    have hnext : (s.strobe.nextStrobe + 1).toNat = s.strobe.nextStrobe.toNat + 1 := by
      rw [BitVec.toNat_add]
      exact Nat.mod_eq_of_lt (by simp; omega)
    refine ⟨⟨hagree, hq, fun _ m' h' => ?_⟩, ?_⟩
    · rw [hlive m' h']
      dsimp only [strobeDue, advanced]
      rw [hraised, hnext, Nat.mul_add m.Q, Nat.mul_one]
      omega
    · dsimp only [strobeDue, advanced]
      rw [hnext]
      omega

theorem travelAccounted_runMoves {s t : State} (h : RunMoves s t) (hs : TravelAccounted s) : TravelAccounted t := by
  induction h with
  | refl => exact hs
  | tail _ hlast ih => exact hlast.travelAccounted ih

theorem travelAccounted_issued {s : State} (hs : TravelAccounted s)
    (hi : s.strobe.issueIndex.toNat < s.strobe.nextStrobe.toNat) : TravelAccounted (issued s) := by
  refine ⟨hs.1, hs.2.1, fun ha m hm => ?_⟩
  obtain ⟨htravel, hphase, -⟩ := hs.2.2 ha m hm
  refine ⟨htravel, hphase, ?_⟩
  dsimp only [issued]
  rw [BitVec.toNat_add]
  exact (Nat.mod_le _ _).trans hi

theorem Observed.travelAccounted {s t : State} (h : Observed s t) (hs : TravelAccounted s) : TravelAccounted t := by
  unfold Observed at h
  rw [h]
  exact travelAccounted_of_same hs rfl rfl rfl rfl

theorem travelAccounted_observePair (pair : PhasePair) (n : Nat) {s : State} (hs : TravelAccounted s) :
    TravelAccounted (observePair pair (setClock n s)) := by
  obtain ⟨u, hu, hrun | hfault | ⟨m, hm, ha, hlimit, hadvance⟩⟩ := observePair_path pair n s
  · exact travelAccounted_runMoves hrun (hu.travelAccounted hs)
  · rw [hfault]
    exact hu.travelAccounted hs
  · rw [hadvance]
    obtain ⟨hbelow, hdue⟩ := travelAccounted_advanced (hu.travelAccounted hs) hm ha hlimit
    rcases highWaterAdvance_path m (s := advanced u) (by simp [advanced, hm]) with
      ⟨hq, h⟩ | ⟨hq, v, hv, ⟨-, h⟩ | ⟨-, -, h⟩ | ⟨-, -, h⟩⟩
    · exact travelAccounted_runMoves h (hbelow hq)
    · exact travelAccounted_runMoves h (travelAccounted_runMoves hv (hdue hq).1)
    · refine travelAccounted_runMoves h (travelAccounted_issued (travelAccounted_runMoves hv (hdue hq).1) ?_)
      rw [RunMoves.strobe hv]
      exact (hdue hq).2
    · exact travelAccounted_runMoves h ((travelAccounted_runMoves hv (hdue hq).1 : TravelAccounted v) : _)

/-- A command but ENCODER_TRANSITION writes neither the encoder nor the strobe's numbers. -/
theorem exec_moves_still {c : Instr} {s t : State} (hc : ∀ p n, c ≠ .encoderTransition p n) (h : exec c s = .next t) :
    Moves False (c = .outletPlaceGrant) True s t := by
  refine Relation.ReflTransGen.mono (fun _ _ hm => ?_) _ _ (exec_moves h)
  simpa only [hc, exists_false] using hm

/-- Settles O56: an encoder transition keeps the account of travel through its phase step, and any other command writes
nothing of it. -/
theorem travelStaysAccounted : Obligations.TravelStaysAccounted := by
  intro s t hs h
  refine step_keeps (fun _ _ hs ⟨_, ht⟩ => ht ▸ hs) (fun c s t hs hc => ?_) hs h
  by_cases hweb : ∃ p n, c = .encoderTransition p n
  · obtain ⟨p, n, rfl⟩ := hweb
    simp only [exec, execEncoderTransition, unlessReset] at hc
    split at hc <;> cases hc
    · exact hs
    · exact travelAccounted_observePair p _ hs
  · exact (exec_moves_still (by simpa using hweb) hc).keep (fun _ _ hs => Move.travelAccounted hs) hs

/-! ### The state right after reset -/

/-- Settles O60. -/
theorem resetHasTheInvariants : Obligations.ResetHasTheInvariants := by
  refine ⟨⟨by decide, by decide, by decide, by decide⟩, fun l => ?_, ⟨.nil, fun l => ?_⟩,
    fun _ => ⟨rfl, rfl, rfl, rfl, rfl, rfl, rfl, rfl, rfl⟩, ?_, by unfold OneAtATime; decide, ?_, ?_,
    ⟨List.nodup_nil, (fun t ht => by cases ht), (fun r hr => by cases hr)⟩, ?_, fun _ => rfl⟩
  · revert l
    decide
  · rw [show State.reset.ring.slots.get l = [] from Lanes.get_every [] l]
    exact .nil
  · exact fun _ => ⟨rfl, rfl, rfl, rfl, (fun j hj => by cases hj), fun q a h => by cases h⟩
  · exact ⟨⟨fun _ => rfl, fun ha => absurd rfl ha⟩, (fun m' h' => by cases h'), fun ha => absurd rfl ha⟩
  · rw [allowanceKept_iff]
    exact ⟨⟨Nat.zero_le 4, (fun o ho => by cases ho), List.nodup_nil, (fun v hv => by cases hv),
      (fun v hv => by cases hv), (fun v hv => by cases hv), (fun o ho => by cases ho)⟩, fun _ => rfl⟩
  · exact fun _ f js hj => by cases hj

end Sys2Proof.RunProofs
end

section
/-! SUPPORT and PROOFS. What the operations of the Line Ring write in the ring: one slot record of one lane. Then the
bounds of the mismatch counts through a piece, and O53. -/

namespace Sys2Proof.RunProofs

open Sys2Proof Sys2Proof.Machine Sys2Proof.AcquisitionProofs

/-! ### Writes of one slot -/

/-- Between s and t the ring was written in one slot record of one lane at most. -/
structure OneSlot (l : Lane) (i : Nat) (s t : State) : Prop where
  step : t.ring.step = s.ring.step
  mismatches : t.ring.mismatches = s.ring.mismatches
  bindings : t.ring.bindings = s.ring.bindings
  lanes : ∀ k ≠ l, t.ring.slots.get k = s.ring.slots.get k
  slots : ∀ j ≠ i, slotRecord t l j = slotRecord s l j

theorem slotRecord_of_ring {s t : State} (h : t.ring = s.ring) (l : Lane) (i : Nat) :
    slotRecord t l i = slotRecord s l i := by
  rw [slotRecord, h, slotRecord]

theorem slotRecord_of_lane {s t : State} {l : Lane} (h : t.ring.slots.get l = s.ring.slots.get l) (i : Nat) :
    slotRecord t l i = slotRecord s l i := by
  rw [slotRecord, h, slotRecord]

section
variable {l : Lane} {i : Nat} {s t u : State}

theorem OneSlot.of_ring (h : t.ring = s.ring) : OneSlot l i s t :=
  ⟨by rw [h], by rw [h], by rw [h], fun _ _ => by rw [h], fun _ _ => slotRecord_of_ring h l _⟩

theorem OneSlot.refl (s : State) : OneSlot l i s s := .of_ring rfl

theorem OneSlot.trans (hst : OneSlot l i s t) (htu : OneSlot l i t u) : OneSlot l i s u :=
  ⟨htu.step.trans hst.step, htu.mismatches.trans hst.mismatches, htu.bindings.trans hst.bindings,
    fun k hk => (htu.lanes k hk).trans (hst.lanes k hk), fun j hj => (htu.slots j hj).trans (hst.slots j hj)⟩

theorem oneSlot_setSlot (l : Lane) (i : Nat) (r : SlotRecord) (s : State) : OneSlot l i s (setSlot l i r s) :=
  ⟨rfl, rfl, rfl, fun _ hk => Lanes.get_set_other _ _ hk, fun _ hj => slotRecord_setSlot_other s r (.inr hj)⟩

end

@[simp] theorem offerFill_ring (e : Entry) (row c len : Nat) (v : List Byte) (s : State) :
    (offerFill e row c len v s).ring = s.ring := by
  rcases offerFill_cases e row c len v s with ⟨-, h⟩ | ⟨-, h⟩ <;> rw [h]
  · simp
  · rfl

/-- The record of a line that retires (R61). -/
def retiredRecord (r : SlotRecord) : SlotRecord :=
  { r with state := .retired, stamp := if r.stamp = .unchecked then .skipped else r.stamp }

theorem retireLine_ring (l : Lane) (i : Nat) (s : State) :
    (retireLine l i s).ring = (setSlot l i (retiredRecord (slotRecord s l i)) s).ring := by
  unfold retireLine
  dsimp only
  split <;> rfl

theorem oneSlot_retireLine (l : Lane) (i : Nat) (s : State) : OneSlot l i s (retireLine l i s) :=
  (oneSlot_setSlot l i _ s).trans (.of_ring (retireLine_ring l i s))

theorem slotRecord_retireLine (l : Lane) (i : Nat) (s : State) :
    slotRecord (retireLine l i s) l i = retiredRecord (slotRecord s l i) := by
  rw [slotRecord_of_ring (retireLine_ring l i s), slotRecord_setSlot_same]

/-- A fill of these line offsets is offered for an entry (R59). -/
def offersFill (e : Entry) (y1 y2 : Nat) : Prop := y1 < y2 ∧ entryLive e = true

theorem fillLine_none {m : SteeringMap} {l : Lane} {i : Nat} {e : Entry} {y1 y2 : Nat} (h : ¬offersFill e y1 y2)
    (s : State) : fillLine m l i e y1 y2 s = s :=
  if_neg h

theorem fillLine_some {m : SteeringMap} {l : Lane} {i : Nat} {e : Entry} {y1 y2 : Nat} (h : offersFill e y1 y2)
    (s : State) :
    fillLine m l i e y1 y2 s =
      offerFill e ((slotRecord s l i).row.getD 0) (rowByte m (linePlacement m l (some e)) y1) (y2 - y1)
        (linePlacement m l (some e)).fill (setSlot l i { slotRecord s l i with fillMade := true } s) :=
  if_pos h

theorem oneSlot_fillLine (m : SteeringMap) (l : Lane) (i : Nat) (e : Entry) (y1 y2 : Nat) (s : State) :
    OneSlot l i s (fillLine m l i e y1 y2 s) := by
  by_cases h : offersFill e y1 y2
  · rw [fillLine_some h]
    exact (oneSlot_setSlot l i _ s).trans (.of_ring (offerFill_ring ..))
  · rw [fillLine_none h]
    exact .refl s

open Classical in
/-- A fill of a line sets its fill-made flag alone (R59). -/
theorem slotRecord_fillLine (m : SteeringMap) (l : Lane) (i : Nat) (e : Entry) (y1 y2 : Nat) (s : State) :
    slotRecord (fillLine m l i e y1 y2 s) l i =
      { slotRecord s l i with fillMade := (slotRecord s l i).fillMade || decide (offersFill e y1 y2) } := by
  by_cases h : offersFill e y1 y2
  · rw [fillLine_some h, slotRecord_of_ring (offerFill_ring ..), slotRecord_setSlot_same]
    simp [h]
  · rw [fillLine_none h]
    simp [h]

/-! ### The ring through the stages of a piece (R58 to R65) -/

theorem oneSlot_gapAccounted (m : SteeringMap) (l : Lane) (i x n : Nat) (s : State) :
    OneSlot l i s (gapAccounted m l i x n s) := by
  unfold gapAccounted
  dsimp only
  split
  next => exact .refl s
  next e _ => exact (oneSlot_fillLine m l i e _ _ s).trans (.of_ring rfl)

/-- The gap of a piece changes a line's fill-made flag alone. -/
theorem slotRecord_gapAccounted (m : SteeringMap) (l : Lane) (i x n : Nat) (s : State) :
    ∃ made, slotRecord (gapAccounted m l i x n s) l i = { slotRecord s l i with fillMade := made } := by
  unfold gapAccounted
  dsimp only
  split
  next => exact ⟨_, rfl⟩
  next e _ => exact ⟨_, (slotRecord_of_ring rfl l i).trans (slotRecord_fillLine m l i e _ _ s)⟩

theorem mismatchCounted_ring (l : Lane) (st : StampState) (e : Option Entry) (s : State) :
    (mismatchCounted l st e s).ring = s.ring := by
  unfold mismatchCounted
  split
  · split <;> rfl
  · rfl

/-- The stamp of a first piece writes its record, and the lane's count. -/
theorem stampPiece_ring {m : SteeringMap} {l : Lane} {i x : Nat} {bytes : List Byte} {s : State}
    (h : (slotRecord s l i).stamp = .unchecked) :
    (stampPiece m l i x bytes s).ring =
      { (setSlot l i { slotRecord s l i with stamp := stampOf m l i x bytes s } s).ring with
        mismatches :=
          s.ring.mismatches.set l (mismatchesAfter (s.ring.mismatches.get l) (stampOf m l i x bytes s)) } := by
  rw [stampPiece_unchecked h, mismatchCounted_ring]
  rfl

theorem slotRecord_stampPiece {m : SteeringMap} {l : Lane} {i x : Nat} {bytes : List Byte} {s : State}
    (h : (slotRecord s l i).stamp = .unchecked) :
    slotRecord (stampPiece m l i x bytes s) l i = { slotRecord s l i with stamp := stampOf m l i x bytes s } := by
  refine Eq.trans ?_ (slotRecord_setSlot_same s l i { slotRecord s l i with stamp := stampOf m l i x bytes s })
  exact slotRecord_of_lane (by rw [stampPiece_ring h]) i

theorem Disposal.ring {s t : State} (h : Disposal s t) : t.ring = s.ring := by
  cases h <;> rfl

theorem runDisposed_disposal (m : SteeringMap) (l : Lane) (i x : Nat) (bytes : List Byte) (s t : State) :
    Disposal t (runDisposed m l i x bytes s t) := disposeRun_disposal _ _ _ _ _ _ _ _ _

theorem oneSlot_markRaised (m : SteeringMap) (l : Lane) (i mark : Nat) (s : State) :
    OneSlot l i s (markRaised m l i mark s) := by
  unfold markRaised
  dsimp only
  split
  · exact (oneSlot_setSlot l i _ s).trans (oneSlot_retireLine l i _)
  · exact oneSlot_setSlot l i _ s

/-- The record of a line whose fill mark a piece has raised (R58, R61). -/
theorem slotRecord_markRaised (m : SteeringMap) (l : Lane) (i mark : Nat) (s : State) :
    slotRecord (markRaised m l i mark s) l i =
      if mark = lineBytes m then retiredRecord { slotRecord s l i with fillMark := mark }
      else { slotRecord s l i with fillMark := mark } := by
  unfold markRaised
  dsimp only
  split
  · rw [slotRecord_retireLine, slotRecord_setSlot_same]
  · rw [slotRecord_setSlot_same]

/-! ### Mismatches through a piece (R64, R65) -/

/-- A lane put OUT_OF_STEP with LANE_FAULT raised, before its lines are given up (R65). -/
def laneOut (l : Lane) (s : State) : State :=
  raise .laneFault { s with ring := { s.ring with step := s.ring.step.set l .outOfStep } }

/-- Stamps keep a lane's count at most 3, and at most 2 unless the third mismatch in a row has just been counted. -/
theorem mismatchesAfter_le {n : Nat} (st : StampState) (hn : n ≤ 2) :
    mismatchesAfter n st ≤ 3 ∧ (mismatchesAfter n st ≤ 2 ∨ st = .mismatched ∧ 3 ≤ mismatchesAfter n st) := by
  cases st <;> simp only [mismatchesAfter, reduceCtorEq, false_and, true_and, or_false] <;> omega

theorem mismatchesInRange_lineMoves {s t : State} (h : LineMoves s t) (hs : MismatchesInRange s) :
    MismatchesInRange t := by
  induction h with
  | refl => exact hs
  | tail _ hlast ih => exact hlast.mismatchesInRange ih

theorem mismatchesInRange_of_steps {s t : State} (hs : MismatchesInRange s)
    (hm : t.ring.mismatches = s.ring.mismatches) (hstep : t.ring.step = s.ring.step) : MismatchesInRange t := by
  unfold MismatchesInRange
  rw [hm, hstep]
  exact hs

theorem mismatchesInRange_accountOpen (m : SteeringMap) {l : Lane} {i x : Nat} {bytes : List Byte} {s : State}
    (hs : MismatchesInRange s) (hrun : Running s) (hstep : s.ring.step.get l = .inStep) :
    MismatchesInRange (accountOpen m l i x bytes s) := by
  have hgap := oneSlot_gapAccounted m l i x bytes.length s
  obtain ⟨made, hmade⟩ := slotRecord_gapAccounted m l i x bytes.length s
  have hrun1 : Running (gapAccounted m l i x bytes.length s) :=
    LineMoves.running (gapAccounted_moves hrun m l i x bytes.length) hrun
  have hs1 := mismatchesInRange_of_steps hs hgap.mismatches hgap.step
  have htwo : (gapAccounted m l i x bytes.length s).ring.mismatches.get l ≤ 2 := (hs1 l).2 (by rw [hgap.step, hstep])
  have hstamps : (slotRecord (gapAccounted m l i x bytes.length s) l i).stamp = (slotRecord s l i).stamp := by
    rw [hmade]
  clear hmade made
  have hmoves := stampPiece_moves hrun1 m l i x bytes
  generalize hu : gapAccounted m l i x bytes.length s = u at *
  -- the stages after the stamp write neither the step states nor the counts
  obtain ⟨s2, hs2⟩ : ∃ s2, s2 = stampPiece m l i x bytes u := ⟨_, rfl⟩
  obtain ⟨s5, hs5⟩ : ∃ s5, s5 = markRaised m l i (markAfter m (slotRecord s l i).fillMark x bytes.length)
    (runDisposed m l i x bytes s s2) := ⟨_, rfl⟩
  have hrun2 : Running s2 := by
    rcases hmoves with h | ⟨v, n, hv, h⟩
    · rw [hs2, h]
      exact hrun1
    · rw [hs2]
      exact LineMoves.running h (LineMoves.running hv hrun1 : Running v)
  have hdisposal := runDisposed_disposal m l i x bytes s s2
  have hafter : s5.ring.step = s2.ring.step ∧ s5.ring.mismatches = s2.ring.mismatches := by
    have hraised := oneSlot_markRaised m l i (markAfter m (slotRecord s l i).fillMark x bytes.length)
      (runDisposed m l i x bytes s s2)
    rw [hs5, hraised.step, hraised.mismatches, hdisposal.ring]
    exact ⟨rfl, rfl⟩
  have hrun5 : Running s5 := by
    rw [hs5]
    exact LineMoves.running (markRaised_moves (hdisposal.running hrun2) m l i _) (hdisposal.running hrun2)
  by_cases hunchecked : (slotRecord u l i).stamp = .unchecked
  · have hring := stampPiece_ring (m := m) (x := x) (bytes := bytes) hunchecked
    rw [← hs2] at hring
    have hcount := mismatchesAfter_le (stampOf m l i x bytes u) htwo
    have hlane : s2.ring.mismatches.get l = mismatchesAfter (u.ring.mismatches.get l) (stampOf m l i x bytes u) := by
      rw [hring, Lanes.get_set_same]
    have hother (k : Lane) (hk : k ≠ l) : s2.ring.mismatches.get k = u.ring.mismatches.get k := by
      rw [hring, Lanes.get_set_other _ _ hk]
    have hsteps : s2.ring.step = u.ring.step := by rw [hring]; rfl
    have hnear (k : Lane) : s2.ring.mismatches.get k ≤ 3 ∧
        (k ≠ l → s2.ring.step.get k = .inStep → s2.ring.mismatches.get k ≤ 2) := by
      by_cases hk : k = l
      · subst hk
        exact ⟨by rw [hlane]; exact hcount.1, fun h => absurd rfl h⟩
      · rw [hother k hk, hsteps]
        exact ⟨(hs1 k).1, fun _ => (hs1 k).2⟩
    by_cases hthird : thirdMismatch l i s s2
    · rw [accountOpen_third (by rw [hs2, hu]) hs5 hthird]
      have hout : MismatchesInRange (laneOut l s5) :=
        mismatchesInRange_outOfStep (s := s5) l rfl rfl (by rw [hafter.1, hafter.2]; exact hnear)
      have hgive : LineMoves (laneOut l s5) (goOutOfStep m l s5) :=
        forEachOpenly_moves _ _ (fun j t ht => forceRetire_moves ht m false l j) (s := laneOut l s5) hrun5
      exact mismatchesInRange_lineMoves hgive hout
    · rw [accountOpen_else (by rw [hs2, hu]) hs5 hthird]
      refine mismatchesInRange_of_steps (s := s2) (fun k => ⟨(hnear k).1, fun hk => ?_⟩) hafter.2 hafter.1
      by_cases hkl : k = l
      · subst hkl
        refine hcount.2.elim (fun h => by rw [hlane]; exact h) fun ⟨hst, hthree⟩ => absurd ⟨?_, ?_, ?_⟩ hthird
        · rw [← hstamps, hunchecked]
        · rw [hs2, slotRecord_stampPiece hunchecked, hst]
        · rw [hlane]
          exact hthree
      · exact (hnear k).2 hkl hk
  · have hsame : s2 = u := by rw [hs2, stampPiece_decided hunchecked]
    have hthird : ¬thirdMismatch l i s s2 := fun h => hunchecked (hstamps.trans h.1)
    rw [accountOpen_else (by rw [hs2, hu]) hs5 hthird]
    exact mismatchesInRange_of_steps hs1 (by rw [hafter.2, hsame]) (by rw [hafter.1, hsame])

theorem mismatchesInRange_moves {web mail : Prop} {s t : State} (h : Moves web False mail s t)
    (hs : MismatchesInRange s) : MismatchesInRange t :=
  h.keep (fun _ _ hs => Move.mismatchesInRange hs) hs

theorem mismatchesInRange_accountPiece (l : Lane) (i x : Nat) (bytes : List Byte) {s : State}
    (hs : MismatchesInRange s) : MismatchesInRange (accountPiece l i x bytes s) := by
  unfold accountPiece
  split
  case h_6 m hm hstep hopen =>
    have hrun := running_of_opened (by simp [hm]) hopen
    exact mismatchesInRange_moves (web := False) (mail := False) (closeTests_moves _).moves
      (mismatchesInRange_accountOpen m hs hrun hstep)
  all_goals exact hs

theorem mismatchesInRange_grantInlet {s t : State} (hs : MismatchesInRange s) (ht : grantInlet s = some t) :
    MismatchesInRange t := by
  unfold grantInlet at ht
  split at ht
  next => cases ht
  next p rest _ =>
    split at ht
    · cases ht
      refine mismatchesInRange_of_same ?_ (by rw [(settleInlet_frame _).kept])
      cases p with
      | aperture l slot x bytes => exact mismatchesInRange_accountPiece l slot x bytes hs
      | _ => exact hs
    · cases ht

theorem mismatchesInRange_grantPlace {s : State} (hs : MismatchesInRange s) (h : s.outlet.length < 64) :
    MismatchesInRange (grantPlace s) := by
  unfold grantPlace
  split
  next r _ => exact mismatchesInRange_moves (web := False) (grantRead_moves r h) hs
  next =>
    split
    next t ht => exact mismatchesInRange_moves (web := False) (mail := False) (grantList_moves h ht) hs
    next =>
      cases ht : grantInlet s with
      | none => exact hs
      | some t => exact mismatchesInRange_grantInlet hs ht

theorem exec_mismatchesInRange {c : Instr} {s t : State} (hs : MismatchesInRange s) (h : exec c s = .next t) :
    MismatchesInRange t := by
  by_cases hc : c = .outletPlaceGrant
  · subst hc
    simp only [exec, execOutletPlaceGrant, unlessReset] at h
    split at h
    · cases h
      exact hs
    · split at h <;> cases h
      next hfree => exact mismatchesInRange_grantPlace hs hfree.1
      · exact hs
  · refine mismatchesInRange_moves (web := ∃ p n, c = .encoderTransition p n) (mail := True) ?_ hs
    exact Relation.ReflTransGen.mono (fun _ _ hm => by simpa only [hc] using hm) _ _ (exec_moves h)

/-- Settles O53: every move keeps the sizes and the order of the ring's lists; of the mismatch counts every move but a
stamp, and through a piece the third mismatch of a lane in a row puts it OUT_OF_STEP. -/
theorem sizesAreKept : Obligations.SizesAreKept := by
  intro s t h
  refine ⟨fun hs => ?_, fun hs => ?_, fun hs => ?_⟩
  · exact step_keeps (fun _ _ hs ⟨_, ht⟩ => ht ▸ hs) (exec_keeps Move.sized) hs h
  · exact step_keeps (fun _ _ hs ⟨_, ht⟩ => ht ▸ hs) (fun _ _ _ hs => exec_mismatchesInRange hs) hs h
  · exact step_keeps (fun _ _ hs ⟨_, ht⟩ => ht ▸ hs) (exec_keeps Move.ringOrdered) hs h

end Sys2Proof.RunProofs
end

section
/-! SUPPORT and PROOFS. The frame of each command (O52), and the order of the outlet (O51). -/

namespace Sys2Proof.RunProofs

open Sys2Proof Sys2Proof.Machine Sys2Proof.AcquisitionProofs

/-! ### Frames -/

/-- The commands that leave the ring counts alone (R118). -/
def RingStands (c : Instr) : Prop :=
  (∀ x, c ≠ .readCompletion x) ∧ c ≠ .outletPlaceGrant ∧ (∀ p n, c ≠ .encoderTransition p n) ∧ (∀ l, c ≠ .markEdge l) ∧
    c ≠ .disarm ∧ c ≠ .abort

/-- The commands that leave the transaction in decode and the port alone (R2). -/
def DecodeStands (c : Instr) : Prop := (∀ x, c ≠ .inletTransactionTaken x) ∧ c ≠ .outletPlaceGrant

/-- What s and t have in common when t follows s within command c, which does not reset the bridge. A field whose value
is written by an explicit update holds by `rfl`. -/
structure Framed (c : Instr) (s t : State) : Prop where
  returned : s.returned <+: t.returned := by exact List.prefix_refl _
  grows : ∃ xs, t.sent ++ t.outlet = s.sent ++ s.outlet ++ xs := by exact ⟨[], (List.append_nil _).symm⟩
  inForce : t.profile.inForce = s.profile.inForce := by exact rfl
  faulted : t.profile.faulted = s.profile.faulted := by exact rfl
  loadStatus : t.profile.loadStatus = s.profile.loadStatus := by exact rfl
  revision : t.profile.revision = s.profile.revision := by exact rfl
  resetCause : t.mailbox.resetCause = s.mailbox.resetCause := by exact rfl
  stored : c ≠ .profileProgrammingDone → t.profile = s.profile := by exact fun _ => rfl
  causes : c ≠ .ack → CausesKept s t := by exact fun _ => causesKept_of_eq rfl
  mask : c ≠ .setMask → t.attention.mask = s.attention.mask := by exact fun _ => rfl
  counters : c ≠ .status → CountersNotBelow s.counters t.counters := by exact fun _ => countersNotBelow_refl _
  pair : (∀ p n, c ≠ .encoderTransition p n) → t.encoder.lastPair = s.encoder.lastPair := by exact fun _ => rfl
  encoder : (∀ p n, c ≠ .encoderTransition p n) → c ≠ .arm → t.encoder = s.encoder := by exact fun _ _ => rfl
  strobe : (∀ p n, c ≠ .encoderTransition p n) → c ≠ .arm →
    { t.strobe with lineUntil := none } = { s.strobe with lineUntil := none } := by exact fun _ _ => rfl
  mark : (∀ l, c ≠ .markEdge l) → t.tracker.markLevel = s.tracker.markLevel := by exact fun _ => rfl
  jobLevel : t.acq.jobLevel = s.acq.jobLevel := by exact rfl
  fallingSeen : t.acq.fallingSeen = s.acq.fallingSeen := by exact rfl
  lastSeen : (∀ x, c ≠ .readCompletion x) → t.mailbox.lastSeen = s.mailbox.lastSeen := by exact fun _ => rfl
  heldTags : (∀ x, c ≠ .readCompletion x) → t.heldTags = s.heldTags := by exact fun _ => rfl
  taken : RingStands c → t.ringUnit.taken = s.ringUnit.taken := by exact fun _ => rfl
  returnCount : RingStands c → t.ringUnit.returned = s.ringUnit.returned := by exact fun _ => rfl
  index : RingStands c → t.ringUnit.index = s.ringUnit.index := by exact fun _ => rfl
  decode : DecodeStands c → t.decode = s.decode := by exact fun _ => rfl
  inletHeld : DecodeStands c → t.inletHeld = s.inletHeld := by exact fun _ => rfl
  resetLine : c ≠ .resetLineAssert → t.resetLine = s.resetLine := by exact fun _ => rfl
  pending : t.pending = s.pending := by exact rfl

theorem Framed.refl (c : Instr) (s : State) : Framed c s s := {}

theorem Framed.trans {c : Instr} {s t u : State} (hst : Framed c s t) (htu : Framed c t u) : Framed c s u where
  returned := hst.returned.trans htu.returned
  grows := by
    obtain ⟨xs, hxs⟩ := hst.grows
    obtain ⟨ys, hys⟩ := htu.grows
    exact ⟨xs ++ ys, by rw [hys, hxs, List.append_assoc (_ ++ _)]⟩
  inForce := htu.inForce.trans hst.inForce
  faulted := htu.faulted.trans hst.faulted
  loadStatus := htu.loadStatus.trans hst.loadStatus
  revision := htu.revision.trans hst.revision
  resetCause := htu.resetCause.trans hst.resetCause
  stored h := (htu.stored h).trans (hst.stored h)
  causes h := (hst.causes h).trans (htu.causes h)
  mask h := (htu.mask h).trans (hst.mask h)
  counters h := countersNotBelow_trans (hst.counters h) (htu.counters h)
  pair h := (htu.pair h).trans (hst.pair h)
  encoder h h' := (htu.encoder h h').trans (hst.encoder h h')
  strobe h h' := (htu.strobe h h').trans (hst.strobe h h')
  mark h := (htu.mark h).trans (hst.mark h)
  jobLevel := htu.jobLevel.trans hst.jobLevel
  fallingSeen := htu.fallingSeen.trans hst.fallingSeen
  lastSeen h := (htu.lastSeen h).trans (hst.lastSeen h)
  heldTags h := (htu.heldTags h).trans (hst.heldTags h)
  taken h := (htu.taken h).trans (hst.taken h)
  returnCount h := (htu.returnCount h).trans (hst.returnCount h)
  index h := (htu.index h).trans (hst.index h)
  decode h := (htu.decode h).trans (hst.decode h)
  inletHeld h := (htu.inletHeld h).trans (hst.inletHeld h)
  resetLine h := (htu.resetLine h).trans (hst.resetLine h)
  pending := htu.pending.trans hst.pending

/-! ### Shared operations framed -/

section
variable {c : Instr} {s t : State}

/-- Moves of a run keep the frame of a command that may write the ring counts, or of any when they stand. -/
theorem RunFrame.framed (h : RunFrame s t)
    (hr : RingStands c → t.ringUnit.taken = s.ringUnit.taken ∧ t.ringUnit.returned = s.ringUnit.returned ∧
      t.ringUnit.index = s.ringUnit.index) : Framed c s t := by
  obtain ⟨xs, hxs⟩ := h.outlet
  have hcauses := h.causes
  have hcounters := h.counters
  have hgrows : s.sent ++ t.outlet = s.sent ++ s.outlet ++ xs := by rw [← hxs, List.append_assoc]
  have hkept := h.kept
  rw [hkept] at hcauses hcounters ⊢
  exact
    { grows := ⟨xs, hgrows⟩
      causes := fun _ => hcauses
      counters := fun _ => hcounters
      taken := fun hc => (hr hc).1
      returnCount := fun hc => (hr hc).2.1
      index := fun hc => (hr hc).2.2 }

theorem RunMoves.framed (hc : ¬RingStands c) (h : RunMoves s t) : Framed c s t :=
  h.runFrame.framed fun hr => absurd hr hc

theorem PortFrame.framed (hc : ¬DecodeStands c) (h : PortFrame s t) : Framed c s t := by
  have hreturned := h.returned
  have hcounters := h.counters
  have hkept := h.kept
  rw [hkept] at hreturned hcounters ⊢
  exact
    { returned := hreturned
      counters := fun _ => hcounters
      decode := fun hd => absurd hd hc
      inletHeld := fun hd => absurd hd hc }

theorem framed_list (h : t = { s with list := t.list }) : Framed c s t := by
  rw [h]
  exact {}

theorem framed_respond (q : BitVec 32) (code : Byte) (r : ResultCode) (d : List Byte) (s : State) :
    Framed c s (respond q code r d s) :=
  framed_list (enqueue_eq _ s)

theorem framed_bump (k : Counter) (s : State) : Framed c s (bump k s) := { counters := fun _ => bump_not_below k s }

theorem framed_raise (x : Cause) (s : State) : Framed c s (raise x s) := { causes := fun _ => causesKept_raise x s }

theorem framed_enterOutlet (w : OutTxn) (s : State) : Framed c s (enterOutlet w s) where
  grows := ⟨[w], by simp [enterOutlet]⟩

theorem framed_requestRead (u : ReadUnit) (a n : Nat) (s : State) : Framed c s (requestRead u a n s) := {}

theorem framed_setProgress (p : Option Progress) (s : State) : Framed c s (setProgress p s) := {}

theorem framed_setPoll (p : PollState) (s : State) : Framed c s (setPoll p s) := {}

theorem framed_setAcq (a : AcqState) (rq : Request) (s : State) : Framed c s (setAcq a rq s) := {}

theorem framed_setClock (n : Nat) (s : State) : Framed c s (setClock n s) := {}

end

/-! ### The inline path -/

theorem not_ringStands_grant : ¬RingStands .outletPlaceGrant := fun h => h.2.1 rfl

theorem not_decodeStands_grant : ¬DecodeStands .outletPlaceGrant := fun h => h.2 rfl

theorem Disposal.framed {c : Instr} {s t : State} (h : Disposal s t) : Framed c s t := by
  cases h with
  | nothing => exact {}
  | absorbed => exact framed_bump _ _
  | placed w => exact framed_enterOutlet w _

theorem accountPiece_framed (l : Lane) (slot x : Nat) (bytes : List Byte) (s : State) :
    Framed .outletPlaceGrant s (accountPiece l slot x bytes s) := by
  unfold accountPiece
  split
  case h_6 m hm _ hopen =>
    obtain ⟨u, v, w, hu, hv, v', hv', hw, hlast⟩ :=
      accountOpen_path m l slot x bytes (running_of_opened (by simp [hm]) hopen)
    have hstamp : Framed .outletPlaceGrant u v := by
      rcases hv with rfl | ⟨n, rfl⟩ <;> exact {}
    have hgap := RunMoves.framed not_ringStands_grant hu.run
    have hdispose := (RunMoves.framed not_ringStands_grant hv'.run).trans hw.framed
    exact ((hgap.trans hstamp).trans hdispose).trans
      (RunMoves.framed not_ringStands_grant (hlast.run.trans (closeTests_moves _)))
  all_goals exact framed_bump _ s

theorem grantInlet_framed {s t : State} (h : grantInlet s = some t) : Framed .outletPlaceGrant s t := by
  unfold grantInlet at h
  split at h
  next => cases h
  next p rest _ =>
    split at h
    · cases h
      have htaken : Framed .outletPlaceGrant s { s with decode := rest } := { decode := fun hd => absurd hd not_decodeStands_grant }
      refine (htaken.trans ?_).trans ((settleInlet_frame _).framed not_decodeStands_grant)
      cases p with
      | outside a bytes => exact framed_enterOutlet _ _
      | read a n tag => exact framed_enterOutlet _ _
      | aperture l slot x bytes => exact accountPiece_framed l slot x bytes _
    · cases h

theorem grantList_framed {s t : State} (h : grantList s = some t) : Framed .outletPlaceGrant s t := by
  have hleaves (w : OutTxn) : Framed .outletPlaceGrant s (headLeaves (enterOutlet w s)) :=
    (framed_enterOutlet w s).trans (framed_list (headLeaves_eq _))
  have hissues (w : OutTxn) (n : Nat) :
      Framed .outletPlaceGrant s { enterOutlet w s with list := { (enterOutlet w s).list with progress := n } } :=
    (framed_enterOutlet w s).trans (framed_list rfl)
  unfold grantList at h
  split at h
  next => cases h
  next r _ _ =>
    cases h
    exact (hleaves _).trans (RunMoves.framed not_ringStands_grant (.head (.raise .repeatDone _) (pumpOpening_moves _)))
  next r _ _ =>
    cases h
    unfold grantResponse
    dsimp only
    split
    · exact hissues _ _
    · exact (hleaves _).trans (framed_raise _ _)
  next f _ _ =>
    split at h
    next b _ =>
      cases h
      unfold grantFill
      dsimp only
      split
      · exact hleaves _
      · exact hissues _ _
    next => cases h
    next => cases h

theorem grantRead_framed (r : BridgeRead) (s : State) : Framed .outletPlaceGrant s (grantRead r s) := by
  unfold grantRead
  split
  next t _ =>
    have hreads (rs : List BridgeRead) : Framed .outletPlaceGrant s { s with reads := rs } := {}
    exact (hreads _).trans (framed_enterOutlet _ _)
  next => exact .refl _ s

theorem grantPlace_framed (s : State) : Framed .outletPlaceGrant s (grantPlace s) := by
  unfold grantPlace
  split
  next r _ => exact grantRead_framed r s
  next =>
    split
    next t ht => exact grantList_framed ht
    next =>
      cases ht : grantInlet s with
      | none => exact .refl _ s
      | some t => exact grantInlet_framed ht

theorem leaveOutlet_framed (c : Instr) (s : State) : Framed c s (leaveOutlet s) := by
  unfold leaveOutlet
  split
  next => exact .refl _ s
  next w rest hw =>
    have hgrows : (s.sent ++ [w]) ++ rest = s.sent ++ s.outlet ++ [] := by simp [hw]
    cases w with
    | write a p => exact { grows := ⟨[], hgrows⟩ }
    | read a n tag => exact { grows := ⟨[], hgrows⟩ }

theorem assignTag_framed (c : Instr) (s : State) : Framed c s (assignTag s) := by
  unfold assignTag
  split
  next => exact .refl _ s
  next t _ =>
    have hstate := freeOrder_state (untaggedUnits s) s
    dsimp only
    split
    next => exact .refl _ s
    next =>
      rw [hstate]
      exact {}

/-! ### Completions -/

section
variable {x : Completion}

theorem not_ringStands_completion : ¬RingStands (.readCompletion x) := fun h => h.1 x rfl

theorem mailboxReadDone_framed (bytes : Option (List Byte)) (s : State) :
    Framed (.readCompletion x) s (mailboxReadDone bytes s) := by
  have hfailed : Framed (.readCompletion x) s (setPoll .none (raise .busFault (bump .busFaults s))) :=
    ((framed_bump _ s).trans (framed_raise _ _)).trans (framed_setPoll _ _)
  unfold mailboxReadDone
  split
  next => exact .refl _ s
  next =>
    unfold sequenceReadDone
    split
    next => exact hfailed
    next bs =>
      dsimp only
      split
      next =>
        refine Framed.trans ?_ (framed_respond _ _ _ _ _)
        exact { lastSeen := fun h => absurd rfl (h x) }
      next =>
        split
        · exact framed_setPoll _ s
        · exact (framed_setPoll _ s).trans (framed_requestRead _ _ _ _)
  next =>
    unfold commandReadDone
    split
    next => exact hfailed
    next bs =>
      dsimp only
      split
      · exact framed_setPoll _ s
      · exact { lastSeen := fun h => absurd rfl (h x) }

theorem endLoad_framed (q : BitVec 32) (r : ResultCode) (d : List Byte) {s t : State}
    (h : Framed (.readCompletion x) s t) : Framed (.readCompletion x) s (endLoad q r d t) :=
  (h.trans (framed_setProgress _ t)).trans (framed_respond _ _ _ _ _)

theorem makeLive_framed (m : SteeringMap) (s : State) : Framed (.readCompletion x) s (makeLive m s) where
  taken h := absurd h not_ringStands_completion
  returnCount h := absurd h not_ringStands_completion
  index h := absurd h not_ringStands_completion

theorem mapReadDone_framed (bytes : Option (List Byte)) (s : State) :
    Framed (.readCompletion x) s (mapReadDone bytes s) := by
  have hstaged (m : SteeringMap) :
      Framed (.readCompletion x) s { s with maps := { s.maps with staged := some m } } := {}
  unfold mapReadDone
  split
  next =>
    split
    next => exact endLoad_framed _ _ _ (framed_bump _ s)
    next =>
      split
      next => exact endLoad_framed _ _ _ (.refl _ s)
      next =>
        unfold disposeMap
        dsimp only
        split
        next => exact endLoad_framed _ _ _ (makeLive_framed _ s)
        next => exact endLoad_framed _ _ _ (hstaged _)
        next =>
          split
          next => exact endLoad_framed _ _ _ (.refl _ s)
          next => exact endLoad_framed _ _ _ (hstaged _)
  next => exact .refl _ s

theorem endSave_framed {c : Instr} (q : BitVec 32) (r : ResultCode) {s t : State} (h : Framed c s t) :
    Framed c s (endSave q r t) :=
  (h.trans (framed_setProgress _ t)).trans (framed_respond _ _ _ _ _)

theorem profileReadDone_framed (bytes : Option (List Byte)) (s : State) :
    Framed (.readCompletion x) s (profileReadDone bytes s) := by
  unfold profileReadDone
  split
  next =>
    split
    next => exact endSave_framed _ _ (framed_bump _ s)
    next =>
      split
      next => exact endSave_framed _ _ (.refl _ s)
      next => exact framed_setProgress _ s
  next => exact .refl _ s

theorem reservedCompletion_framed (s : State) : Framed (.readCompletion x) s (reservedCompletion x s) := by
  unfold reservedCompletion
  dsimp only
  split
  next => exact { heldTags := fun h => absurd rfl (h x) }
  next r _ =>
    have hends (rs : List BridgeRead) : Framed (.readCompletion x) s { s with reads := rs } := {}
    split
    · exact hends _
    · refine (hends (removeFirst (fun r => decide (stageTag r.stage = some x.tag)) s.reads)).trans ?_
      cases r.unit with
      | ring => exact RunMoves.framed not_ringStands_completion (ringReadDone_moves _ _)
      | mailbox => exact mailboxReadDone_framed _ _
      | maps => exact mapReadDone_framed _ _
      | profile => exact profileReadDone_framed _ _

end

/-! ### The web -/

section
variable {p : PhasePair} {n : Nat}

theorem not_ringStands_transition : ¬RingStands (.encoderTransition p n) := fun h => h.2.2.1 p n rfl

theorem framed_web (enc : Encoder) (str : Strobe) (s : State) :
    Framed (.encoderTransition p n) s { s with encoder := enc, strobe := str } where
  pair h := absurd rfl (h p n)
  encoder h := absurd rfl (h p n)
  strobe h := absurd rfl (h p n)

theorem Observed.framed {s t : State} (h : Observed s t) : Framed (.encoderTransition p n) s t := by
  unfold Observed at h
  have hclock (k : Nat) : Framed (.encoderTransition p n) s { s with clock := k } := {}
  rw [h]
  exact (hclock _).trans (framed_web _ _ _)

theorem observePair_framed (pair : PhasePair) (k : Nat) (s : State) :
    Framed (.encoderTransition p n) s (observePair pair (setClock k s)) := by
  obtain ⟨u, hu, hrun | hfault | ⟨m, hm, -, -, hadvance⟩⟩ := observePair_path pair k s
  · exact hu.framed.trans (RunMoves.framed not_ringStands_transition hrun)
  · rw [hfault]
    exact (hu.framed.trans (framed_raise _ _)).trans (framed_bump _ _)
  · rw [hadvance]
    have hstart : Framed (.encoderTransition p n) s (advanced u) := hu.framed.trans (framed_web _ u.strobe u)
    have hstrobe (str : Strobe) (t : State) : Framed (.encoderTransition p n) t { t with strobe := str } :=
      framed_web t.encoder str t
    have hrun {t v : State} (h : RunMoves t v) : Framed (.encoderTransition p n) t v :=
      RunMoves.framed not_ringStands_transition h
    refine hstart.trans ?_
    rcases highWaterAdvance_path m (s := advanced u) (by simp [advanced, hm]) with
      ⟨-, h⟩ | ⟨-, v, hv, ⟨-, h⟩ | ⟨-, -, h⟩ | ⟨-, -, h⟩⟩
    · exact (hstrobe _ _).trans (hrun h)
    · exact (hstrobe _ _).trans (hrun (hv.trans h))
    · exact ((hstrobe _ _).trans (hrun hv)).trans ((hstrobe _ _).trans (hrun h))
    · exact ((hstrobe _ _).trans (hrun hv)).trans ((framed_bump _ _).trans (hrun h))

end

theorem not_ringStands_mark {l : Bool} : ¬RingStands (.markEdge l) := fun h => h.2.2.2.1 l rfl

theorem observeMark_framed {l : Bool} (level : Bool) (s : State) : Framed (.markEdge l) s (observeMark level s) := by
  have hlevel (tr : Tracker) : Framed (.markEdge l) s { s with tracker := tr } := { mark := fun h => absurd rfl (h l) }
  unfold observeMark
  dsimp only
  split
  next m _ _ =>
    split
    next =>
      refine (hlevel { s.tracker with markLevel := some level }).trans ?_
      unfold actOnEdge
      split
      next hedge =>
        unfold acceptEdge
        split
        next => exact framed_bump _ _
        next =>
          have hbegun := Relation.ReflTransGen.single (RunMove.track
            { ({ s with tracker := { s.tracker with markLevel := some level } } : State).tracker with
              qualification := some
                { edge := s.strobe.nextStrobe.toNat, confirm := s.encoder.highWater.toNat + m.h } }
            (.inr hedge.1) rfl id)
          dsimp only
          split
          · exact RunMoves.framed not_ringStands_mark (hbegun.trans (endQualification_moves m _))
          · exact RunMoves.framed not_ringStands_mark hbegun
      next => exact .refl _ _
    next => exact hlevel _
  next => exact hlevel _

theorem pumpOpening_framed (c : Instr) (s : State) : Framed c s (pumpOpening s) := by
  unfold pumpOpening
  split
  · split
    · exact {}
    · exact .refl _ s
  · exact .refl _ s

/-- Beginning an opening operation requests a read; the ring counts change when its return count is judged (R87). -/
theorem beginOpening_framed (c : Instr) (s : State) : Framed c s (beginOpening s) := by
  unfold beginOpening
  split
  next => exact .refl _ s
  next e _ =>
    have hbegun : Framed c s (setOpening (some { key := e.key, phase := .allowance }) s) := {}
    exact hbegun.trans (pumpOpening_framed c _)

/-! ### The acquisition requests -/

theorem endNewest_ringUnit (row : Nat) (k : Kind) (s : State) : (endNewest row k s).ringUnit = s.ringUnit := by
  unfold endNewest
  split <;> rfl

/-- A boundary decision of a RUNNING bridge ends no drain, so that the ring counts stand. -/
theorem decideBoundary_ringUnit (b : Nat) (k : Kind) {s : State} (h : s.acq.state = .running) :
    (decideBoundary b k s).ringUnit = s.ringUnit := by
  have hcut : (cutOver s).acq.state = .running := by simpa using h
  have hrule (r : Request) : (openingRule .running r).2.1 ≠ .draining := by cases r <;> simp [openingRule]
  unfold decideBoundary
  dsimp only
  split
  next => simp
  next m _ =>
    rw [hcut, reportEmpty_of_not_draining]
    · split
      · rw [openRepeat_eq]
        simp [endNewest_ringUnit]
      · simp [endNewest_ringUnit]
    · split
      · rw [openRepeat_eq]
        simp [endNewest_acq, hrule]
      · simp [endNewest_acq, hrule]

theorem requestArm_framed (s : State) : Framed .arm s (requestArm s).2 := by
  unfold requestArm
  split
  next m hd hm =>
    have harm : Framed .arm s (armBlocks m s) := by
      rw [armBlocks_eq]
      exact
        { encoder := fun _ h => absurd rfl h
          strobe := fun _ h => absurd rfl h
          mark := fun _ => by unfold armTracker; cases m.mode <;> rfl }
    have hrunning : (armBlocks m s).acq.state = .running := by rw [armBlocks_eq]
    unfold beginRun
    dsimp only
    split
    next => exact harm
    next =>
      refine harm.trans ((decideBoundary_moves m.M .fixed (.inl (by simp [hrunning]))).runFrame.framed fun _ => ?_)
      rw [decideBoundary_ringUnit _ _ hrunning]
      exact ⟨rfl, rfl, rfl⟩
  next => exact .refl _ s
  next => exact .refl _ s

theorem requestDisarm_framed (s : State) : Framed .disarm s (requestDisarm s).2 := by
  unfold requestDisarm
  split
  next => exact .refl _ s
  next => exact .refl _ s
  next hd _ =>
    split
    next he => exact RunMoves.framed (fun h => h.2.2.2.2.1 rfl) (.single (.disarm hd he))
    next => exact framed_setAcq _ _ s

theorem requestAbort_framed (s : State) : Framed .abort s (requestAbort s).2 := by
  unfold requestAbort
  split
  next => exact .refl _ s
  next hd => exact RunMoves.framed (fun h => h.2.2.2.2.2 rfl) (abortRun_moves hd)

theorem requestHold_framed (c : Instr) (s : State) : Framed c s (requestHold s).2 := by
  unfold requestHold
  split <;> exact {}

theorem requestResume_framed (c : Instr) (s : State) : Framed c s (requestResume s).2 := by
  unfold requestResume
  split <;> exact {}

section
variable {c : Instr} {request : State → RequestResult × State}

theorem unlessFaulted_framed {s : State} (h : Framed c s (request s).2) : Framed c s (unlessFaulted request s).2 := by
  unfold unlessFaulted
  split
  · exact .refl _ s
  · exact h

theorem lineRequest_framed {s : State} (h : Framed c s (request s).2) : Framed c s (lineRequest request s) := by
  have hrequest := unlessFaulted_framed h
  unfold lineRequest
  dsimp only
  split
  · exact hrequest.trans (framed_bump _ _)
  · exact hrequest

theorem carryOut_framed {code : Byte} {f : TakenCommand → State → State} (h : ∀ x s, Framed c s (f x s)) (s : State) :
    Framed c s (carryOut code f s) := by
  unfold carryOut
  split
  next => exact .refl _ s
  next x _ =>
    split
    · have hreleased : Framed c s (released s) := {}
      exact hreleased.trans (h x _)
    · exact .refl _ s

theorem commandedRequest_framed (h : ∀ s, Framed c s (request s).2) (x : TakenCommand) (s : State) :
    Framed c s (commandedRequest request x s) :=
  (unlessFaulted_framed (h s)).trans (framed_respond _ _ _ _ _)

theorem refusedIfFaulted_framed {f : TakenCommand → State → State} (h : ∀ x s, Framed c s (f x s)) (x : TakenCommand)
    (s : State) : Framed c s (refusedIfFaulted f x s) := by
  unfold refusedIfFaulted
  split
  · exact framed_respond _ _ _ _ s
  · exact h x s

end

/-! ### The other mailbox commands -/

theorem takeLoadMap_framed {c : Instr} (x : TakenCommand) (s : State) : Framed c s (takeLoadMap x s) := by
  unfold takeLoadMap
  dsimp only
  split
  · exact framed_respond _ _ _ _ s
  · exact (framed_setProgress _ s).trans (framed_requestRead _ _ _ _)

theorem takeSaveProfile_framed {c : Instr} (x : TakenCommand) (s : State) : Framed c s (takeSaveProfile x s) := by
  unfold takeSaveProfile
  dsimp only
  split
  · exact framed_respond _ _ _ _ s
  · split
    · exact framed_respond _ _ _ _ s
    · exact (framed_setProgress _ s).trans (framed_requestRead _ _ _ _)

theorem takeStatus_framed (x : TakenCommand) (s : State) : Framed .status s (takeStatus x s) := by
  have hcleared : Framed .status s { s with counters := Counters.zero } := { counters := fun h => absurd rfl h }
  refine Framed.trans ?_ (framed_respond _ _ _ _ _)
  split
  · exact hcleared
  · exact .refl _ s

theorem takeAck_framed (x : TakenCommand) (s : State) : Framed .ack s (takeAck x s) := by
  have hacked (causes : BitVec 13) : Framed .ack s { s with attention := { s.attention with causes := causes } } :=
    { causes := fun h => absurd rfl h }
  exact (hacked _).trans (framed_respond _ _ _ _ _)

theorem takeSetMask_framed (x : TakenCommand) (s : State) : Framed .setMask s (takeSetMask x s) := by
  have hset (mask : BitVec 13) : Framed .setMask s { s with attention := { s.attention with mask := mask } } :=
    { mask := fun h => absurd rfl h }
  exact (hset _).trans (framed_respond _ _ _ _ _)

theorem programmingDone_framed (s : State) : Framed .profileProgrammingDone s (programmingDone s) := by
  unfold programmingDone
  split
  next =>
    refine endSave_framed _ _ ?_
    exact { stored := fun h => absurd rfl h }
  next => exact .refl _ s

theorem answerUnsupported_framed {c : Instr} (s : State) : Framed c s (answerUnsupported s) := by
  unfold answerUnsupported
  split
  next => exact .refl _ s
  next =>
    split
    · exact .refl _ s
    · have hreleased : Framed c s (released s) := {}
      exact hreleased.trans (framed_respond _ _ _ _ _)

theorem pollTimerExpires_framed {c : Instr} (s : State) : Framed c s (pollTimerExpires s) := by
  unfold pollTimerExpires
  dsimp only
  split
  · exact {}
  · exact {}

/-! ### Every command -/

theorem unlessReset_framed {c : Instr} {f : State → State} {s t : State} (h : Framed c s (f s))
    (ht : unlessReset f s = .next t) : Framed c s t := by
  unfold unlessReset at ht
  split at ht <;> cases ht
  · exact .refl _ s
  · exact h

/-- A command that cannot reset the bridge keeps its frame. -/
theorem exec_framed {c : Instr} {s t : State} (hc : ¬MayReset c) (h : exec c s = .next t) : Framed c s t := by
  cases c with
  | inletTransactionTaken x =>
    cases h
    have hnot : ¬DecodeStands (.inletTransactionTaken x) := fun h => h.1 x rfl
    have hheld (xs : List InletTxn) : Framed (.inletTransactionTaken x) s { s with inletHeld := xs } :=
      { inletHeld := fun h => absurd h hnot }
    exact (hheld _).trans ((settleInlet_frame _).framed hnot)
  | outletPlaceGrant =>
    refine unlessReset_framed ?_ h
    split
    · exact grantPlace_framed s
    · exact .refl _ s
  | outletTransactionLeaves => exact unlessReset_framed (leaveOutlet_framed _ s) h
  | resetDrainEnd => exact absurd (.inl rfl) hc
  | readCompletion x =>
    cases h
    split
    · exact { returned := List.prefix_append _ _ }
    · exact reservedCompletion_framed s
  | tagAssigned => exact unlessReset_framed (assignTag_framed _ s) h
  | encoderTransition p n =>
    exact unlessReset_framed (f := fun s => observePair p (setClock (s.clock + n) s)) (observePair_framed p _ s) h
  | strobePulseEnd =>
    refine unlessReset_framed ?_ h
    unfold endPulse
    split
    · exact .refl _ s
    · exact framed_setClock _ s
  | markEdge level => exact unlessReset_framed (observeMark_framed level s) h
  | openingOperationBegin => exact unlessReset_framed (beginOpening_framed _ s) h
  | pollTimerExpiry => exact unlessReset_framed (pollTimerExpires_framed s) h
  | arm => exact unlessReset_framed (carryOut_framed (commandedRequest_framed requestArm_framed) s) h
  | disarm => exact unlessReset_framed (carryOut_framed (commandedRequest_framed requestDisarm_framed) s) h
  | abort => exact unlessReset_framed (carryOut_framed (commandedRequest_framed requestAbort_framed) s) h
  | hold => exact unlessReset_framed (carryOut_framed (commandedRequest_framed (requestHold_framed _)) s) h
  | resume => exact unlessReset_framed (carryOut_framed (commandedRequest_framed (requestResume_framed _)) s) h
  | loadMap => exact unlessReset_framed (carryOut_framed (refusedIfFaulted_framed takeLoadMap_framed) s) h
  | status => exact unlessReset_framed (carryOut_framed takeStatus_framed s) h
  | ack => exact unlessReset_framed (carryOut_framed (refusedIfFaulted_framed takeAck_framed) s) h
  | setMask => exact unlessReset_framed (carryOut_framed (refusedIfFaulted_framed takeSetMask_framed) s) h
  | readProfile =>
    exact unlessReset_framed (carryOut_framed (refusedIfFaulted_framed fun _ s => framed_respond _ _ _ _ s) s) h
  | saveProfile => exact unlessReset_framed (carryOut_framed (refusedIfFaulted_framed takeSaveProfile_framed) s) h
  | profileProgrammingDone => exact unlessReset_framed (programmingDone_framed s) h
  | reset => exact absurd (.inr (.inl rfl)) hc
  | unsupportedCommand => exact unlessReset_framed (answerUnsupported_framed s) h
  | jobLineEdge level => exact absurd (.inr (.inr (.inl ⟨level, rfl⟩))) hc
  | powerUp => exact absurd (.inr (.inr (.inr (.inl rfl)))) hc
  | resetLineAssert =>
    refine unlessReset_framed (f := fun s => { s with resetLine := true, strobe := { s.strobe with lineUntil := none } })
      ?_ h
    exact { resetLine := fun h => absurd rfl h }
  | resetLineRelease => exact absurd (.inr (.inr (.inr (.inr rfl)))) hc

/-! ### Commands that can reset the bridge -/

/-- The outlet's order, and what has been returned, through any command, which touches no command that waits: what has left followed by what stands in the
queue has grown at its end, or a reset has emptied the queue and lost nothing that had left. -/
structure PathKept (s t : State) : Prop where
  returned : s.returned <+: t.returned
  outlet : (∃ xs, t.sent ++ t.outlet = s.sent ++ s.outlet ++ xs) ∨ (t.outlet = [] ∧ t.sent = s.sent)
  pending : t.pending = s.pending

theorem Framed.pathKept {c : Instr} {s t : State} (h : Framed c s t) : PathKept s t := ⟨h.returned, .inl h.grows, h.pending⟩

theorem pathKept_refl (s : State) : PathKept s s := (Framed.refl .hold s).pathKept

theorem abandonProgramming_kept (s : State) :
    (abandonProgramming s).sent = s.sent ∧ (abandonProgramming s).returned = s.returned ∧
      (abandonProgramming s).pending = s.pending := by
  unfold abandonProgramming
  split
  · dsimp only
    rw [takeChoice_state]
    exact ⟨rfl, rfl, rfl⟩
  · exact ⟨rfl, rfl, rfl⟩

theorem resetBridge_pathKept (cause : ResetCause) (s : State) : PathKept s (resetBridge cause s) := by
  have hport := settleInlet_frame (performReset cause s)
  obtain ⟨hsent, hreturned, hpending⟩ := abandonProgramming_kept s
  refine ⟨?_, .inr ⟨?_, ?_⟩, ?_⟩
  · rw [← hreturned]
    exact hport.returned
  · rw [resetBridge, hport.kept]
    rfl
  · rw [resetBridge, hport.kept, ← hsent]
    rfl
  · rw [resetBridge, hport.kept, ← hpending]
    rfl

theorem observeJobLine_pathKept (level : Bool) (s : State) : PathKept s (observeJobLine level s) := by
  have hsame : PathKept s { s with acq := { s.acq with jobLevel := some level } } :=
    ⟨List.prefix_refl _, .inl ⟨[], (List.append_nil _).symm⟩, rfl⟩
  -- what an edge does keeps the path of the state that holds the level already
  have hafter {t : State} (h : PathKept { s with acq := { s.acq with jobLevel := some level } } t) : PathKept s t :=
    ⟨h.returned, h.outlet, h.pending⟩
  unfold observeJobLine
  dsimp only
  split
  next => exact hsame
  next =>
    split
    · exact hsame
    · refine hafter ?_
      split
      · unfold risingEdge
        split
        next => exact pathKept_refl _
        next => exact (lineRequest_framed (requestResume_framed .resume _)).pathKept
        next => exact (lineRequest_framed (requestArm_framed _)).pathKept
        next => exact pathKept_refl _
        next =>
          split
          · exact resetBridge_pathKept _ _
          · exact pathKept_refl _
      · unfold fallingEdge
        split
        next => exact pathKept_refl _
        next => exact (lineRequest_framed (requestHold_framed .hold _)).pathKept
        next => exact (lineRequest_framed (requestDisarm_framed _)).pathKept
        next => exact (lineRequest_framed (requestAbort_framed _)).pathKept
        next => exact ⟨List.prefix_refl _, .inl ⟨[], (List.append_nil _).symm⟩, rfl⟩

theorem unlessReset_pathKept {f : State → State} {s t : State} (h : PathKept s (f s)) (ht : unlessReset f s = .next t) :
    PathKept s t := by
  unfold unlessReset at ht
  split at ht <;> cases ht
  · exact pathKept_refl s
  · exact h

theorem exec_pathKept {c : Instr} {s t : State} (h : exec c s = .next t) : PathKept s t := by
  by_cases hc : MayReset c
  · rcases hc with rfl | rfl | ⟨level, rfl⟩ | rfl | rfl
    · refine unlessReset_pathKept ?_ h
      split
      · exact resetBridge_pathKept _ s
      · exact pathKept_refl s
    · refine unlessReset_pathKept (f := carryOut codeReset takeReset) ?_ h
      unfold carryOut
      split
      next => exact pathKept_refl s
      next =>
        split
        · unfold takeReset
          dsimp only
          split
          · have hreset := resetBridge_pathKept .command (setProgress (some .reset) (released s))
            exact ⟨hreset.returned, hreset.outlet, hreset.pending⟩
          · exact ⟨List.prefix_refl _, .inl ⟨[], (List.append_nil _).symm⟩, rfl⟩
        · exact pathKept_refl s
    · exact unlessReset_pathKept (observeJobLine_pathKept level s) h
    · cases h
      exact resetBridge_pathKept _ s
    · cases h
      split
      · have hreset := resetBridge_pathKept .resetLine { s with resetLine := false }
        exact ⟨hreset.returned, hreset.outlet, hreset.pending⟩
      · exact pathKept_refl s
  · exact (exec_framed hc h).pathKept

/-- Every command answers a next state. -/
theorem exec_next (c : Instr) (s : State) : ∃ t, exec c s = .next t := by
  cases c <;> exact ⟨_, rfl⟩

/-- Settles O1. -/
theorem stepRunsFrontCommand : Obligations.StepRunsFrontCommand := by
  refine ⟨fun _ _ _ => rfl, fun c s => ?_, fun s hs => ?_⟩
  · obtain ⟨t, ht⟩ := exec_next c s
    exact ⟨t, ht, (exec_pathKept ht).pending⟩
  · rw [step, hs]

/-- Settles O51: a command that cannot reset the bridge adds to the outlet at its end, and a reset empties the queue. -/
theorem outletKeepsItsOrder : Obligations.OutletKeepsItsOrder := by
  intro c s t h
  by_cases hc : MayReset c
  · exact (exec_pathKept h).outlet.imp_right fun h => ⟨hc, h⟩
  · exact .inl (exec_framed hc h).grows

/-- Settles O52, command by command. -/
theorem commandsKeepTheirFrames : Obligations.CommandsKeepTheirFrames := by
  intro c s t h
  refine ⟨(exec_pathKept h).returned, fun hc => ?_⟩
  have f := exec_framed hc h
  refine ⟨⟨f.inForce, f.faulted, f.loadStatus, f.revision, f.resetCause⟩, f.stored, f.causes, f.mask, f.counters,
    fun hweb => ⟨f.pair hweb, fun harm => ⟨f.encoder hweb harm, f.strobe hweb harm⟩⟩, f.mark,
    ⟨f.jobLevel, f.fallingSeen⟩, fun hx => ⟨f.lastSeen hx, f.heldTags hx⟩, fun h1 h2 h3 h4 h5 h6 => ?_,
    fun h1 h2 => ⟨f.decode ⟨h1, h2⟩, f.inletHeld ⟨h1, h2⟩⟩, f.resetLine⟩
  have hstands : RingStands c := ⟨h1, h2, h3, h4, h5, h6⟩
  exact ⟨f.taken hstands, f.returnCount hstands, f.index hstands⟩

end Sys2Proof.RunProofs
end

section
/-! SUPPORT and PROOFS. One activity of the mailbox at a time (O55), and tags given once (O58). A move that leaves the
reads and the mailbox alone keeps both; the steps that write them are taken one by one. -/

namespace Sys2Proof.RunProofs

open Sys2Proof Sys2Proof.Machine Sys2Proof.AcquisitionProofs

/-! ### The activities of the mailbox (R106, R155, R156) -/

/-- The poll, the command taken and the command in progress, counted. -/
def mailboxBusy (m : Mailbox) : Nat :=
  (if m.poll = .none then 0 else 1) + (if m.taken.isSome then 1 else 0) + if m.inProgress.isSome then 1 else 0

/-- The RESPONSE jobs on the list and the activities of the mailbox, counted. -/
def activity (s : State) : Nat := jobCount isResponse s + mailboxBusy s.mailbox

theorem oneAtATime_iff (s : State) : OneAtATime s ↔ activity s ≤ 1 := by
  unfold OneAtATime activity mailboxBusy jobCount
  omega

theorem activity_le_of {s t : State} (hj : jobCount isResponse t ≤ jobCount isResponse s) (hm : t.mailbox = s.mailbox) :
    activity t ≤ activity s := by
  unfold activity
  rw [hm]
  omega

theorem RunMove.activity_le {s t : State} (h : RunMove s t) : activity t ≤ activity s := by
  refine activity_le_of ?_ (by rw [h.runFrame.kept])
  exact h.jobCount_le (fun _ => rfl) (fun _ _ => rfl) (fun f hf => by cases hf) le_rfl

theorem Move.activity_le {web stamps : Prop} {s t : State} (h : Move web stamps False s t) : activity t ≤ activity s := by
  cases h with
  | run h => exact h.activity_le
  | quiet h =>
    obtain ⟨-, -, hmail⟩ := h.same.resolve_left id
    exact activity_le_of (by rw [jobCount, h.list, jobCount]) hmail
  | headLeaves => exact activity_le_of (jobCount_headLeaves_le _ s) (by simp)
  | respond h => exact h.elim
  | reset h => exact h.elim
  | arm => exact activity_le_of (by rw [armBlocks_eq]; exact le_rfl) (by rw [armBlocks_eq])
  | _ => exact le_rfl

theorem Moves.activity_le {web stamps : Prop} {s t : State} (h : Moves web stamps False s t) :
    activity t ≤ activity s := by
  induction h with
  | refl => exact le_rfl
  | tail _ hlast ih => exact hlast.activity_le.trans ih

theorem activity_respond (q : BitVec 32) (c : Byte) (r : ResultCode) (d : List Byte) (s : State) :
    activity (respond q c r d s) = activity s + 1 := by
  unfold activity respond
  rw [jobCount_enqueue fun _ => rfl, enqueue_mailbox, isResponse, if_pos rfl]
  omega

/-- The same mailbox but for what is named: how an update of the mailbox moves the count. -/
theorem activity_mailbox (m : Mailbox) (s : State) :
    activity { s with mailbox := m } + mailboxBusy s.mailbox = activity s + mailboxBusy m := by
  unfold activity jobCount
  dsimp only
  omega

theorem activity_released {s : State} {c : TakenCommand} (h : s.mailbox.taken = some c) :
    activity (released s) + 1 = activity s := by
  unfold activity mailboxBusy jobCount released
  simp only [h, Option.isSome_some, Option.isSome_none, Bool.false_eq_true, if_true, if_false]
  omega

theorem activity_setProgress_le (p : Option Progress) (s : State) : activity (setProgress p s) ≤ activity s + 1 := by
  unfold activity mailboxBusy jobCount setProgress
  dsimp only
  split <;> split <;> split <;> omega

theorem activity_setProgress_none {s : State} {p : Progress} (h : s.mailbox.inProgress = some p) :
    activity (setProgress none s) + 1 = activity s := by
  unfold activity mailboxBusy jobCount setProgress
  simp only [h, Option.isSome_some, Option.isSome_none, Bool.false_eq_true, if_true, if_false]
  omega

theorem activity_reset (cause : ResetCause) (s : State) : activity (resetBridge cause s) = 0 := by
  rw [activity, jobCount, resetBridge, (settleInlet_frame _).kept]
  rfl

theorem activity_port {s t : State} (h : PortFrame s t) : activity t = activity s := by
  rw [activity, jobCount, h.kept]
  rfl

/-! ### One activity at a time, command by command -/

/-- The command taken gives way to what it does, which begins or answers one thing at most. -/
theorem activity_carryOut {code : Byte} {f : TakenCommand → State → State} (hf : ∀ c s, activity (f c s) ≤ activity s + 1)
    {s : State} (hs : activity s ≤ 1) : activity (carryOut code f s) ≤ 1 := by
  unfold carryOut
  split
  next => exact hs
  next c hc =>
    split
    · have hreleased := activity_released hc
      have hdone := hf c (released s)
      exact hdone.trans (by omega)
    · exact hs

theorem activity_commandedRequest {request : State → RequestResult × State}
    (h : ∀ s, Moves False False False s (request s).2) (c : TakenCommand) (s : State) :
    activity (commandedRequest request c s) ≤ activity s + 1 := by
  have hmoves := (unlessFaulted_moves (h s)).activity_le
  exact (activity_respond ..).le.trans (Nat.succ_le_succ hmoves)

theorem activity_refusedIfFaulted {f : TakenCommand → State → State} (hf : ∀ c s, activity (f c s) ≤ activity s + 1)
    (c : TakenCommand) (s : State) : activity (refusedIfFaulted f c s) ≤ activity s + 1 := by
  unfold refusedIfFaulted
  split
  · exact (activity_respond ..).le
  · exact hf c s

theorem activity_takeLoadMap (c : TakenCommand) (s : State) : activity (takeLoadMap c s) ≤ activity s + 1 := by
  unfold takeLoadMap
  dsimp only
  split
  · exact (activity_respond ..).le
  · exact activity_setProgress_le _ s

theorem activity_takeSaveProfile (c : TakenCommand) (s : State) : activity (takeSaveProfile c s) ≤ activity s + 1 := by
  unfold takeSaveProfile
  dsimp only
  split
  · exact (activity_respond ..).le
  · split
    · exact (activity_respond ..).le
    · exact activity_setProgress_le _ s

theorem activity_takeStatus (c : TakenCommand) (s : State) : activity (takeStatus c s) ≤ activity s + 1 := by
  refine (activity_respond ..).le.trans (Nat.succ_le_succ ?_)
  split <;> exact le_rfl

theorem activity_takeAck (c : TakenCommand) (s : State) : activity (takeAck c s) ≤ activity s + 1 :=
  (activity_respond ..).le

theorem activity_takeSetMask (c : TakenCommand) (s : State) : activity (takeSetMask c s) ≤ activity s + 1 :=
  (activity_respond ..).le

theorem activity_takeReset (c : TakenCommand) (s : State) : activity (takeReset c s) ≤ activity s + 1 := by
  unfold takeReset
  dsimp only
  split
  · rw [activity_reset]
    omega
  · exact activity_setProgress_le _ s

theorem activity_answerUnsupported {s : State} (hs : activity s ≤ 1) : activity (answerUnsupported s) ≤ 1 := by
  unfold answerUnsupported
  split
  next => exact hs
  next c hc =>
    split
    · exact hs
    · have hreleased := activity_released hc
      rw [activity_respond]
      exact hreleased.le.trans hs

/-- What is answered when a command in progress ends takes its place. -/
theorem activity_ended {s t : State} {p : Progress} (h : s.mailbox.inProgress = some p) (hs : activity s ≤ 1)
    (hl : t.list = s.list) (hm : t.mailbox = s.mailbox) (q : BitVec 32) (c : Byte) (r : ResultCode) (d : List Byte) :
    activity (respond q c r d (setProgress none t)) ≤ 1 := by
  have hsame : activity t = activity s := by rw [activity, jobCount, hl, hm, activity, jobCount]
  rw [activity_respond, activity_setProgress_none (p := p) (by rw [hm, h]), hsame]
  exact hs

theorem activity_programmingDone {s : State} (hs : activity s ≤ 1) : activity (programmingDone s) ≤ 1 := by
  unfold programmingDone
  split
  next h => refine activity_ended h hs ?_ ?_ _ _ _ _ <;> rfl
  next => exact hs

theorem activity_mapReadDone (bytes : Option (List Byte)) {s : State} (hs : activity s ≤ 1) :
    activity (mapReadDone bytes s) ≤ 1 := by
  unfold mapReadDone
  split
  next h =>
    split
    next => refine activity_ended h hs ?_ ?_ _ _ _ _ <;> rfl
    next =>
      split
      next => refine activity_ended h hs ?_ ?_ _ _ _ _ <;> rfl
      next =>
        unfold disposeMap
        dsimp only
        split
        next => refine activity_ended h hs ?_ ?_ _ _ _ _ <;> rfl
        next => refine activity_ended h hs ?_ ?_ _ _ _ _ <;> rfl
        next =>
          split
          next => refine activity_ended h hs ?_ ?_ _ _ _ _ <;> rfl
          next => refine activity_ended h hs ?_ ?_ _ _ _ _ <;> rfl
  next => exact hs

theorem activity_profileReadDone (bytes : Option (List Byte)) {s : State} (hs : activity s ≤ 1) :
    activity (profileReadDone bytes s) ≤ 1 := by
  unfold profileReadDone
  split
  next seq _ h =>
    split
    next => refine activity_ended h hs ?_ ?_ _ _ _ _ <;> rfl
    next img =>
      split
      next => refine activity_ended h hs ?_ ?_ _ _ _ _ <;> rfl
      next =>
        have hprogress := activity_mailbox { s.mailbox with inProgress := some (.saveProgramming seq img) } s
        have hbusy : mailboxBusy { s.mailbox with inProgress := some (.saveProgramming seq img) } =
            mailboxBusy s.mailbox := by
          simp [mailboxBusy, h]
        rw [hbusy] at hprogress
        exact (Nat.add_right_cancel hprogress).le.trans hs
  next => exact hs

/-- With a poll in progress, nothing else is. -/
theorem idle_of_poll {s : State} (hs : activity s ≤ 1) (hp : s.mailbox.poll ≠ .none) :
    jobCount isResponse s = 0 ∧ s.mailbox.taken = none ∧ s.mailbox.inProgress = none := by
  unfold activity mailboxBusy at hs
  rw [if_neg hp] at hs
  refine ⟨by omega, ?_, ?_⟩
  · cases h : s.mailbox.taken with
    | none => rfl
    | some c =>
      simp only [h, Option.isSome_some, if_true] at hs
      omega
  · cases h : s.mailbox.inProgress with
    | none => rfl
    | some p =>
      simp only [h, Option.isSome_some, if_true] at hs
      omega

/-- The end of a poll leaves room for one activity. -/
theorem activity_pollEnds {s t : State} (hs : activity s ≤ 1) (hp : s.mailbox.poll ≠ .none)
    (hj : t.list = s.list) (hpoll : t.mailbox.poll = .none) (ht : t.mailbox.taken = s.mailbox.taken)
    (hprogress : t.mailbox.inProgress = s.mailbox.inProgress) : activity t = 0 := by
  obtain ⟨hresponses, htaken, hnone⟩ := idle_of_poll hs hp
  unfold jobCount at hresponses
  simp [activity, mailboxBusy, jobCount, hj, hpoll, ht, hprogress, htaken, hnone, hresponses]

theorem activity_mailboxReadDone (bytes : Option (List Byte)) {s : State} (hs : activity s ≤ 1) :
    activity (mailboxReadDone bytes s) ≤ 1 := by
  unfold mailboxReadDone
  split
  next => exact hs
  next hp =>
    have hpoll : s.mailbox.poll ≠ .none := by simp [hp]
    unfold sequenceReadDone
    split
    next => refine (activity_pollEnds hs hpoll ?_ ?_ ?_ ?_).le.trans (Nat.zero_le 1) <;> rfl
    next bs =>
      dsimp only
      split
      next =>
        rw [becomeReady, activity_respond]
        refine Nat.succ_le_succ (activity_pollEnds hs hpoll ?_ ?_ ?_ ?_).le <;> rfl
      next =>
        split
        · refine (activity_pollEnds hs hpoll ?_ ?_ ?_ ?_).le.trans (Nat.zero_le 1) <;> rfl
        · have hmove := activity_mailbox { s.mailbox with poll := .command } s
          have hbusy : mailboxBusy { s.mailbox with poll := .command } = mailboxBusy s.mailbox := by
            simp [mailboxBusy, hp]
          rw [hbusy] at hmove
          exact (Nat.add_right_cancel hmove).le.trans hs
  next hp =>
    have hpoll : s.mailbox.poll ≠ .none := by simp [hp]
    unfold commandReadDone
    split
    next => refine (activity_pollEnds hs hpoll ?_ ?_ ?_ ?_).le.trans (Nat.zero_le 1) <;> rfl
    next bs =>
      dsimp only
      split
      · refine (activity_pollEnds hs hpoll ?_ ?_ ?_ ?_).le.trans (Nat.zero_le 1) <;> rfl
      · obtain ⟨hresponses, htaken, hnone⟩ := idle_of_poll hs hpoll
        unfold jobCount at hresponses
        simp [activity, mailboxBusy, jobCount, hnone, hresponses]

theorem activity_reservedCompletion (x : Completion) {s : State} (hs : activity s ≤ 1) :
    activity (reservedCompletion x s) ≤ 1 := by
  unfold reservedCompletion
  dsimp only
  split
  next => exact hs
  next r _ =>
    split
    · exact hs
    · cases r.unit with
      | ring => exact ((ringReadDone_moves _ _).moves (web := False) (stamps := False)).activity_le.trans hs
      | mailbox => exact activity_mailboxReadDone _ hs
      | maps => exact activity_mapReadDone _ hs
      | profile => exact activity_profileReadDone _ hs

theorem activity_pollTimerExpires {s : State} (hs : activity s ≤ 1) : activity (pollTimerExpires s) ≤ 1 := by
  unfold pollTimerExpires
  dsimp only
  split
  next h =>
    simp only [pollMayBegin, pollingSuspended, Bool.and_eq_true, Bool.not_eq_true', Bool.or_eq_false_iff,
      Option.isSome_eq_false_iff, Option.isNone_iff_eq_none] at h
    obtain ⟨⟨⟨hnoResponse, hnone⟩, -⟩, htaken⟩ := h
    have hresponses : s.list.jobs.countP isResponse = 0 :=
      List.countP_eq_zero.2 (List.any_eq_false.1 hnoResponse)
    have hmailbox : s.mailbox.taken = none ∧ s.mailbox.inProgress = none := ⟨htaken, hnone⟩
    simp only [activity, mailboxBusy, jobCount, beginPoll, requestRead, setPoll, setClock, hresponses, hmailbox,
      Option.isSome_none]
    decide
  next => exact hs

theorem activity_grantPlace {s : State} (hs : activity s ≤ 1) (hfree : s.outlet.length < 64) :
    activity (grantPlace s) ≤ 1 := by
  unfold grantPlace
  split
  next r _ =>
    unfold grantRead
    split <;> exact hs
  next =>
    split
    next t ht => exact (grantList_moves (web := False) (stamps := False) hfree ht).activity_le.trans hs
    next =>
      cases ht : grantInlet s with
      | none => exact hs
      | some t => exact (grantInlet_moves (web := False) hfree ht).activity_le.trans hs

theorem activity_observeJobLine (level : Bool) {s : State} (hs : activity s ≤ 1) :
    activity (observeJobLine level s) ≤ 1 := by
  unfold observeJobLine
  dsimp only
  split
  next => exact hs
  next =>
    split
    · exact hs
    · split
      · unfold risingEdge
        split
        next => exact hs
        next => exact (lineRequest_moves (web := False) (stamps := False) (requestResume_moves _)).activity_le.trans hs
        next => exact (lineRequest_moves (web := False) (stamps := False) (requestArm_moves _)).activity_le.trans hs
        next => exact hs
        next =>
          split
          · exact (activity_reset _ _).le.trans (Nat.zero_le 1)
          · exact hs
      · unfold fallingEdge
        split
        next => exact hs
        next => exact (lineRequest_moves (web := False) (stamps := False) (requestHold_moves _)).activity_le.trans hs
        next => exact (lineRequest_moves (web := False) (stamps := False) (requestDisarm_moves _)).activity_le.trans hs
        next => exact (lineRequest_moves (web := False) (stamps := False) (requestAbort_moves _)).activity_le.trans hs
        next => exact hs

/-- A property that a step's effect keeps, the step keeps. -/
theorem unlessReset_keeps {P : State → Prop} {f : State → State} {s t : State} (hs : P s) (hf : P s → P (f s))
    (ht : unlessReset f s = .next t) : P t := by
  unfold unlessReset at ht
  split at ht <;> cases ht
  · exact hs
  · exact hf hs

theorem exec_activity {c : Instr} {s t : State} (hs : activity s ≤ 1) (h : exec c s = .next t) : activity t ≤ 1 := by
  have hkeep {f : State → State} (hf : activity s ≤ 1 → activity (f s) ≤ 1) (ht : unlessReset f s = .next t) :
      activity t ≤ 1 := unlessReset_keeps (P := fun s => activity s ≤ 1) hs hf ht
  have hreset (cause : ResetCause) (u : State) : activity (resetBridge cause u) ≤ 1 :=
    (activity_reset cause u).le.trans (Nat.zero_le 1)
  cases c with
  | inletTransactionTaken x =>
    cases h
    exact (activity_port (settleInlet_frame _)).le.trans hs
  | outletPlaceGrant =>
    refine hkeep (fun hs => ?_) h
    split
    next hfree => exact activity_grantPlace hs hfree.1
    next => exact hs
  | outletTransactionLeaves =>
    refine hkeep (fun hs => ?_) h
    unfold leaveOutlet
    split
    next => exact hs
    next w _ _ => cases w <;> exact hs
  | resetDrainEnd =>
    refine hkeep (fun hs => ?_) h
    split
    · exact hreset _ s
    · exact hs
  | readCompletion x =>
    cases h
    split
    · exact hs
    · exact activity_reservedCompletion x hs
  | tagAssigned =>
    refine hkeep (fun hs => ?_) h
    have hkept : (assignTag s).list = s.list ∧ (assignTag s).mailbox = s.mailbox := by
      unfold assignTag
      split
      next => exact ⟨rfl, rfl⟩
      next =>
        have hstate := freeOrder_state (untaggedUnits s) s
        dsimp only
        split
        next => exact ⟨rfl, rfl⟩
        next =>
          rw [hstate]
          exact ⟨rfl, rfl⟩
    exact (activity_le_of (by rw [jobCount, hkept.1, jobCount]) hkept.2).trans hs
  | encoderTransition p n =>
    exact hkeep (f := fun s => observePair p (setClock (s.clock + n) s))
      (observePair_moves (stamps := False) p _ s).activity_le.trans h
  | strobePulseEnd => exact hkeep ((endPulse_quiet s).moves (web := False) (stamps := False)).activity_le.trans h
  | markEdge level =>
    exact hkeep (observeMark_moves (web := False) (stamps := False) level s).activity_le.trans h
  | openingOperationBegin =>
    exact hkeep ((beginOpening_moves s).moves (web := False) (stamps := False)).activity_le.trans h
  | pollTimerExpiry => exact hkeep activity_pollTimerExpires h
  | arm => exact hkeep (activity_carryOut (activity_commandedRequest requestArm_moves)) h
  | disarm => exact hkeep (activity_carryOut (activity_commandedRequest requestDisarm_moves)) h
  | abort => exact hkeep (activity_carryOut (activity_commandedRequest requestAbort_moves)) h
  | hold => exact hkeep (activity_carryOut (activity_commandedRequest requestHold_moves)) h
  | resume => exact hkeep (activity_carryOut (activity_commandedRequest requestResume_moves)) h
  | loadMap => exact hkeep (activity_carryOut (activity_refusedIfFaulted activity_takeLoadMap)) h
  | status => exact hkeep (activity_carryOut activity_takeStatus) h
  | ack => exact hkeep (activity_carryOut (activity_refusedIfFaulted activity_takeAck)) h
  | setMask => exact hkeep (activity_carryOut (activity_refusedIfFaulted activity_takeSetMask)) h
  | readProfile => exact hkeep (activity_carryOut (activity_refusedIfFaulted fun _ _ => (activity_respond ..).le)) h
  | saveProfile => exact hkeep (activity_carryOut (activity_refusedIfFaulted activity_takeSaveProfile)) h
  | profileProgrammingDone => exact hkeep activity_programmingDone h
  | reset => exact hkeep (activity_carryOut activity_takeReset) h
  | unsupportedCommand => exact hkeep activity_answerUnsupported h
  | jobLineEdge level => exact hkeep (activity_observeJobLine level) h
  | powerUp =>
    cases h
    exact hreset _ s
  | resetLineAssert =>
    exact hkeep (f := fun s => { s with resetLine := true, strobe := { s.strobe with lineUntil := none } }) (fun hs => hs) h
  | resetLineRelease =>
    cases h
    split
    · exact hreset _ _
    · exact hs

/-- Settles O55: a poll gives way to the command it takes, that to its response or to its progress, and that to its
response. -/
theorem oneMailboxActivityAtATime : Obligations.OneMailboxActivityAtATime := by
  intro s t hs h
  refine step_keeps (P := OneAtATime) (fun _ _ hs ⟨_, ht⟩ => ht ▸ hs) (fun c s t hs hc => ?_) hs h
  exact (oneAtATime_iff t).2 (exec_activity ((oneAtATime_iff s).1 hs) hc)

/-! ### Tags (R10, R16) -/

/-- The tags held back, and those of the reads. -/
def tagList (s : State) : List Tag := s.heldTags ++ s.reads.filterMap fun r => stageTag r.stage

/-- Reserved tags, each once. -/
def TagsOnce (ts : List Tag) : Prop := ts.Nodup ∧ ∀ t ∈ ts, 240 ≤ t.toNat

theorem tagsApart_iff (s : State) : TagsApart s ↔ TagsOnce (tagList s) := by
  unfold TagsApart TagsOnce tagList
  simp only [List.mem_append, List.mem_filterMap, or_imp, forall_and, forall_exists_index, and_imp]
  refine and_congr_right fun _ => and_congr_right fun _ => ?_
  exact ⟨fun h t r hr ht => h r hr t ht, fun h r hr t ht => h t r hr ht⟩

theorem TagsOnce.subperm {ts us : List Tag} (h : TagsOnce ts) (hsub : us.Subperm ts) : TagsOnce us := by
  obtain ⟨vs, hperm, hvs⟩ := hsub
  refine ⟨(hperm.nodup_iff).1 (h.1.sublist hvs), fun t ht => h.2 t (hvs.subset (hperm.mem_iff.2 ht))⟩

theorem tagsApart_of_subperm {s t : State} (hs : TagsApart s) (h : (tagList t).Subperm (tagList s)) : TagsApart t :=
  (tagsApart_iff t).2 (((tagsApart_iff s).1 hs).subperm h)

theorem tagsApart_of_same {s t : State} (hs : TagsApart s) (hr : t.reads = s.reads) (hh : t.heldTags = s.heldTags) :
    TagsApart t :=
  tagsApart_of_subperm hs (by rw [tagList, hr, hh, tagList])

/-- A free tag given to a read. -/
theorem tagsApart_given {s t : State} {g : Tag} (hs : TagsApart s) (hg : FreeTag s g)
    (h : (tagList t).Perm (g :: tagList s)) : TagsApart t := by
  obtain ⟨hnodup, hreserved⟩ := (tagsApart_iff s).1 hs
  obtain ⟨hg240, hheld, hreads⟩ := hg
  have hnew : g ∉ tagList s := by
    simp only [tagList, List.mem_append, List.mem_filterMap, not_or, not_exists, not_and]
    exact ⟨hheld, hreads⟩
  refine (tagsApart_iff t).2 ⟨h.nodup_iff.2 (List.nodup_cons.2 ⟨hnew, hnodup⟩), fun u hu => ?_⟩
  rcases List.mem_cons.1 (h.mem_iff.1 hu) with rfl | hu
  · exact hg240
  · exact hreserved u hu

theorem tagsApart_requestRead (u : ReadUnit) (a n : Nat) {s : State} (hs : TagsApart s) :
    TagsApart (requestRead u a n s) := by
  have happend (st : ReadStage) :
      tagList { s with reads := s.reads ++ [{ unit := u, addr := a, len := n, stage := st }] } =
        tagList s ++ (stageTag st).toList := by
    simp only [tagList, List.filterMap_append, List.append_assoc]
    cases st <;> rfl
  unfold requestRead
  dsimp only
  split
  · exact tagsApart_of_subperm hs (by rw [happend, stageTag, Option.toList_none, List.append_nil])
  · split
    next g hg => exact tagsApart_given hs (lowestFreeTag_some hg) (by rw [happend]; exact List.perm_append_singleton g _)
    next => exact tagsApart_of_subperm hs (by rw [happend, stageTag, Option.toList_none, List.append_nil])

theorem RunMove.tagsApart {s t : State} (h : RunMove s t) (hs : TagsApart s) : TagsApart t := by
  cases h with
  | line h => exact tagsApart_of_same hs (by rw [h.frame]) (by rw [h.frame])
  | close b _ _ _ => exact tagsApart_of_same hs (by rw [queueRecord_eq]; rfl) (by rw [queueRecord_eq]; rfl)
  | free _ _ => exact tagsApart_of_same hs (by simp) (by simp)
  | disarm _ _ => exact tagsApart_of_same hs (by rw [enterDisarmed_eq]) (by rw [enterDisarmed_eq])
  | abort _ => exact tagsApart_of_same hs (by rw [abortTable_eq]) (by rw [abortTable_eq])
  | cutOver => exact tagsApart_of_same hs (by simp) (by simp)
  | openRepeat row k m _ => exact tagsApart_of_same hs (by rw [openRepeat_eq]) (by rw [openRepeat_eq])
  | askReturnCount _ _ _ => exact tagsApart_requestRead _ _ _ (s := setOpening _ s) hs
  | takeDescriptor m _ =>
    unfold Machine.takeDescriptor
    exact tagsApart_requestRead _ _ _ (tagsApart_of_same hs rfl rfl)
  | drop _ => exact tagsApart_of_same hs (by simp [dropState]) (by simp [dropState])
  | faultDrop _ _ => exact tagsApart_of_same hs (by rw [faultDropped_eq]) (by rw [faultDropped_eq])
  | opened b _ => exact tagsApart_of_same hs (by simp) (by simp)
  | _ => exact hs

theorem Move.tagsApart {web stamps : Prop} {s t : State} (hs : TagsApart s) (h : Move web stamps False s t) :
    TagsApart t := by
  cases h with
  | run h => exact h.tagsApart hs
  | quiet h =>
    obtain ⟨hreads, hheld, -⟩ := h.same.resolve_left id
    exact tagsApart_of_same hs hreads hheld
  | headLeaves => exact tagsApart_of_same hs (by simp) (by simp)
  | respond h => exact h.elim
  | reset h => exact h.elim
  | arm => exact tagsApart_of_same hs (by rw [armBlocks_eq]) (by rw [armBlocks_eq])
  | _ => exact hs

theorem Moves.tagsApart {web stamps : Prop} {s t : State} (h : Moves web stamps False s t) (hs : TagsApart s) :
    TagsApart t :=
  h.keep (fun _ _ => Move.tagsApart) hs

/-! ### Tags, command by command -/

theorem tagsApart_respond (q : BitVec 32) (c : Byte) (r : ResultCode) (d : List Byte) {s : State} (hs : TagsApart s) :
    TagsApart (respond q c r d s) :=
  tagsApart_of_same hs (by simp) (by simp)

/-- The tags of the reads, one of which has moved on with its tag. -/
theorem filterMap_replaceFirst_same {p : BridgeRead → Bool} {f : BridgeRead → BridgeRead}
    (hf : ∀ r, p r = true → stageTag (f r).stage = stageTag r.stage) (rs : List BridgeRead) :
    (replaceFirst p f rs).filterMap (fun r => stageTag r.stage) = rs.filterMap fun r => stageTag r.stage := by
  induction rs with
  | nil => rfl
  | cons r rs ih =>
    unfold replaceFirst
    split
    next hp => rw [List.filterMap_cons, List.filterMap_cons, hf r hp]
    next => rw [List.filterMap_cons, List.filterMap_cons, ih]

/-- The tags of the reads, the first of which that waits for a tag has been given one. -/
theorem filterMap_replaceFirst_given {p : BridgeRead → Bool} {f : BridgeRead → BridgeRead} {g : Tag}
    (hp : ∀ r, p r = true → stageTag r.stage = none) (hf : ∀ r, stageTag (f r).stage = some g) (rs : List BridgeRead) :
    ((replaceFirst p f rs).filterMap fun r => stageTag r.stage).Subperm
      (g :: rs.filterMap fun r => stageTag r.stage) := by
  induction rs with
  | nil => exact (List.nil_sublist _).subperm
  | cons r rs ih =>
    unfold replaceFirst
    split
    next h =>
      rw [List.filterMap_cons, List.filterMap_cons, hf r, hp r h]
    next =>
      rw [List.filterMap_cons, List.filterMap_cons]
      cases stageTag r.stage with
      | none => exact ih
      | some u => exact ((List.subperm_cons u).2 ih).trans (List.Perm.swap g u _).subperm

theorem removeFirst_sublist {α : Type} (p : α → Bool) (xs : List α) : (removeFirst p xs).Sublist xs := by
  induction xs with
  | nil => exact .slnil
  | cons x xs ih =>
    unfold removeFirst
    split
    · exact List.sublist_cons_self x xs
    · exact ih.cons_cons x

theorem tagsApart_fewerReads {s : State} {rs : List BridgeRead} (hs : TagsApart s) (h : rs.Sublist s.reads) :
    TagsApart { s with reads := rs } :=
  tagsApart_of_subperm hs ((List.Sublist.append_left (h.filterMap _) s.heldTags).subperm)

theorem tagsApart_movedOn {s : State} {p : BridgeRead → Bool} {f : BridgeRead → BridgeRead} (hs : TagsApart s)
    (hf : ∀ r, p r = true → stageTag (f r).stage = stageTag r.stage) :
    TagsApart { s with reads := replaceFirst p f s.reads } :=
  tagsApart_of_subperm hs (by rw [tagList, filterMap_replaceFirst_same hf, tagList])

theorem tagsApart_grantRead (r : BridgeRead) {s : State} (hs : TagsApart s) : TagsApart (grantRead r s) := by
  unfold grantRead
  split
  next t _ =>
    refine tagsApart_of_same (tagsApart_movedOn hs (p := fun x => decide (x.stage = .waiting t))
      (f := fun x => { x with stage := .queued t }) fun x hx => ?_) rfl rfl
    rw [of_decide_eq_true hx]
    rfl
  next => exact hs

theorem tagsApart_leaveOutlet {s : State} (hs : TagsApart s) : TagsApart (leaveOutlet s) := by
  unfold leaveOutlet
  split
  next => exact hs
  next w rest _ =>
    cases w with
    | write a p => exact hs
    | read a n tag =>
      refine tagsApart_of_same (tagsApart_movedOn hs (p := fun x => decide (x.stage = .queued tag))
        (f := fun x => { x with stage := .left tag }) fun x hx => ?_) rfl rfl
      rw [of_decide_eq_true hx]
      rfl

theorem tagsApart_assignTag {s : State} (hs : TagsApart s) : TagsApart (assignTag s) := by
  unfold assignTag
  split
  next => exact hs
  next g hg =>
    have hstate := freeOrder_state (untaggedUnits s) s
    dsimp only
    split
    next => exact hs
    next u _ _ =>
      have hfree := lowestFreeTag_some hg
      obtain ⟨hnodup, hreserved⟩ := (tagsApart_iff s).1 hs
      have hgiven : TagsOnce (g :: tagList s) := by
        obtain ⟨hg240, hheld, hreads⟩ := hfree
        refine ⟨List.nodup_cons.2 ⟨?_, hnodup⟩, List.forall_mem_cons.2 ⟨hg240, hreserved⟩⟩
        simp only [tagList, List.mem_append, List.mem_filterMap, not_or, not_exists, not_and]
        exact ⟨hheld, hreads⟩
      refine (tagsApart_iff _).2 (hgiven.subperm ?_)
      rw [hstate]
      have hsub := filterMap_replaceFirst_given (p := fun r => decide (r.unit = u) && decide (r.stage = .untagged))
        (f := fun r => { r with stage := .waiting g }) (g := g) (fun r hr => by simp at hr; rw [hr.2]; rfl) (fun _ => rfl) s.reads
      exact ((List.subperm_append_left s.heldTags).2 hsub).trans List.perm_middle.subperm

theorem tagsApart_mailboxReadDone (bytes : Option (List Byte)) {s : State} (hs : TagsApart s) :
    TagsApart (mailboxReadDone bytes s) := by
  unfold mailboxReadDone
  split
  next => exact hs
  next =>
    unfold sequenceReadDone
    split
    next => exact hs
    next =>
      dsimp only
      split
      next => exact tagsApart_respond _ _ _ _ (tagsApart_of_same hs rfl rfl)
      next =>
        split
        · exact hs
        · exact tagsApart_requestRead _ _ _ (tagsApart_of_same hs rfl rfl)
  next =>
    unfold commandReadDone
    split
    next => exact hs
    next =>
      dsimp only
      split <;> exact hs

theorem tagsApart_mapReadDone (bytes : Option (List Byte)) {s : State} (hs : TagsApart s) :
    TagsApart (mapReadDone bytes s) := by
  have hended {q : BitVec 32} {r : ResultCode} {d : List Byte} {t : State} (ht : TagsApart t) :
      TagsApart (endLoad q r d t) := tagsApart_respond _ _ _ _ (tagsApart_of_same ht rfl rfl)
  unfold mapReadDone
  split
  next =>
    split
    next => exact hended hs
    next =>
      split
      next => exact hended hs
      next =>
        unfold disposeMap
        dsimp only
        split
        next => exact hended hs
        next => exact hended hs
        next => split <;> exact hended hs
  next => exact hs

theorem tagsApart_profileReadDone (bytes : Option (List Byte)) {s : State} (hs : TagsApart s) :
    TagsApart (profileReadDone bytes s) := by
  have hended {q : BitVec 32} {r : ResultCode} {t : State} (ht : TagsApart t) : TagsApart (endSave q r t) :=
    tagsApart_respond _ _ _ _ (tagsApart_of_same ht rfl rfl)
  unfold profileReadDone
  split
  next =>
    split
    next => exact hended hs
    next =>
      split
      next => exact hended hs
      next => exact hs
  next => exact hs

theorem tagsApart_reservedCompletion (x : Completion) {s : State} (hs : TagsApart s) :
    TagsApart (reservedCompletion x s) := by
  unfold reservedCompletion
  dsimp only
  split
  next =>
    refine tagsApart_of_subperm hs (List.Sublist.subperm ?_)
    exact List.Sublist.append_right List.filter_sublist _
  next r _ =>
    have hends := tagsApart_fewerReads hs (removeFirst_sublist (fun r => decide (stageTag r.stage = some x.tag)) s.reads)
    split
    · exact hends
    · cases r.unit with
      | ring => exact Moves.tagsApart (web := False) (stamps := False) (ringReadDone_moves _ _).moves hends
      | mailbox => exact tagsApart_mailboxReadDone _ hends
      | maps => exact tagsApart_mapReadDone _ hends
      | profile => exact tagsApart_profileReadDone _ hends

/-- A reset holds back the tags of the reads that had left, and those it held back before. -/
theorem tagsApart_resetBridge (cause : ResetCause) {s : State} (hs : TagsApart s) : TagsApart (resetBridge cause s) := by
  have habandon : (abandonProgramming s).reads = s.reads ∧ (abandonProgramming s).heldTags = s.heldTags := by
    unfold abandonProgramming
    split
    · dsimp only
      rw [takeChoice_state]
      exact ⟨rfl, rfl⟩
    · exact ⟨rfl, rfl⟩
  have hleft (rs : List BridgeRead) :
      (rs.filterMap fun r => match r.stage with | .left t => some t | _ => none).Sublist
        (rs.filterMap fun r => stageTag r.stage) := by
    induction rs with
    | nil => exact .slnil
    | cons r rs ih =>
      rw [List.filterMap_cons, List.filterMap_cons]
      cases r.stage with
      | untagged => exact ih
      | waiting t => exact ih.cons t
      | queued t => exact ih.cons t
      | left t => exact ih.cons_cons t
  have hperformed : TagsApart (performReset cause s) := by
    refine tagsApart_of_subperm hs (List.Sublist.subperm ?_)
    rw [tagList, tagList]
    have hheld : (performReset cause s).heldTags = tagsHeldBack s := by
      rw [tagsHeldBack, ← habandon.1, ← habandon.2]
      rfl
    have hreads : (performReset cause s).reads = [] := rfl
    rw [hheld, hreads, List.filterMap_nil, List.append_nil]
    exact List.Sublist.append_left (hleft s.reads) s.heldTags
  exact tagsApart_of_same hperformed (by rw [resetBridge, (settleInlet_frame _).kept])
    (by rw [resetBridge, (settleInlet_frame _).kept])

theorem tagsApart_grantPlace {s : State} (hs : TagsApart s) (hfree : s.outlet.length < 64) :
    TagsApart (grantPlace s) := by
  unfold grantPlace
  split
  next r _ => exact tagsApart_grantRead r hs
  next =>
    split
    next t ht => exact Moves.tagsApart (grantList_moves (web := False) (stamps := False) hfree ht) hs
    next =>
      cases ht : grantInlet s with
      | none => exact hs
      | some t => exact Moves.tagsApart (grantInlet_moves (web := False) hfree ht) hs

theorem tagsApart_observeJobLine (level : Bool) {s : State} (hs : TagsApart s) :
    TagsApart (observeJobLine level s) := by
  unfold observeJobLine
  dsimp only
  split
  next => exact hs
  next =>
    split
    · exact hs
    · split
      · unfold risingEdge
        split
        next => exact hs
        next => exact Moves.tagsApart (lineRequest_moves (web := False) (stamps := False) (requestResume_moves _)) hs
        next => exact Moves.tagsApart (lineRequest_moves (web := False) (stamps := False) (requestArm_moves _)) hs
        next => exact hs
        next =>
          split
          · exact tagsApart_resetBridge _ hs
          · exact hs
      · unfold fallingEdge
        split
        next => exact hs
        next => exact Moves.tagsApart (lineRequest_moves (web := False) (stamps := False) (requestHold_moves _)) hs
        next => exact Moves.tagsApart (lineRequest_moves (web := False) (stamps := False) (requestDisarm_moves _)) hs
        next => exact Moves.tagsApart (lineRequest_moves (web := False) (stamps := False) (requestAbort_moves _)) hs
        next => exact hs

theorem tagsApart_carryOut {code : Byte} {f : TakenCommand → State → State}
    (hf : ∀ c s, TagsApart s → TagsApart (f c s)) {s : State} (hs : TagsApart s) : TagsApart (carryOut code f s) := by
  unfold carryOut
  split
  next => exact hs
  next c _ =>
    split
    · exact hf c (released s) hs
    · exact hs

theorem tagsApart_commandedRequest {request : State → RequestResult × State}
    (h : ∀ s, Moves False False False s (request s).2) (c : TakenCommand) (s : State) (hs : TagsApart s) :
    TagsApart (commandedRequest request c s) :=
  tagsApart_respond _ _ _ _ (Moves.tagsApart (unlessFaulted_moves (h s)) hs)

theorem tagsApart_refusedIfFaulted {f : TakenCommand → State → State} (hf : ∀ c s, TagsApart s → TagsApart (f c s))
    (c : TakenCommand) (s : State) (hs : TagsApart s) : TagsApart (refusedIfFaulted f c s) := by
  unfold refusedIfFaulted
  split
  · exact tagsApart_respond _ _ _ _ hs
  · exact hf c s hs

theorem tagsApart_takeLoadMap (c : TakenCommand) (s : State) (hs : TagsApart s) : TagsApart (takeLoadMap c s) := by
  unfold takeLoadMap
  dsimp only
  split
  · exact tagsApart_respond _ _ _ _ hs
  · exact tagsApart_requestRead _ _ _ (tagsApart_of_same hs rfl rfl)

theorem tagsApart_takeSaveProfile (c : TakenCommand) (s : State) (hs : TagsApart s) :
    TagsApart (takeSaveProfile c s) := by
  unfold takeSaveProfile
  dsimp only
  split
  · exact tagsApart_respond _ _ _ _ hs
  · split
    · exact tagsApart_respond _ _ _ _ hs
    · exact tagsApart_requestRead _ _ _ (tagsApart_of_same hs rfl rfl)

theorem tagsApart_takeStatus (c : TakenCommand) (s : State) (hs : TagsApart s) : TagsApart (takeStatus c s) := by
  refine tagsApart_respond _ _ _ _ ?_
  split <;> exact hs

theorem tagsApart_takeAck (c : TakenCommand) (s : State) (hs : TagsApart s) : TagsApart (takeAck c s) :=
  tagsApart_respond _ _ _ _ (tagsApart_of_same hs rfl rfl)

theorem tagsApart_takeSetMask (c : TakenCommand) (s : State) (hs : TagsApart s) : TagsApart (takeSetMask c s) :=
  tagsApart_respond _ _ _ _ (tagsApart_of_same hs rfl rfl)

theorem tagsApart_takeReset (c : TakenCommand) (s : State) (hs : TagsApart s) : TagsApart (takeReset c s) := by
  unfold takeReset
  dsimp only
  split
  · exact tagsApart_resetBridge _ (tagsApart_of_same hs rfl rfl)
  · exact hs

theorem tagsApart_pollTimerExpires {s : State} (hs : TagsApart s) : TagsApart (pollTimerExpires s) := by
  unfold pollTimerExpires
  dsimp only
  split
  · exact tagsApart_requestRead _ _ _ (tagsApart_of_same hs rfl rfl)
  · exact hs

theorem tagsApart_programmingDone {s : State} (hs : TagsApart s) : TagsApart (programmingDone s) := by
  unfold programmingDone
  split
  next => exact tagsApart_respond _ _ _ _ (tagsApart_of_same hs rfl rfl)
  next => exact hs

theorem tagsApart_answerUnsupported {s : State} (hs : TagsApart s) : TagsApart (answerUnsupported s) := by
  unfold answerUnsupported
  split
  next => exact hs
  next =>
    split
    · exact hs
    · exact tagsApart_respond _ _ _ _ (tagsApart_of_same hs rfl rfl)

theorem exec_tagsApart {c : Instr} {s t : State} (hs : TagsApart s) (h : exec c s = .next t) : TagsApart t := by
  have hkeep {f : State → State} (hf : TagsApart s → TagsApart (f s)) (ht : unlessReset f s = .next t) :
      TagsApart t := unlessReset_keeps hs hf ht
  cases c with
  | inletTransactionTaken x =>
    cases h
    exact tagsApart_of_same hs (by rw [(settleInlet_frame _).kept]) (by rw [(settleInlet_frame _).kept])
  | outletPlaceGrant =>
    refine hkeep (fun hs => ?_) h
    split
    next hfree => exact tagsApart_grantPlace hs hfree.1
    next => exact hs
  | outletTransactionLeaves => exact hkeep tagsApart_leaveOutlet h
  | resetDrainEnd =>
    refine hkeep (fun hs => ?_) h
    split
    · exact tagsApart_resetBridge _ hs
    · exact hs
  | readCompletion x =>
    cases h
    split
    · exact hs
    · exact tagsApart_reservedCompletion x hs
  | tagAssigned => exact hkeep tagsApart_assignTag h
  | encoderTransition p n =>
    exact hkeep (f := fun s => observePair p (setClock (s.clock + n) s))
      (Moves.tagsApart (observePair_moves (stamps := False) p _ s)) h
  | strobePulseEnd => exact hkeep (Moves.tagsApart (web := False) (stamps := False) (endPulse_quiet s).moves) h
  | markEdge level =>
    exact hkeep (Moves.tagsApart (observeMark_moves (web := False) (stamps := False) level s)) h
  | openingOperationBegin =>
    exact hkeep (Moves.tagsApart (web := False) (stamps := False) (beginOpening_moves s).moves) h
  | pollTimerExpiry => exact hkeep tagsApart_pollTimerExpires h
  | arm => exact hkeep (tagsApart_carryOut (tagsApart_commandedRequest requestArm_moves)) h
  | disarm => exact hkeep (tagsApart_carryOut (tagsApart_commandedRequest requestDisarm_moves)) h
  | abort => exact hkeep (tagsApart_carryOut (tagsApart_commandedRequest requestAbort_moves)) h
  | hold => exact hkeep (tagsApart_carryOut (tagsApart_commandedRequest requestHold_moves)) h
  | resume => exact hkeep (tagsApart_carryOut (tagsApart_commandedRequest requestResume_moves)) h
  | loadMap => exact hkeep (tagsApart_carryOut (tagsApart_refusedIfFaulted tagsApart_takeLoadMap)) h
  | status => exact hkeep (tagsApart_carryOut tagsApart_takeStatus) h
  | ack => exact hkeep (tagsApart_carryOut (tagsApart_refusedIfFaulted tagsApart_takeAck)) h
  | setMask => exact hkeep (tagsApart_carryOut (tagsApart_refusedIfFaulted tagsApart_takeSetMask)) h
  | readProfile => exact hkeep (tagsApart_carryOut (tagsApart_refusedIfFaulted fun _ _ hs => tagsApart_respond _ _ _ _ hs)) h
  | saveProfile => exact hkeep (tagsApart_carryOut (tagsApart_refusedIfFaulted tagsApart_takeSaveProfile)) h
  | profileProgrammingDone => exact hkeep tagsApart_programmingDone h
  | reset => exact hkeep (tagsApart_carryOut tagsApart_takeReset) h
  | unsupportedCommand => exact hkeep tagsApart_answerUnsupported h
  | jobLineEdge level => exact hkeep (tagsApart_observeJobLine level) h
  | powerUp =>
    cases h
    exact tagsApart_resetBridge _ hs
  | resetLineAssert =>
    exact hkeep (f := fun s => { s with resetLine := true, strobe := { s.strobe with lineUntil := none } }) (fun hs => hs) h
  | resetLineRelease =>
    cases h
    split
    · exact tagsApart_resetBridge _ (tagsApart_of_same hs rfl rfl)
    · exact hs

/-- Settles O58: a read takes a tag that is free, keeps it as it moves on, and a reset holds back no tag but those of
reads that had left. -/
theorem tagsStayApart : Obligations.TagsStayApart := by
  intro s t hs h
  exact step_keeps (fun _ _ hs ⟨_, ht⟩ => ht ▸ hs) (fun _ _ _ hs => exec_tagsApart hs) hs h

end Sys2Proof.RunProofs
end

section
/-! SUPPORT and PROOFS. The inline path (chapter 1) and the internal write list (chapter 7): what the port takes, whom a
place goes to, and what each kind of job writes. -/

namespace Sys2Proof.PathProofs

open Sys2Proof Sys2Proof.Machine Sys2Proof.AcquisitionProofs Sys2Proof.RunProofs

/-! ### Steps of an awake bridge -/

theorem unlessReset_of_awake {s : State} (h : Awake s) (f : State → State) : unlessReset f s = .next (f s) :=
  congrArg Host.Outcome.next (if_neg (by rw [show s.resetLine = false from h]; exact Bool.false_ne_true))

theorem unlessReset_of_held {s : State} (h : s.resetLine = true) (f : State → State) : unlessReset f s = .next s :=
  congrArg Host.Outcome.next (if_pos h)

theorem causeSet_repeatDone : causeSet .repeatDone = 1 := by decide
theorem causeSet_commandDone : causeSet .commandDone = 2048 := by decide

/-! ### The port (R2, R13) -/

/-- The port cannot hand the decoder a transaction. -/
def Stalled (s : State) : Prop := s.decode ≠ [] ∨ ¬Awake s ∨ s.mailbox.inProgress = some .reset

theorem stalled_iff (s : State) : Stalled s ↔ ¬(s.decode = [] ∧ portOpen s = true) := by
  simp only [Stalled, Awake, portOpen, draining, Bool.and_eq_true, Bool.not_eq_true', decide_eq_false_iff_not, not_and_or,
    Bool.not_eq_false, not_not, ne_eq]

theorem takeHeld_of_stalled {s : State} (h : Stalled s) (xs : List InletTxn) :
    takeHeld xs s = { s with inletHeld := xs } := by
  cases xs with
  | nil => rfl
  | cons x xs => exact if_neg ((stalled_iff s).1 h)

theorem takeHeld_of_open {s : State} (h : ¬Stalled s) (x : InletTxn) (xs : List InletTxn) :
    takeHeld (x :: xs) s = takeHeld xs (takeTransaction x s) :=
  if_pos (not_not.1 fun hn => h ((stalled_iff s).2 hn))

theorem portReady_open {s : State} (h : PortReady s) (xs : List InletTxn) : ¬Stalled { s with inletHeld := xs } := by
  obtain ⟨hawake, hdrain, hdecode, -⟩ := h
  rintro (h | h | h)
  · exact h hdecode
  · exact h hawake
  · exact hdrain h

/-- A free port hands the decoder the transaction it is offered. -/
theorem exec_inlet_of_ready {s : State} (h : PortReady s) (x : InletTxn) :
    exec (.inletTransactionTaken x) s =
      .next { takeTransaction x { s with inletHeld := [x] } with inletHeld := [] } := by
  have hheld : s.inletHeld = [] := h.2.2.2
  have htaken : settleInlet { s with inletHeld := s.inletHeld ++ [x] } =
      { takeTransaction x { s with inletHeld := [x] } with inletHeld := [] } := by
    rw [hheld]
    exact takeHeld_of_open (portReady_open h [x]) x []
  exact congrArg Host.Outcome.next htaken

/-! ### Reads (R7, R8) -/

theorem aperture_none {s : State} (h : s.profile.faulted = true ∨ s.maps.live = none) : aperture s = none := by
  unfold aperture
  split
  · rfl
  next hf => rw [h.resolve_left hf]

theorem aperture_some {s : State} {m : SteeringMap} (hf : s.profile.faulted = false) (hm : s.maps.live = some m) :
    aperture s = some (m.base, m.base + 8 * windowBytes m, m) := by
  rw [aperture, hf, hm]
  rfl

theorem apertureBytes (m : SteeringMap) : 8 * windowBytes m = 8 * m.S * (m.Lp * m.P) := by
  rw [windowBytes, lineBytes, Nat.mul_assoc]

theorem windowBytes_pos {m : SteeringMap} (h : MapInRange m) : 0 < m.S ∧ 0 < lineBytes m := by
  obtain ⟨hP, ⟨hLp, -⟩, hS, -⟩ := h
  refine ⟨?_, Nat.mul_pos (by omega) (by omega)⟩
  simp only [List.mem_cons, List.not_mem_nil, or_false] at hS
  omega

/-- A READ of at least a byte touches a present aperture exactly when one of its bytes lies in it. -/
theorem touchesAperture_iff {m : SteeringMap} {a n : Nat} (hn : 1 ≤ n) (hpos : 0 < 8 * windowBytes m) :
    touchesAperture (some (m.base, m.base + 8 * windowBytes m, m)) a n = true ↔
      ∃ b, a ≤ b ∧ b < a + n ∧ inAperture m b := by
  simp only [touchesAperture, Bool.and_eq_true, decide_eq_true_eq, inAperture, ← apertureBytes]
  constructor
  · rintro ⟨⟨h1, h2⟩, -⟩
    exact ⟨max a m.base, by omega, by omega, by omega, by omega⟩
  · rintro ⟨b, h1, h2, h3, h4⟩
    omega

/-- Settles O2. -/
theorem readIsAnsweredOrForwarded : Obligations.ReadIsAnsweredOrForwarded := by
  intro a n tag s hs hn
  have hread (ans : Bool) (h : readAnswered { s with inletHeld := [.read a n tag] } a n tag = ans) :
      exec (.inletTransactionTaken (.read a n tag)) s =
        .next
          (if ans then
            { s with
              returned := s.returned ++ [{ tag := tag, data := [], ok := false }]
              counters := { s.counters with strayReads := satInc s.counters.strayReads } }
          else { s with decode := [.read a n tag] }) := by
    have hheld : s.inletHeld = [] := hs.2.2.2
    rw [exec_inlet_of_ready hs, takeTransaction, h]
    cases ans
    · simp only [Bool.false_eq_true, if_false, ← hheld]
    · simp only [if_true, bump, bumpCounters, returnToInlet, ← hheld]
  have hsame : aperture { s with inletHeld := [.read a n tag] } = aperture s := rfl
  constructor
  · intro h
    refine hread true ?_
    rw [readAnswered, hsame, Bool.or_eq_true, decide_eq_true_eq]
    refine h.imp_right fun ⟨hf, m, hm, hb⟩ => ?_
    have hb' := hb
    obtain ⟨b, -, -, hlow, hhigh⟩ := hb'
    rw [aperture_some hf hm, touchesAperture_iff hn (by rw [apertureBytes]; omega)]
    exact hb
  · rintro ⟨htag, h⟩
    refine hread false ?_
    rw [readAnswered, hsame, Bool.or_eq_false_iff, decide_eq_false_iff_not]
    refine ⟨by rw [Config.firstReservedTag]; omega, Bool.eq_false_iff.2 fun htouch => ?_⟩
    cases hf : s.profile.faulted with
    | true =>
      rw [aperture_none (.inl hf)] at htouch
      cases htouch
    | false =>
      cases hm : s.maps.live with
      | none =>
        rw [aperture_none (.inr hm)] at htouch
        cases htouch
      | some m =>
        obtain ⟨hrange, hout⟩ := h.resolve_left (by simp [hf]) m hm
        obtain ⟨hS, hline⟩ := windowBytes_pos hrange
        have hpos : 0 < 8 * windowBytes m := Nat.mul_pos (by decide) (Nat.mul_pos hS hline)
        rw [aperture_some hf hm, touchesAperture_iff hn hpos] at htouch
        obtain ⟨b, h1, h2, h3⟩ := htouch
        exact hout b h1 h2 h3

/-! ### Places (R11, R12, R17) -/

theorem exec_grant_of_free {s : State} (h : PlaceFree s) : exec .outletPlaceGrant s = .next (grantPlace s) := by
  obtain ⟨hawake, hroom, hdrain⟩ := h
  have hgrant : s.outlet.length < Config.outletPlaces ∧ draining s = false := ⟨hroom, by simp [draining, hdrain]⟩
  refine (unlessReset_of_awake hawake _).trans ?_
  rw [if_pos hgrant]

/-- Settles O4. -/
theorem stallsHoldTraffic : Obligations.StallsHoldTraffic := by
  refine ⟨fun x s h => ?_, fun s h => ?_⟩
  · exact congrArg Host.Outcome.next
      (takeHeld_of_stalled (s := { s with inletHeld := s.inletHeld ++ [x] }) h (s.inletHeld ++ [x]))
  · by_cases hawake : Awake s
    · refine (unlessReset_of_awake hawake _).trans (congrArg Host.Outcome.next (if_neg ?_))
      rintro ⟨hroom, hdrain⟩
      rcases h with h | h | h
      · exact h hawake
      · exact absurd hroom (Nat.not_lt.2 h)
      · simp [draining, h] at hdrain
    · have hheld : s.resetLine = true := by simpa [Awake] using hawake
      exact unlessReset_of_held hheld _

/-! ### Bridge reads -/

section
variable {α : Type} {p : α → Bool} {xs ys : List α} {x : α} (hxs : ∀ y ∈ xs, p y = false) (hx : p x = true)
include hxs hx

theorem find_at : (xs ++ x :: ys).find? p = some x := by
  rw [List.find?_append, List.find?_eq_none.2 fun y hy => by simp [hxs y hy], List.find?_cons_of_pos hx]
  rfl

theorem replaceFirst_at (f : α → α) : replaceFirst p f (xs ++ x :: ys) = xs ++ f x :: ys := by
  induction xs with
  | nil => exact if_pos hx
  | cons y xs ih =>
    have hy : p y = false := hxs y (List.mem_cons_self ..)
    rw [List.cons_append, replaceFirst, if_neg (by rw [hy]; exact Bool.false_ne_true),
      ih fun z hz => hxs z (List.mem_cons_of_mem y hz)]
    rfl

theorem removeFirst_at : removeFirst p (xs ++ x :: ys) = xs ++ ys := by
  induction xs with
  | nil => exact if_pos hx
  | cons y xs ih =>
    have hy : p y = false := hxs y (List.mem_cons_self ..)
    rw [List.cons_append, removeFirst, if_neg (by rw [hy]; exact Bool.false_ne_true),
      ih fun z hz => hxs z (List.mem_cons_of_mem y hz)]
    rfl

end

theorem waitingRead_none {s : State} (h : NoReadWaits s) : waitingRead s = none := by
  unfold waitingRead
  rw [List.find?_eq_none.2 fun r hr => by simp [h r hr]]
  exact List.find?_eq_none.2 fun r hr => by simp [h r hr]

/-- Settles O5. -/
theorem placeGoesToBridgeReadsFirst : Obligations.PlaceGoesToBridgeReadsFirst := by
  intro s xs ys r tag hfree hreads hstage hxs hrank
  have hwaits : readWaits r = true := by rw [readWaits, hstage]
  have hchosen : waitingRead s = some r := by
    unfold waitingRead
    by_cases hring : r.unit = .ring
    · rw [if_pos hring] at hrank
      have hfirst := find_at (p := fun r => readWaits r && decide (r.unit = .ring)) (xs := xs) (x := r) (ys := ys)
        (fun y hy => by
          cases hw : readWaits y
          · simp
          · simp [hrank y hy hw])
        (by simp [hwaits, hring])
      rw [hreads, hfirst]
    · rw [if_neg hring] at hrank
      obtain ⟨hbefore, hafter⟩ := hrank
      have hnone : s.reads.find? (fun r => readWaits r && decide (r.unit = .ring)) = none := by
        refine List.find?_eq_none.2 fun y hy => ?_
        rw [hreads] at hy
        simp only [Bool.and_eq_true, decide_eq_true_eq, not_and]
        rcases List.mem_append.1 hy with hy | hy
        · simp [hbefore y hy]
        · rcases List.mem_cons.1 hy with rfl | hy
          · exact fun _ => hring
          · exact hafter y hy
      rw [hnone, hreads]
      exact find_at hbefore hwaits
  have hreplaced := replaceFirst_at (p := fun x : BridgeRead => decide (x.stage = .waiting tag)) (xs := xs) (x := r) (ys := ys)
    (fun y hy => by simpa using hxs y hy) (by simpa using hstage) (fun x => { x with stage := .queued tag })
  rw [exec_grant_of_free hfree, grantPlace, hchosen]
  simp only [grantRead, hstage, enterOutlet, hreads, hreplaced]

/-! ### The internal write list (R104 to R110) -/

theorem grantPlace_of_list {s t : State} (h : NoReadWaits s) (ht : grantList s = some t) : grantPlace s = t := by
  rw [grantPlace, waitingRead_none h, ht]

theorem headLeaves_progress (s : State) : (headLeaves s).list.progress = 0 := by
  unfold headLeaves settleList
  split <;> rfl

/-- What is left of the list when its head leaves: a tail of the jobs behind it, short of FILL jobs only. -/
theorem headLeaves_jobs (s : State) :
    (headLeaves s).list.jobs <:+ s.list.jobs.tail ∧
      otherJobs (headLeaves s) = s.list.jobs.tail.filter fun j => !isFill j := by
  unfold otherJobs headLeaves settleList
  rw [if_pos rfl]
  exact ⟨settleJobs_suffix _ _, settleJobs_others _ _⟩

theorem resolveFill_ready {s : State} {f : FillJob} {b : Buffer} (hrow : f.row < b.capacity)
    (h : f.target = .bound b ∨
      ∃ e k, f.target = .entry k ∧ findEntry s k = some e ∧ e.state = .opened ∧ e.buffer = some b) :
    resolveFill s.table.entries f = .ready b := by
  unfold resolveFill
  rcases h with h | ⟨e, k, h, hf, he, hb⟩
  · rw [h]
    exact if_pos hrow
  · have hfound : s.table.entries.find? (fun e => decide (e.key = k)) = some e := hf
    rw [h]
    dsimp only
    rw [hfound]
    dsimp only
    rw [he, hb]
    exact if_pos hrow

theorem fillPattern_length (v : List Byte) (c n : Nat) : (fillPattern v c n).length = n := by simp [fillPattern]

theorem fillPattern_get {v : List Byte} (hv : v ≠ []) (c n : Nat) {i : Nat} (hi : i < n) :
    (fillPattern v c n)[i]? = v[(c + i) % v.length]? := by
  have hlt : (c + i) % v.length < v.length := Nat.mod_lt _ (List.length_pos_iff.2 hv)
  simp [fillPattern, hi, List.getElem?_eq_getElem hlt]

/-- The next write of a FILL job (R108). -/
def fillWrite (f : FillJob) (b : Buffer) (done : Nat) : OutTxn :=
  .write (bufferPlace b f.row (f.column + done)) (fillPattern f.value (f.column + done) (min 512 (f.len - done)))

theorem grantFill_last {f : FillJob} {s : State} (h : f.len ≤ s.list.progress * 512 + 512) (b : Buffer) :
    grantFill f b s = headLeaves (enterOutlet (fillWrite f b (s.list.progress * 512)) s) :=
  if_pos (show f.len ≤ s.list.progress * 512 + min 512 (f.len - s.list.progress * 512) by omega)

theorem grantFill_more {f : FillJob} {s : State} (h : ¬f.len ≤ s.list.progress * 512 + 512) (b : Buffer) :
    grantFill f b s =
      { enterOutlet (fillWrite f b (s.list.progress * 512)) s with
        list := { s.list with progress := s.list.progress + 1 } } :=
  if_neg (show ¬f.len ≤ s.list.progress * 512 + min 512 (f.len - s.list.progress * 512) by omega)

/-- Settles O6. -/
theorem fillJobIssuesItsWrites : Obligations.FillJobIssuesItsWrites := by
  intro s f js b hfree hnone hjobs hrow hvalue htarget hlen
  have hgrant : grantList s = some (grantFill f b s) := by
    unfold grantList
    rw [hjobs]
    dsimp only
    rw [resolveFill_ready hrow htarget]
  rw [exec_grant_of_free hfree, grantPlace_of_list hnone hgrant]
  refine ⟨_, fillPattern f.value (f.column + s.list.progress * 512) (min 512 (f.len - s.list.progress * 512)), rfl, ?_⟩
  have hbytes := fillPattern_length f.value (f.column + s.list.progress * 512) (min 512 (f.len - s.list.progress * 512))
  have hpattern (i : Nat) (hi : i < (fillPattern f.value (f.column + s.list.progress * 512)
      (min 512 (f.len - s.list.progress * 512))).length) :=
    fillPattern_get hvalue (f.column + s.list.progress * 512) (min 512 (f.len - s.list.progress * 512)) (hbytes ▸ hi)
  by_cases hlast : f.len ≤ s.list.progress * 512 + 512
  · obtain ⟨hsuffix, hothers⟩ := headLeaves_jobs (enterOutlet (fillWrite f b (s.list.progress * 512)) s)
    rw [grantFill_last hlast, if_pos hlast]
    refine ⟨?_, hbytes, hpattern, ⟨headLeaves_progress _, ?_, ?_⟩, by simp [enterOutlet], by simp [enterOutlet], by simp [enterOutlet]⟩
    · rw [headLeaves_outlet]
      rfl
    · simpa [enterOutlet, hjobs] using hsuffix
    · rw [hothers]
      simp [enterOutlet, otherJobs, hjobs, isFill]
  · rw [grantFill_more hlast, if_neg hlast]
    exact ⟨rfl, hbytes, hpattern, rfl, rfl, rfl, rfl⟩

theorem lowestFreeTag_of_least {s : State} {t : Tag} (ht : FreeTag s t) (hleast : ∀ u, FreeTag s u → t.toNat ≤ u.toNat) :
    lowestFreeTag s = some t := by
  cases h : lowestFreeTag s with
  | none => exact absurd ht (lowestFreeTag_none h t)
  | some u =>
    have hle := hleast u (lowestFreeTag_some h)
    obtain ⟨-, as, bs, hsplit, has⟩ := List.find?_eq_some_iff_append.1 h
    have hmem : t ∈ as ++ u :: bs := hsplit ▸ mem_reservedTags.2 ht.1
    have hsorted : Config.reservedTags.Pairwise fun x y : Tag => x.toNat < y.toNat := by decide
    rw [hsplit] at hsorted
    rcases List.mem_append.1 hmem with hmem | hmem
    · exact absurd ((tagFree_iff ht.1).2 ht) (by simpa using has t hmem)
    · rcases List.mem_cons.1 hmem with rfl | hmem
      · rfl
      · have hlt := (List.pairwise_cons.1 (List.pairwise_append.1 hsorted).2.1).1 t hmem
        omega

/-- A read requested while a tag is free and no other request waits has the lowest free tag at once (R10). -/
theorem requestRead_of_nextTag {s : State} {tag : Tag} (h : NextTag s tag) (u : ReadUnit) (a n : Nat) :
    requestRead u a n s = withRead u a n tag s := by
  obtain ⟨hnone, hfree, hleast⟩ := h
  have hall : s.reads.any (fun r => decide (r.stage = .untagged)) = false :=
    List.any_eq_false.2 fun r hr => by simpa using hnone r hr
  unfold requestRead withRead
  rw [hall, lowestFreeTag_of_least hfree hleast]
  rfl

theorem pumpOpening_of_allowance {s : State} {o : Opening} (ho : s.ringUnit.opening = some o)
    (hp : o.phase = .allowance) (ha : recordAllowance s < 4) :
    pumpOpening s =
      requestRead .ring (returnCountAddress s) 4 (setOpening (some { o with phase := .returnCount }) s) := by
  unfold pumpOpening
  rw [ho]
  exact if_pos ⟨hp, ha⟩

theorem pumpOpening_waits {s : State}
    (h : ∀ o, s.ringUnit.opening = some o → o.phase = .allowance → 4 ≤ recordAllowance s) : pumpOpening s = s := by
  unfold pumpOpening
  split
  next o ho => exact if_neg fun ⟨hp, ha⟩ => absurd ha (Nat.not_lt.2 (h o ho hp))
  next => rfl

/-- The record allowance falls by one as a RECORD job leaves. -/
theorem recordAllowance_headLeaves {s : State} {r : RecordJob} {js : List Job} (h : s.list.jobs = .record r :: js) :
    recordAllowance (headLeaves s) + 1 = recordAllowance s := by
  have hjobs : jobCount isRecord (headLeaves s) = js.countP isRecord := by
    unfold headLeaves
    rw [jobCount_settleList fun _ => rfl, jobCount, h]
    rfl
  have hstandings : standings (headLeaves s) = standings s := by simp [standings]
  rw [recordAllowance_eq, recordAllowance_eq, hjobs, hstandings, jobCount, h, List.countP_cons_of_pos rfl]
  omega

/-- Settles O7. -/
theorem recordJobIssuesItsWrite : Obligations.RecordJobIssuesItsWrite := by
  intro s r js hfree hnone hjobs
  have hgrant : grantList s = some (grantRecord r s) := by
    unfold grantList
    rw [hjobs]
  obtain ⟨s1, hs1⟩ : ∃ s1, s1 = raise .repeatDone (headLeaves (enterOutlet (.write r.area (recordBytes r)) s)) := ⟨_, rfl⟩
  have hpump : grantRecord r s = pumpOpening s1 := by rw [hs1]; rfl
  have hallowance : recordAllowance s1 + 1 = recordAllowance s := by
    rw [hs1]
    exact recordAllowance_headLeaves (s := enterOutlet (.write r.area (recordBytes r)) s) hjobs
  obtain ⟨hsuffix, hothers⟩ := headLeaves_jobs (enterOutlet (.write r.area (recordBytes r)) s)
  have hprogress := headLeaves_progress (enterOutlet (.write r.area (recordBytes r)) s)
  have hring : s1.ringUnit = s.ringUnit := by rw [hs1]; simp
  have hreads : s1.reads = s.reads := by rw [hs1]; simp
  have hheld : s1.heldTags = s.heldTags := by rw [hs1]; simp
  have hprofile : s1.profile = s.profile := by rw [hs1]; simp
  have hsame : (pumpOpening s1).outlet = s1.outlet ∧ (pumpOpening s1).list = s1.list ∧
      (pumpOpening s1).attention = s1.attention ∧ (pumpOpening s1).table = s1.table ∧
      (pumpOpening s1).counters = s1.counters := by
    unfold pumpOpening
    split
    · split <;> exact ⟨rfl, rfl, rfl, rfl, rfl⟩
    · exact ⟨rfl, rfl, rfl, rfl, rfl⟩
  rw [exec_grant_of_free hfree, grantPlace_of_list hnone hgrant, hpump]
  obtain ⟨houtlet, hlist, hattention, htable, hcounters⟩ := hsame
  refine ⟨_, rfl, ?_, ?_, ?_, ?_, ?_, ?_, ?_, fun hwaits => ?_, fun o tag ho hp hle htag => ?_⟩
  · rw [houtlet, hs1]
    simp [enterOutlet]
  · rw [hlist, hs1]
    simpa [enterOutlet, hjobs] using hsuffix
  · rw [otherJobs, hlist, hs1]
    refine hothers.trans ?_
    simp [enterOutlet, hjobs]
  · rw [hlist, hs1]
    exact hprogress
  · rw [hattention, hs1]
    simp [raise, causeSet_repeatDone, enterOutlet]
  · rw [htable, hs1]
    simp [enterOutlet]
  · rw [hcounters, hs1]
    simp [enterOutlet]
  · rw [pumpOpening_waits fun o ho hp => ?_]
    · exact ⟨hring, hreads⟩
    · have := hwaits o (hring ▸ ho) hp
      omega
  · have htag' : NextTag (setOpening (some { o with phase := .returnCount }) s1) tag := by
      unfold NextTag FreeTag at htag ⊢
      simpa [setOpening, hreads, hheld] using htag
    rw [pumpOpening_of_allowance (hring.symm ▸ ho) hp (by omega), requestRead_of_nextTag htag']
    simp only [withRead, setOpening, hring, hreads, returnCountAddress, hprofile]
    exact ⟨trivial, trivial⟩

/-- The manual's number of each result code (R169). -/
theorem resultNumber_of_mem {r : ResultCode} {code : Byte}
    (h : (r, code) ∈
      ([(.ok, 0x00), (.staged, 0x01), (.live, 0x02), (.already, 0x03), (.aborted, 0x04), (.ready, 0x05), (.busy, 0x10),
        (.noMap, 0x11), (.refusedFrozen, 0x12), (.invalidMap, 0x13), (.readFault, 0x14), (.locked, 0x15),
        (.invalidParam, 0x16), (.unsupported, 0x1E), (.deviceFault, 0x1F)] : List (ResultCode × Byte))) :
    BitVec.ofNat 8 (resultNumber r) = code := by
  simp only [List.mem_cons, Prod.mk.injEq, List.not_mem_nil, or_false] at h
  rcases h with h | h | h | h | h | h | h | h | h | h | h | h | h | h | h <;> obtain ⟨rfl, rfl⟩ := h <;> rfl

/-- Settles O8. -/
theorem responseJobIssuesItsWrites : Obligations.ResponseJobIssuesItsWrites := by
  intro s r js hfree hnone hjobs
  have hgrant : grantList s = some (grantResponse r s) := by
    unfold grantList
    rw [hjobs]
  rw [exec_grant_of_free hfree, grantPlace_of_list hnone hgrant]
  refine ⟨fun hmore => ?_, fun code hcode hdone => ?_⟩
  · have hwrites : grantResponse r s = _ := if_pos hmore
    rw [hwrites]
    rfl
  · have hlast : grantResponse r s = raise .commandDone (headLeaves (enterOutlet
        (.write (s.profile.inForce.controlBlock + 0x40) (responseHeader r)) s)) := if_neg (Nat.not_lt.2 hdone)
    obtain ⟨hsuffix, hothers⟩ := headLeaves_jobs (enterOutlet
      (.write (s.profile.inForce.controlBlock + 0x40) (responseHeader r)) s)
    have hnumber : BitVec.ofNat 8 (resultNumber r.result) = code := resultNumber_of_mem hcode
    rw [hlast]
    refine ⟨_, rfl, ?_, ?_, ?_, ?_, ?_⟩
    · simp [enterOutlet, responseHeader, hnumber]
    · simpa [enterOutlet, hjobs] using hsuffix
    · refine hothers.trans ?_
      simp [enterOutlet, hjobs]
    · simp [raise, causeSet_commandDone, enterOutlet]
    · simp [enterOutlet]

/-! ### The outlet port, completions and tags (R9 to R11, R16) -/

/-- Settles O15. -/
theorem trafficPassesTheOutletPort : Obligations.TrafficPassesTheOutletPort := by
  refine ⟨fun s a p rest hawake hout => ?_, fun s a n tag rest xs ys r hawake hout hreads hstage hxs => ?_, fun c s =>
    ⟨fun hc => congrArg Host.Outcome.next (if_pos hc), fun hc hnone => ?_⟩⟩
  · refine (unlessReset_of_awake hawake _).trans (congrArg Host.Outcome.next ?_)
    rw [leaveOutlet, hout]
    rfl
  · have hreplaced := replaceFirst_at (p := fun x : BridgeRead => decide (x.stage = .queued tag)) (xs := xs) (x := r)
      (ys := ys) (fun y hy => by simpa using hxs y hy) (by simpa using hstage) (fun x => { x with stage := .left tag })
    refine (unlessReset_of_awake hawake _).trans (congrArg Host.Outcome.next ?_)
    rw [leaveOutlet, hout]
    simp only [readLeft, hreads, hreplaced]
  · have hreserved : ¬c.tag.toNat < Config.firstReservedTag := Nat.not_lt.2 hc
    have hfind : s.reads.find? (fun r => decide (stageTag r.stage = some c.tag)) = none :=
      List.find?_eq_none.2 fun r hr => by simpa using hnone r hr
    refine congrArg Host.Outcome.next ((if_neg hreserved).trans ?_)
    rw [reservedCompletion, hfind]

/-- Settles O16. -/
theorem lowestFreeTagIsGiven : Obligations.LowestFreeTagIsGiven := by
  intro s xs ys r hawake hreads hstage hothers
  have huntagged (zs : List BridgeRead) (h : ∀ x ∈ zs, x.stage ≠ .untagged) :
      zs.filterMap (fun r => if r.stage = .untagged then some r.unit else none) = [] :=
    List.filterMap_eq_nil_iff.2 fun x hx => if_neg (h x hx)
  have hunits : untaggedUnits s = [r.unit] := by
    rw [untaggedUnits, hreads, List.filterMap_append, List.filterMap_cons, if_pos hstage,
      huntagged xs fun x hx => hothers x (List.mem_append_left _ hx),
      huntagged ys fun x hx => hothers x (List.mem_append_right _ hx)]
    rfl
  refine ⟨fun t ht hleast => ?_, fun hnone => ?_⟩
  · have hreplaced := replaceFirst_at (p := fun x : BridgeRead => decide (x.unit = r.unit) && decide (x.stage = .untagged))
      (xs := xs) (x := r) (ys := ys) (fun y hy => by simp [hothers y (List.mem_append_left _ hy)]) (by simp [hstage])
      (fun x => { x with stage := .waiting t })
    refine (unlessReset_of_awake hawake _).trans (congrArg Host.Outcome.next ?_)
    rw [assignTag, lowestFreeTag_of_least ht hleast, hunits]
    simp only [freeOrder, hreads, hreplaced]
  · refine (unlessReset_of_awake hawake _).trans (congrArg Host.Outcome.next ?_)
    cases h : lowestFreeTag s with
    | none => rw [assignTag, h]
    | some t => exact absurd (lowestFreeTag_some h) (hnone t)

/-! ### The begin of an opening operation (R87, R106) -/

/-- Settles O40. -/
theorem openingOperationBegins : Obligations.OpeningOperationBegins := by
  intro s es fs e hawake hopening hreads hentries hstate hes
  have hnext : nextOpening s = some e := by
    have hring : ringReading s = false := List.any_eq_false.2 fun r hr => by simpa using hreads r hr
    unfold nextOpening
    rw [hopening, hring, oldestOpening, hentries]
    exact find_at (fun x hx => by simpa using hes x hx) (by simpa using hstate)
  have hbegins : exec .openingOperationBegin s =
      .next (pumpOpening (setOpening (some { key := e.key, phase := .allowance }) s)) := by
    refine (unlessReset_of_awake hawake _).trans ?_
    rw [beginOpening, hnext]
  rw [hbegins]
  refine ⟨fun hfull => ?_, fun tag hroom htag => ?_⟩
  · exact congrArg Host.Outcome.next (pumpOpening_waits fun _ _ _ => hfull)
  · refine congrArg Host.Outcome.next ((pumpOpening_of_allowance
      (s := setOpening (some { key := e.key, phase := .allowance }) s) rfl rfl hroom).trans ?_)
    exact requestRead_of_nextTag (s := setOpening (some { key := e.key, phase := .returnCount }) s) htag _ _ _

end Sys2Proof.PathProofs
end

section
/-! SUPPORT and PROOFS. The web (chapters 2 and 3): what an observation of the phase pair counts, what moves behind the
high-water mark and at new ground below Q, the counter limit, the end of a strobe pulse, and the edges of the mark input. -/

namespace Sys2Proof.WebProofs

open Sys2Proof Sys2Proof.Machine Sys2Proof.AcquisitionProofs Sys2Proof.RunProofs Sys2Proof.PathProofs

theorem causeSet_encoderFault : causeSet .encoderFault = 64 := by decide
theorem causeSet_webReverse : causeSet .webReverse = 32 := by decide

/-! ### The count an observation is (R18) -/

/-- The table of R18 names the counts the classification finds, direction invert taken into account. -/
theorem invertTransition_classifyPair {fwd invert : Bool} {last new : PhasePair}
    (h : (last, new) ∈
      (if fwd != invert then
        [(⟨false, false⟩, ⟨true, false⟩), (⟨true, false⟩, ⟨true, true⟩), (⟨true, true⟩, ⟨false, true⟩),
          (⟨false, true⟩, ⟨false, false⟩)]
      else
        [(⟨false, false⟩, ⟨false, true⟩), (⟨true, false⟩, ⟨false, false⟩), (⟨true, true⟩, ⟨true, false⟩),
          (⟨false, true⟩, ⟨true, true⟩)] : List (PhasePair × PhasePair))) :
    invertTransition invert (classifyPair last new) = if fwd then .forward else .reverse := by
  cases fwd <;> cases invert <;>
  · simp only [Bool.bne_true, Bool.bne_false, Bool.not_true, Bool.not_false, if_true, if_false, Bool.false_eq_true,
      List.mem_cons, List.not_mem_nil, or_false, Prod.mk.injEq] at h
    rcases h with ⟨rfl, rfl⟩ | ⟨rfl, rfl⟩ | ⟨rfl, rfl⟩ | ⟨rfl, rfl⟩ <;> rfl

/-- An observation of the phase pair by an awake bridge. -/
theorem exec_transition {s : State} (h : Awake s) (new : PhasePair) (elapsed : Nat) :
    exec (.encoderTransition new elapsed) s = .next (observePair new (setClock (s.clock + elapsed) s)) :=
  unlessReset_of_awake h fun s => observePair new (setClock (s.clock + elapsed) s)

/-- A count is acted on in the state that has observed it. -/
theorem exec_count {new : PhasePair} {s : State} {fwd : Bool} (hawake : Awake s) (h : CountOf s new fwd) (elapsed : Nat) :
    exec (.encoderTransition new elapsed) s =
      .next (actOnTransition (if fwd then .forward else .reverse) (observed new elapsed s)) := by
  obtain ⟨last, hlast, hmem⟩ := h
  refine (exec_transition hawake new elapsed).trans (congrArg Host.Outcome.next ?_)
  unfold observePair
  rw [show (setClock (s.clock + elapsed) s).encoder.lastPair = some last from hlast]
  dsimp only
  rw [show (setClock (s.clock + elapsed) s).maps = s.maps from rfl, invertTransition_classifyPair hmem]
  rfl

/-- A count of a bridge that is not armed moves the position. -/
theorem actOnTransition_disarmed {s : State} (h : s.acq.state = .disarmed) :
    actOnTransition .forward s = setPosition (s.encoder.position + 1) s ∧
      actOnTransition .reverse s = setPosition (s.encoder.position - 1) s := by
  have harmed : armed s = false := by simp [armed, h]
  constructor <;> simp only [actOnTransition, harmed]

/-- A count of an armed bridge is acted on under its live map. -/
theorem actOnTransition_armed {s : State} {m : SteeringMap} (h : s.acq.state ≠ .disarmed) (hm : s.maps.live = some m) :
    actOnTransition .forward s = armedForward m s ∧ actOnTransition .reverse s = armedReverse m s := by
  have harmed : armed s = true := by simp [armed, h]
  constructor <;> simp only [actOnTransition, harmed, hm]

/-- A pair in which both phases changed is no count, and inversion leaves it so. -/
theorem classifyPair_illegal {last new : PhasePair} (ha : new.a ≠ last.a) (hb : new.b ≠ last.b) (invert : Bool) :
    invertTransition invert (classifyPair last new) = .illegal := by
  obtain ⟨la, lb⟩ := last
  obtain ⟨na, nb⟩ := new
  cases la <;> cases lb <;> cases na <;> cases nb <;> cases invert <;> simp_all [classifyPair, forwardPair, invertTransition]

/-- Settles O17, by the three kinds of observation: a count in DISARMED, none, and an illegal transition. -/
theorem transitionsAreCounted : Obligations.TransitionsAreCounted := by
  intro new elapsed s hawake
  refine ⟨fun hstate hcount => ?forward, fun hstate hcount => ?reverse, fun hnone => ?none, fun last hlast ha hb => ?illegal⟩
  case forward =>
    rw [exec_count hawake hcount]
    exact congrArg Host.Outcome.next (actOnTransition_disarmed (s := observed new elapsed s) hstate).1
  case reverse =>
    rw [exec_count hawake hcount]
    exact congrArg Host.Outcome.next (actOnTransition_disarmed (s := observed new elapsed s) hstate).2
  case none =>
    refine (exec_transition hawake new elapsed).trans (congrArg Host.Outcome.next ?_)
    unfold observePair
    rcases hnone with h | h
    · rw [show (setClock (s.clock + elapsed) s).encoder.lastPair = none from h]
      rfl
    · rw [show (setClock (s.clock + elapsed) s).encoder.lastPair = some new from h]
      have hclass (invert : Bool) : invertTransition invert (classifyPair new new) = .none := by
        cases invert <;> simp [classifyPair, invertTransition]
      dsimp only
      rw [hclass]
      rfl
  case illegal =>
    refine (exec_transition hawake new elapsed).trans (congrArg Host.Outcome.next ?_)
    unfold observePair
    rw [show (setClock (s.clock + elapsed) s).encoder.lastPair = some last from hlast]
    dsimp only
    rw [classifyPair_illegal ha hb, actOnTransition, raise, causeSet_encoderFault]
    rfl

/-! ### Behind the high-water mark (R21, R22) -/

theorem reverseDepth_zero_iff (s : State) : reverseDepth s = 0 ↔ s.encoder.position = s.encoder.highWater := by
  unfold reverseDepth
  constructor <;> intro h <;> bv_omega

theorem armedForward_behind {m : SteeringMap} {s : State} (h : s.encoder.highWater ≠ s.encoder.position) :
    armedForward m s =
      setReverseFlag (if s.encoder.position + 1 = s.encoder.highWater then false else s.encoder.reverseFlag)
        (setPosition (s.encoder.position + 1) s) := by
  have hdepth : ¬reverseDepth s = 0 := fun h0 => h ((reverseDepth_zero_iff s).1 h0).symm
  have hafter : reverseDepth (setPosition (s.encoder.position + 1) s) = 0 ↔ s.encoder.position + 1 = s.encoder.highWater :=
    reverseDepth_zero_iff _
  rw [armedForward, if_neg hdepth]
  dsimp only
  by_cases hreach : s.encoder.position + 1 = s.encoder.highWater
  · rw [if_pos (hafter.2 hreach), if_pos hreach]
  · rw [if_neg fun h0 => hreach (hafter.1 h0), if_neg hreach]
    rfl

/-- At the greatest depth a reverse count is not applied. -/
theorem armedReverse_limit {m : SteeringMap} {s : State}
    (h : (s.encoder.highWater - s.encoder.position).toNat = 2 ^ 48 - 1) : armedReverse m s = s := by
  have hdepth : reverseDepth s = BitVec.allOnes 48 := BitVec.eq_of_toNat_eq (by rw [reverseDepth, h]; rfl)
  rw [armedReverse, if_pos hdepth]

theorem armedReverse_below {m : SteeringMap} {s : State}
    (h : (s.encoder.highWater - s.encoder.position).toNat < 2 ^ 48 - 1) :
    armedReverse m s =
      if (s.encoder.highWater - s.encoder.position).toNat + 1 = m.reverseLimit ∧ s.encoder.reverseFlag = false then
        setReverseFlag true (raise .webReverse (setPosition (s.encoder.position - 1) s))
      else setPosition (s.encoder.position - 1) s := by
  have hdepth : ¬reverseDepth s = BitVec.allOnes 48 := by
    intro h0
    have hmost : (s.encoder.highWater - s.encoder.position).toNat = 2 ^ 48 - 1 := by
      rw [show s.encoder.highWater - s.encoder.position = BitVec.allOnes 48 from h0]
      rfl
    omega
  have hafter : (reverseDepth (setPosition (s.encoder.position - 1) s)).toNat =
      (s.encoder.highWater - s.encoder.position).toNat + 1 := by
    change (s.encoder.highWater - (s.encoder.position - 1)).toNat = _
    bv_omega
  rw [armedReverse, if_neg hdepth]
  dsimp only
  rw [hafter]
  rfl

/-- Settles O18, by the three counts behind the high-water mark or away from it. -/
theorem reverseTravelMovesNoStrobe : Obligations.ReverseTravelMovesNoStrobe := by
  intro new elapsed m s hawake hstate hm
  have hact := actOnTransition_armed (s := observed new elapsed s) hstate hm
  refine ⟨fun hcount hbehind => ?_, fun hcount hbelow => ?_, fun hcount hlimit => ?_⟩
  · rw [exec_count hawake hcount]
    exact congrArg Host.Outcome.next
      (hact.1.trans (armedForward_behind (s := observed new elapsed s) hbehind))
  · rw [exec_count hawake hcount]
    refine congrArg Host.Outcome.next (hact.2.trans ((armedReverse_below (s := observed new elapsed s) hbelow).trans ?_))
    rw [raise, causeSet_webReverse]
    rfl
  · rw [exec_count hawake hcount]
    exact congrArg Host.Outcome.next (hact.2.trans (armedReverse_limit (s := observed new elapsed s) hlimit))

/-! ### New ground (R21 to R24, R36) -/

/-- A forward count at new ground below the counter limit is a high-water advance. -/
theorem exec_newGround {new : PhasePair} {m : SteeringMap} {s : State} (h : AtNewGround s m) (hcount : CountOf s new true)
    (elapsed : Nat) :
    exec (.encoderTransition new elapsed) s = .next (highWaterAdvance m (advanced (observed new elapsed s))) := by
  obtain ⟨hawake, hstate, hm, hat, hlimit⟩ := h
  have hbelow : ¬s.encoder.highWater = BitVec.allOnes 48 := by
    intro h0
    rw [h0] at hlimit
    exact absurd hlimit (by decide)
  have hforward : armedForward m (observed new elapsed s) = highWaterAdvance m (advanced (observed new elapsed s)) :=
    (if_pos ((reverseDepth_zero_iff (observed new elapsed s)).2 hat)).trans (if_neg hbelow)
  rw [exec_count hawake hcount]
  exact congrArg Host.Outcome.next ((actOnTransition_armed (s := observed new elapsed s) hstate hm).1.trans hforward)

/-- The high-water mark of a web at new ground, one count on. -/
theorem highWater_succ {m : SteeringMap} {s : State} (h : AtNewGround s m) :
    (s.encoder.highWater + 1).toNat = s.encoder.highWater.toNat + 1 := by
  obtain ⟨-, -, -, -, hlimit⟩ := h
  bv_omega

theorem confirmDue_iff (s : State) :
    confirmDue s = true ↔ ∃ q, s.tracker.qualification = some q ∧ q.confirm = s.encoder.highWater.toNat := by
  unfold confirmDue
  split
  next h => simp [h]
  next q h => simp [h]

/-- A qualification that ends with the input deasserted is dropped and counted as a rejected mark. -/
theorem endQualification_fails {m : SteeringMap} {s : State} {q : Qualification} {level : Bool}
    (hq : s.tracker.qualification = some q) (hlevel : s.tracker.markLevel = some level)
    (h : level = true ↔ m.activeLow = true) : endQualification m s = bump .rejectedMarks (dropQualification s) := by
  have hdeasserted : assertedLevel m level = false := by simp [assertedLevel, Bool.eq_iff_iff.2 h]
  rw [endQualification, hq]
  dsimp only
  rw [show (dropQualification s).tracker.markLevel = some level from hlevel, Option.any_some, hdeasserted,
    if_neg Bool.false_ne_true]

/-- Settles O19: below Q the advance is at most the end of a qualification. -/
theorem phaseStepWithoutStrobe : Obligations.PhaseStepWithoutStrobe := by
  intro new elapsed m s t hnew hcount hbelow ht
  have hstep : exec (.encoderTransition new elapsed) s = .next (actPart m .confirm t) := by
    rw [exec_newGround hnew hcount, highWaterAdvance_below (s := advanced (observed new elapsed s)) hbelow, ht]
    rfl
  have hdue : confirmDue t = true ↔
      ∃ q, s.tracker.qualification = some q ∧ q.confirm = s.encoder.highWater.toNat + 1 := by
    rw [confirmDue_iff, ht, ← highWater_succ hnew]
    rfl
  refine ⟨fun hno => ?_, fun q level hq hconfirm hlevel hdeasserted => ?_⟩
  · have hnot : ¬confirmDue t = true := fun h => by
      obtain ⟨q, hq, hc⟩ := hdue.1 h
      exact hno q hq hc
    rw [hstep, actPart, if_neg hnot]
  · have hlive : t.maps.live.getD m = m := by
      obtain ⟨-, -, hm, -⟩ := hnew
      rw [ht]
      exact congrArg (Option.getD · m) hm
    have hend := endQualification_fails (m := m) (s := t) (q := q) (level := level) (by rw [ht]; exact hq)
      (by rw [ht]; exact hlevel) hdeasserted
    rw [hstep, actPart, if_pos (hdue.2 ⟨q, hq, hconfirm⟩), hlive, hend, ht]
    rfl

/-! ### The counter limit (R30, R150) -/

/-- What settling leaves of the list is a tail of it. -/
theorem settleList_jobs_suffix (s : State) : (settleList s).list.jobs <:+ s.list.jobs := by
  unfold settleList
  split
  · exact settleJobs_suffix _ _
  · exact List.suffix_rfl

/-- After ABORT no FILL job of an entry stands on the list. -/
theorem abortTable_jobs (s : State) : ∀ j ∈ (abortTable s).list.jobs, isEntryFill j = false := by
  intro j hj
  have hfiltered := (settleList_jobs_suffix _).subset hj
  simpa using (List.mem_filter.1 hfiltered).2

/-- Settles O24: the count is not applied, and what the bridge then holds is what entry into DISARMED leaves of a
cancelled table. -/
theorem counterLimitAborts : Obligations.CounterLimitAborts := by
  intro new elapsed m s hawake hstate hm hcount hat hlimit
  have hmost : s.encoder.highWater = BitVec.allOnes 48 := BitVec.eq_of_toNat_eq (by rw [hlimit]; rfl)
  have habort : armedForward m (observed new elapsed s) = abortRun (observed new elapsed s) :=
    (if_pos ((reverseDepth_zero_iff (observed new elapsed s)).2 hat)).trans (if_pos hmost)
  have hstep : exec (.encoderTransition new elapsed) s = .next (abortRun (observed new elapsed s)) := by
    rw [exec_count hawake hcount]
    exact congrArg Host.Outcome.next ((actOnTransition_armed (s := observed new elapsed s) hstate hm).1.trans habort)
  have hmailbox : (abortRun (observed new elapsed s)).mailbox = s.mailbox := by
    rw [abortRun, enterDisarmed_eq, abortTable_eq]
    rfl
  refine ⟨_, hstep, ?_⟩
  rw [hmailbox, abortRun]
  simp only [enterDisarmed_encoder, enterDisarmed_strobe, enterDisarmed_acq, enterDisarmed_table, enterDisarmed_tracker,
    enterDisarmed_bindings, enterDisarmed_attention, enterDisarmed_counters, enterDisarmed_list]
  have hjobs := abortTable_jobs (observed new elapsed s)
  rw [abortTable_eq]
  exact ⟨rfl, rfl, trivial, trivial, rfl, rfl, trivial, rfl, rfl, hjobs, trivial⟩

/-! ### The strobe pulse (R29) -/

/-- Settles O25: the clock reaches the pulse's end, at which the line becomes inactive. -/
theorem strobePulseEnds : Obligations.StrobePulseEnds := by
  intro u s hawake hu
  constructor
  · refine (unlessReset_of_awake hawake _).trans (congrArg Host.Outcome.next ?_)
    rw [endPulse, hu]
    simp [setClock, hu]
  · simp [strobeLineActive, hu]

/-! ### Edges of the mark input (R34, R35) -/

/-- An observation of the mark input of an awake bridge. -/
theorem exec_markEdge {s : State} (h : Awake s) (level : Bool) : exec (.markEdge level) s = .next (observeMark level s) :=
  unlessReset_of_awake h _

/-- A change to the asserted level is acted on in the state that holds the new level. -/
theorem observeMark_edge {level : Bool} {m : SteeringMap} {s : State} (hm : s.maps.live = some m)
    (hold : s.tracker.markLevel = some (!level)) (hassert : level = true ↔ m.activeLow = false) :
    observeMark level s = actOnEdge m { s with tracker := { s.tracker with markLevel := some level } } := by
  have hlevels : assertedLevel m (!level) = false ∧ assertedLevel m level = true := by
    cases level <;> simp_all [assertedLevel]
  simp only [observeMark, hold, hm, if_pos hlevels]

/-- A change that is no edge moves the level alone. -/
theorem observeMark_noEdge {level : Bool} {s : State}
    (h : s.tracker.markLevel = none ∨ s.tracker.markLevel = some level ∨
      ∃ m, s.maps.live = some m ∧ (level = true ↔ m.activeLow = true)) :
    observeMark level s = { s with tracker := { s.tracker with markLevel := some level } } := by
  unfold observeMark
  dsimp only
  split
  next old m hold hm =>
    refine if_neg fun ⟨hwas, his⟩ => ?_
    rcases h with h | h | ⟨n, hn, hdeasserted⟩
    · rw [h] at hold
      exact absurd hold (by simp)
    · obtain rfl : level = old := by simpa [h] using hold
      exact absurd (hwas.symm.trans his) Bool.false_ne_true
    · obtain rfl : n = m := by simpa [hn] using hm
      simp [assertedLevel, Bool.eq_iff_iff.2 hdeasserted] at his
  next => rfl

theorem atHighWater_iff (s : State) :
    atHighWater s = true ↔ s.acq.state ≠ .disarmed ∧ s.encoder.position = s.encoder.highWater := by
  simp [atHighWater, armed]

/-- Settles O26: an edge is acted on at high water in an armed TRACK run only, where it begins a qualification or is
rejected. -/
theorem markEdgeBeginsQualification : Obligations.MarkEdgeBeginsQualification := by
  refine ⟨fun level m s hawake hm hold hassert => ⟨fun htracker hmode hstate hat => ⟨fun hq hh => ?begins, fun hq => ?rejected⟩,
    fun hidle => ?noEffect⟩, fun level s hawake hno => ?noEdge⟩
  case begins =>
    rw [exec_markEdge hawake, observeMark_edge hm hold hassert, actOnEdge,
      if_pos ⟨htracker, hmode, (atHighWater_iff _).2 ⟨hstate, hat⟩⟩]
    simp only [acceptEdge, hq, if_neg (show ¬m.h = 0 by omega)]
  case rejected =>
    obtain ⟨q, hq⟩ := Option.ne_none_iff_exists'.1 hq
    rw [exec_markEdge hawake, observeMark_edge hm hold hassert, actOnEdge,
      if_pos ⟨htracker, hmode, (atHighWater_iff _).2 ⟨hstate, hat⟩⟩]
    simp only [acceptEdge, hq]
    rfl
  case noEffect =>
    rw [exec_markEdge hawake, observeMark_edge hm hold hassert, actOnEdge, if_neg]
    rintro ⟨htracker, hmode, hat⟩
    obtain ⟨-, hat⟩ := (atHighWater_iff _).1 hat
    rcases hidle with h | h | h
    · exact htracker h
    · exact absurd (hmode.symm.trans h) (by simp)
    · exact h hat
  case noEdge =>
    rw [exec_markEdge hawake, observeMark_noEdge hno]

end Sys2Proof.WebProofs
end

section
/-! SUPPORT and PROOFS. The mailbox (chapter 11) and ABORT (chapter 10): polls and completions of the Mailbox Unit's reads,
the commands that report and those refused, the saving of a profile, and the records that ABORT queues. -/

namespace Sys2Proof.CommandProofs

open Sys2Proof Sys2Proof.Machine Sys2Proof.AcquisitionProofs Sys2Proof.MailboxProofs Sys2Proof.RunProofs Sys2Proof.PathProofs
open Sys2Proof.WebProofs

theorem causeSet_busFault : causeSet .busFault = 256 := by decide

/-! ### Responses -/

/-- A response of a command taken, on a settled list, answers it. -/
theorem respond_released {c : TakenCommand} {r : ResultCode} {d : List Byte} {t : State} (hs : ListSettled t) :
    respond c.seq c.code r d (released t) = answered c r d t := by
  have hsettled : ListSettled (released t) := listSettled_of_same hs rfl rfl
  rw [respond_of_settled hsettled]
  rfl

/-- In FAULTED a commanded request is answered DEVICE_FAULT (R141). -/
theorem commandedRequest_faulted {s : State} {c : TakenCommand} {code : Byte} (hf : s.profile.faulted = true)
    (hs : ListSettled s) (ht : Taken s c code) (request : State → RequestResult × State) :
    unlessReset (carryOut code (commandedRequest request)) s = .next (answered c .deviceFault [] s) := by
  have hrequest : unlessFaulted request (released s) = (plain .deviceFault, released s) := if_pos hf
  have hcommand : commandedRequest request c (released s) = answered c .deviceFault [] s := by
    rw [commandedRequest, hrequest]
    exact respond_released hs
  rw [carryOut_of_taken ht, hcommand]

/-- In FAULTED a command of the mailbox is answered DEVICE_FAULT (R158). -/
theorem refusedIfFaulted_faulted {s : State} {c : TakenCommand} {code : Byte} (hf : s.profile.faulted = true)
    (hs : ListSettled s) (ht : Taken s c code) (f : TakenCommand → State → State) :
    unlessReset (carryOut code (refusedIfFaulted f)) s = .next (answered c .deviceFault [] s) := by
  have hcommand : refusedIfFaulted f c (released s) = answered c .deviceFault [] s :=
    (if_pos hf).trans (respond_released hs)
  rw [carryOut_of_taken ht, hcommand]

/-- Settles O33: the ten commands are requests or commands of the mailbox, refused alike; a code outside the table has a
row of its own. -/
theorem refusedAndUnknownCommands : Obligations.RefusedAndUnknownCommands := by
  refine ⟨fun s c i code hmem hf hs ht => ?_, fun s c hawake hc hs hcode => ?_⟩
  · have hrequest := commandedRequest_faulted hf hs ht
    have hcommand := refusedIfFaulted_faulted hf hs ht
    simp only [List.mem_cons, Prod.mk.injEq, List.not_mem_nil, or_false] at hmem
    rcases hmem with ⟨rfl, rfl⟩ | ⟨rfl, rfl⟩ | ⟨rfl, rfl⟩ | ⟨rfl, rfl⟩ | ⟨rfl, rfl⟩ | ⟨rfl, rfl⟩ | ⟨rfl, rfl⟩ | ⟨rfl, rfl⟩ |
      ⟨rfl, rfl⟩ | ⟨rfl, rfl⟩
    · exact hrequest requestArm
    · exact hrequest requestDisarm
    · exact hrequest requestAbort
    · exact hrequest requestHold
    · exact hrequest requestResume
    · exact hcommand takeLoadMap
    · exact hcommand takeAck
    · exact hcommand takeSetMask
    · exact hcommand takeReadProfile
    · exact hcommand takeSaveProfile
  · have hunknown : ¬knownCodes.contains c.code = true := by
      rw [List.contains_iff_mem]
      exact hcode
    have hanswer : answerUnsupported s = answered c .unsupported [] s := by
      simp only [answerUnsupported, hc]
      rw [if_neg hunknown]
      exact respond_released hs
    exact (unlessReset_of_awake hawake _).trans (congrArg Host.Outcome.next hanswer)

/-! ### The poll timer (R155) -/

/-- Settles O34: the two cases of the timer are those in which a poll may and may not begin. -/
theorem pollTimerExpires : Obligations.PollTimerExpires := by
  intro s hawake
  refine ⟨fun hbusy => ?_, fun tag hresponse hprogress hpoll htaken htag => ?_⟩
  · refine (unlessReset_of_awake hawake _).trans (congrArg Host.Outcome.next (if_neg ?_))
    simp only [pollMayBegin, pollingSuspended, setClock_list, setClock_mailbox, Bool.and_eq_true, Bool.not_eq_true',
      Bool.or_eq_false_iff, List.any_eq_false, Option.isSome_eq_false_iff, Option.isNone_iff_eq_none]
    rintro ⟨⟨⟨hjobs, hnone⟩, hidle⟩, -⟩
    rcases hbusy with ⟨j, hj, hr⟩ | h | h
    · exact hjobs j hj hr
    · exact h hnone
    · exact h (of_decide_eq_true hidle)
  · have hmay : s.list.jobs.any isResponse = false := List.any_eq_false.2 fun j hj => by simp [hresponse j hj]
    refine (unlessReset_of_awake hawake _).trans (congrArg Host.Outcome.next ((if_pos ?_).trans ?_))
    · simp [pollMayBegin, pollingSuspended, hmay, hprogress, hpoll, htaken]
    · refine (requestRead_of_nextTag (tag := tag) ?_ _ _ _).trans rfl
      exact htag

/-! ### Completions of bridge reads (R9) -/

/-- A completion on the tag of a read is delivered to the unit that issued it, and ends the read. -/
theorem exec_completion {s : State} {c : Completion} {xs ys : List BridgeRead} {r : BridgeRead} (hawake : Awake s)
    (hreads : s.reads = xs ++ r :: ys) (htag : stageTag r.stage = some c.tag)
    (hbefore : ∀ x ∈ xs, stageTag x.stage ≠ some c.tag) (hreserved : 240 ≤ c.tag.toNat) :
    exec (.readCompletion c) s = .next (deliver r.unit (deliveredData r c) { s with reads := xs ++ ys }) := by
  have hin : decide (stageTag r.stage = some c.tag) = true := decide_eq_true htag
  have hout : ∀ x ∈ xs, decide (stageTag x.stage = some c.tag) = false := fun x hx => decide_eq_false (hbefore x hx)
  have hfind : s.reads.find? (fun r => decide (stageTag r.stage = some c.tag)) = some r := by
    rw [hreads]
    exact find_at hout hin
  have hremove : removeFirst (fun r : BridgeRead => decide (stageTag r.stage = some c.tag)) s.reads = xs ++ ys := by
    rw [hreads]
    exact removeFirst_at hout hin
  have hcompletion : reservedCompletion c s = deliver r.unit (deliveredData r c) { s with reads := xs ++ ys } := by
    unfold reservedCompletion
    dsimp only
    rw [hfind, hremove]
    exact if_neg (by rw [show s.resetLine = false from hawake]; exact Bool.false_ne_true)
  exact congrArg Host.Outcome.next ((if_neg (by rw [Config.firstReservedTag]; omega)).trans hcompletion)

theorem deliveredData_failed {r : BridgeRead} {c : Completion} (h : c.ok = false ∨ c.data.length ≠ r.len) :
    deliveredData r c = none :=
  if_neg fun ⟨hok, hlen⟩ => h.elim (fun h => by simp [h] at hok) fun h => h hlen

theorem deliveredData_ok {r : BridgeRead} {c : Completion} (hok : c.ok = true) (hlen : c.data.length = r.len) :
    deliveredData r c = some c.data := if_pos ⟨hok, hlen⟩

/-! ### The reads of a poll (R155, R157) -/

/-- A failed read ends the poll. -/
theorem mailboxReadDone_failed {s : State} (h : s.mailbox.poll ≠ .none) :
    mailboxReadDone none s = setPoll .none (raise .busFault (bump .busFaults s)) := by
  unfold mailboxReadDone
  cases hp : s.mailbox.poll with
  | none => exact absurd hp h
  | sequence => rfl
  | command => rfl

/-- The sequence read in its three outcomes. -/
theorem sequenceReadDone_first {s : State} (bs : List Byte) (h : s.mailbox.lastSeen = none) :
    sequenceReadDone (some bs) s = becomeReady (BitVec.ofNat 32 (leNat bs)) s := by
  simp only [sequenceReadDone, h]

theorem sequenceReadDone_same {s : State} {bs : List Byte} (h : s.mailbox.lastSeen = some (BitVec.ofNat 32 (leNat bs))) :
    sequenceReadDone (some bs) s = setPoll .none s := by
  simp only [sequenceReadDone, h, if_true]

theorem sequenceReadDone_changed {s : State} {bs : List Byte} {w : BitVec 32} (h : s.mailbox.lastSeen = some w)
    (hne : w ≠ BitVec.ofNat 32 (leNat bs)) :
    sequenceReadDone (some bs) s =
      requestRead .mailbox s.profile.inForce.controlBlock 64 (setPoll .command s) := by
  simp only [sequenceReadDone, h, if_neg (Ne.symm hne)]

/-- The result data of READY, byte by byte (R157, R169). -/
theorem readyData_eq (s : State) :
    readyData s =
      [match s.mailbox.resetCause with
        | .power => 0
        | .resetLine => 1
        | .jobLine => 2
        | .command => 3,
        match s.profile.loadStatus with
        | .loaded => 0
        | .erased => 1
        | .corrupt => 2,
        if s.profile.faulted then 1 else 0, 0] := by
  unfold readyData
  cases s.mailbox.resetCause <;> cases s.profile.loadStatus <;> cases s.profile.faulted <;> decide

theorem field_whole {bs : List Byte} {n : Nat} (h : bs.length ≤ n) : field bs 0 n = leNat bs := by
  rw [field, List.drop_zero, List.take_of_length_le h]

/-- READY is queued on a settled list. -/
theorem becomeReady_eq {s : State} (hs : ListSettled s) (v : BitVec 32) :
    becomeReady v s =
      { s with
        mailbox := { s.mailbox with lastSeen := some v, poll := .none }
        list :=
          { s.list with
            jobs := s.list.jobs ++ [.response { seq := v, code := 0, result := .ready, data := readyData s }] } } :=
  respond_of_settled (s := { s with mailbox := { s.mailbox with lastSeen := some v, poll := .none } })
    (listSettled_of_same hs rfl rfl) v 0 .ready (readyData s)

/-- The command of a command area (R169). -/
theorem readCommand_eq {bs : List Byte} (h : 5 ≤ bs.length) :
    readCommand bs =
      { seq := BitVec.ofNat 32 (leNat (bs.take 4)), code := bs.getD 4 0, params := (bs.drop 8).take 56 } := by
  obtain ⟨b, rest, hb⟩ : ∃ b rest, bs.drop 4 = b :: rest :=
    List.exists_cons_of_ne_nil fun h0 => by
      have := List.drop_eq_nil_iff.1 h0
      omega
  have hget : bs.getD 4 0 = b := by
    have : bs[4]? = some b := by rw [← List.head?_drop, hb]; rfl
    rw [List.getD_eq_getElem?_getD, this]
    rfl
  have hcode : BitVec.ofNat 8 (field bs 4 1) = b := by
    rw [field, hb]
    simp [leNat]
  rw [readCommand, hget, hcode]
  rfl

/-- Settles O35, read by read: a failed one, the sequence read in its three outcomes, and the command-area read. -/
theorem pollReadsComplete : Obligations.PollReadsComplete := by
  intro s c xs ys r hawake hreads hunit htag hbefore hreserved
  have hstep := exec_completion hawake hreads htag hbefore hreserved
  rw [hunit] at hstep
  refine ⟨fun hpoll hfail => ?failed, fun hpoll hok hlen hfour v hv => ⟨fun hlast hsettled => ?ready, fun hlast => ?same,
    fun w tag hlast hdiff hnext => ?changed⟩, fun hpoll hok hlen hlong => ?command⟩
  case failed =>
    rw [hstep, deliveredData_failed hfail]
    have hended := mailboxReadDone_failed (s := { s with reads := xs ++ ys }) hpoll
    rw [raise, causeSet_busFault] at hended
    exact congrArg Host.Outcome.next hended
  all_goals
    rw [hstep, deliveredData_ok hok hlen]
    refine congrArg Host.Outcome.next ?_
    simp only [deliver, mailboxReadDone, hpoll]
  case ready =>
    rw [sequenceReadDone_first (s := { s with reads := xs ++ ys }) c.data hlast, ← hv,
      becomeReady_eq (s := { s with reads := xs ++ ys }) (listSettled_of_same hsettled rfl rfl), readyData_eq] <;>
      rfl
  case same =>
    exact sequenceReadDone_same (s := { s with reads := xs ++ ys }) (hv ▸ hlast)
  case changed =>
    rw [sequenceReadDone_changed (s := { s with reads := xs ++ ys }) hlast (hv ▸ hdiff)]
    exact requestRead_of_nextTag (s := setPoll .command { s with reads := xs ++ ys }) (tag := tag) hnext _ _ _
  case command =>
    have hcommand := readCommand_eq (bs := c.data) (by omega)
    simp only [commandReadDone, hcommand]
    split_ifs with hseen <;> rfl

/-! ### Reports (R159, R166) -/

theorem field_byte (b : Byte) (rest : List Byte) : field (b :: rest) 0 1 = b.toNat := by simp [field, leNat]

/-- Settles O36: the snapshot and the profile's report are formed before the response is queued. -/
theorem reportsAreAnswered : Obligations.ReportsAreAnswered := by
  intro s c hs
  refine ⟨fun b rest ht hp => ?_, fun ht hf => ?_⟩
  · refine (carryOut_of_taken (f := takeStatus) ht).trans (congrArg Host.Outcome.next ?_)
    have hclear : paramClear c = b.getLsbD 0 := by
      rw [paramClear, hp, fieldBit0, field_byte, BitVec.getLsbD, Nat.testBit_zero]
      exact Bool.beq_eq_decide_eq _ _
    have hcleared : (if paramClear c then { released s with counters := Counters.zero } else released s) =
        released (if b.getLsbD 0 then { s with counters := ⟨0, 0, 0, 0, 0, 0, 0, 0, 0, 0, 0⟩ } else s) := by
      rw [hclear]
      split_ifs <;> rfl
    have hsettled :
        ListSettled (if b.getLsbD 0 then { s with counters := ⟨0, 0, 0, 0, 0, 0, 0, 0, 0, 0, 0⟩ } else s) := by
      split_ifs
      · exact listSettled_of_same hs rfl rfl
      · exact hs
    have hsnapshot : snapshot (released s) = snapshot s := rfl
    rw [takeStatus, hsnapshot, hcleared]
    exact respond_released hsettled
  · have hbytes : leBytes 1 (loadStatusNumber s.profile.loadStatus) ++ leBytes 1 (if s.profile.lockFixed then 1 else 0) =
        [match s.profile.loadStatus with
          | .loaded => 0
          | .erased => 1
          | .corrupt => 2,
          if s.profile.lockFixed then 1 else 0] := by
      cases s.profile.loadStatus <;> cases s.profile.lockFixed <;> decide
    have htake :
        takeReadProfile c (released s) =
          respond c.seq c.code .ok
            (s.profile.flash ++ leBytes 1 (loadStatusNumber s.profile.loadStatus) ++
              leBytes 1 (if s.profile.lockFixed then 1 else 0)) (released s) := rfl
    rw [List.append_assoc, hbytes] at htake
    exact refusedIfFaulted_answered hf ht htake hs

/-! ### Saving a profile (R167) -/

/-- The address of a load or a save is the value of the first eight parameter bytes (R169). -/
theorem paramAddress_eq (c : TakenCommand) : paramAddress c = leNat (c.params.take 8) := by
  rw [paramAddress, field, List.drop_zero]

/-- The end of a save on a settled list. -/
theorem endSave_eq {s : State} (hs : ListSettled s) (q : BitVec 32) (r : ResultCode) :
    endSave q r s =
      { s with
        mailbox := { s.mailbox with inProgress := none }
        list :=
          { s.list with
            jobs := s.list.jobs ++ [.response { seq := q, code := 0x31, result := r, data := [] }] } } := by
  have hsettled : ListSettled (setProgress none s) := listSettled_of_same hs rfl rfl
  rw [endSave, respond_of_settled hsettled]
  rfl

/-- Settles O38, stage by stage: the command, its read, and the end of programming. -/
theorem profileIsSaved : Obligations.ProfileIsSaved := by
  refine ⟨fun s c a hf hs ha ht => ⟨fun hlock => ?locked, fun hlock hreach => ?beyond, fun tag hlock hwithin htag => ?read⟩,
    fun s c xs ys r q a hawake hreads hunit htag hbefore hreserved hlen hs hprogress => ?completes,
    fun s q img p hawake hs hprogress himage => ?programmed⟩
  case locked =>
    exact refusedIfFaulted_answered hf ht ((if_pos hlock).trans rfl) hs
  case beyond =>
    refine refusedIfFaulted_answered hf ht ((if_neg (ne_true_of_eq_false hlock)).trans (if_pos ?_)) hs
    rw [paramAddress_eq, ← ha]
    exact hreach
  case read =>
    rw [← paramAddress_eq] at ha
    have hallowed : refusedIfFaulted takeSaveProfile c (released s) = takeSaveProfile c (released s) :=
      if_neg (ne_true_of_eq_false hf)
    refine (carryOut_of_taken (f := refusedIfFaulted takeSaveProfile) ht).trans (congrArg Host.Outcome.next ?_)
    rw [hallowed]
    refine (if_neg (ne_true_of_eq_false hlock)).trans ((if_neg ?_).trans ?_)
    · rw [← ha, top48]
      omega
    · rw [← ha]
      exact requestRead_of_nextTag (s := setProgress (some (.saveReading c.seq a)) (released s)) (tag := tag) htag _ _ _
  case completes =>
    have hstep := exec_completion hawake hreads htag hbefore hreserved
    rw [hunit] at hstep
    refine ⟨_, hstep, fun hfail => ?_, fun hok hdata himage => ?_, fun hok hdata himage => ?_⟩
    · rw [deliveredData_failed (hlen.symm ▸ hfail), deliver, profileReadDone]
      simp only [hprogress]
      exact endSave_eq (s := bump .busFaults { s with reads := xs ++ ys }) (listSettled_of_same hs rfl rfl) q .readFault
    · rw [deliveredData_ok hok (hdata.trans hlen.symm), deliver, profileReadDone]
      simp only [hprogress, himage]
      exact endSave_eq (s := { s with reads := xs ++ ys }) (listSettled_of_same hs rfl rfl) q .invalidParam
    · obtain ⟨p, hp⟩ := Option.ne_none_iff_exists'.1 himage
      rw [deliveredData_ok hok (hdata.trans hlen.symm), deliver, profileReadDone]
      simp only [hprogress, hp]
      rfl
  case programmed =>
    refine (unlessReset_of_awake hawake _).trans (congrArg Host.Outcome.next ?_)
    simp only [programmingDone, hprogress, himage, Option.any_some]
    rw [endSave_eq]
    · rfl
    · exact listSettled_of_same hs rfl rfl

/-! ### ABORT (R99, R149) -/

theorem otherJobs_settleList (s : State) : otherJobs (settleList s) = otherJobs s := by
  unfold settleList
  split
  · exact settleJobs_others _ _
  · rfl

/-- A job that is no FILL job joins the others at their tail. -/
theorem otherJobs_enqueue {j : Job} (hj : isFill j = false) (s : State) : otherJobs (enqueue j s) = otherJobs s ++ [j] := by
  rw [enqueue, otherJobs_settleList]
  simp [otherJobs, List.filter_append, hj]

/-- Removing FILL jobs leaves the others. -/
theorem otherJobs_removeJobs {p : Job → Bool} (hp : ∀ j, p j = true → isFill j = true) (s : State) :
    otherJobs (removeJobs p s) = otherJobs s := by
  rw [removeJobs, otherJobs_settleList]
  simp only [otherJobs, List.filter_filter]
  refine List.filter_congr fun j _ => ?_
  cases hf : isFill j with
  | true => simp
  | false =>
    have hnot : p j = false := by
      by_contra h
      simp [hp j (Bool.eq_true_of_not_eq_false h)] at hf
    simp [hnot]

/-- The CANCELLED records of entries: the first takes the pending dropped-before count (R95, R98, R99). -/
def cancelledRecords (s : State) : List Entry → List RecordJob
  | [] => []
  | e :: es =>
    recordOf (cancelEnd e) .cancelled s ::
      es.map fun e => { recordOf (cancelEnd e) .cancelled s with droppedBefore := 0 }

/-- With nothing dropped before, every record says so. -/
theorem cancelledRecords_of_none {s t : State} (hm : t.maps = s.maps) (h : t.table.droppedBefore = 0) (es : List Entry) :
    cancelledRecords t es = es.map fun e => { recordOf (cancelEnd e) .cancelled s with droppedBefore := 0 } := by
  have hrecord (e : Entry) :
      recordOf (cancelEnd e) .cancelled t = { recordOf (cancelEnd e) .cancelled s with droppedBefore := 0 } := by
    simp [recordOf, recordArea, hm, h]
  cases es with
  | nil => rfl
  | cons e es => simp [cancelledRecords, hrecord]

/-- The records are queued in order of the table. -/
theorem otherJobs_cancelled (es : List Entry) (s : State) :
    otherJobs (es.foldl (fun t e => queueRecord (cancelEnd e) .cancelled t) s) =
      otherJobs s ++ (cancelledRecords s es).map Job.record := by
  induction es generalizing s with
  | nil => simp [cancelledRecords]
  | cons e es ih =>
    have hqueued : otherJobs (queueRecord (cancelEnd e) .cancelled s) =
        otherJobs s ++ [.record (recordOf (cancelEnd e) .cancelled s)] := otherJobs_enqueue rfl _
    have hmaps : (queueRecord (cancelEnd e) .cancelled s).maps = s.maps := by rw [queueRecord_eq]
    have hcount : (queueRecord (cancelEnd e) .cancelled s).table.droppedBefore = 0 := by rw [queueRecord_eq]
    rw [List.foldl_cons, ih, hqueued, cancelledRecords_of_none hmaps hcount, List.append_assoc, cancelledRecords]
    rfl

theorem otherJobs_abortTable (s : State) :
    otherJobs (abortTable s) =
      otherJobs s ++ (cancelledRecords s (s.table.entries.filter abortRecords)).map Job.record := by
  have hremoved := otherJobs_removeJobs (p := isEntryFill) (fun j hj => by
    cases j with
    | fill f => rfl
    | record r => exact absurd hj (by simp [isEntryFill])
    | response r => exact absurd hj (by simp [isEntryFill]))
    ((s.table.entries.filter abortRecords).foldl (fun t e => queueRecord (cancelEnd e) .cancelled t) s)
  rw [otherJobs_cancelled] at hremoved
  exact hremoved

theorem cancelledRecords_map {α : Type} {f : RecordJob → α} {s : State}
    (hf : ∀ r, f { r with droppedBefore := 0 } = f r) (es : List Entry) :
    (cancelledRecords s es).map f = es.map fun e => f (recordOf (cancelEnd e) .cancelled s) := by
  cases es with
  | nil => rfl
  | cons e es =>
    rw [cancelledRecords, List.map_cons, List.map_map, List.map_cons]
    exact congrArg _ (List.map_congr_left fun e _ => hf _)

theorem mem_cancelledRecords {s : State} {es : List Entry} {r : RecordJob} (h : r ∈ cancelledRecords s es) :
    r.status = .cancelled := by
  have hstatus := cancelledRecords_map (f := RecordJob.status) (s := s) (fun _ => rfl) es
  have hmem : r.status ∈ (cancelledRecords s es).map RecordJob.status := List.mem_map_of_mem h
  rw [hstatus] at hmem
  obtain ⟨e, -, he⟩ := List.mem_map.1 hmem
  exact he.symm

/-- The record of an entry is the one of R95 under the live map. -/
theorem recordOf_eq {s : State} {m : SteeringMap} (hm : s.maps.live = some m) (e : Entry) (st : RecordStatus) :
    recordOf e st s = recordFor m e st s.table.droppedBefore := by
  have hrows : rowCount e = e.endRow.getD e.firstRow - e.firstRow := by
    unfold rowCount
    cases e.endRow <;> simp
  have hcapacity : entryCapacity e = (e.buffer.map Buffer.capacity).getD 0 := by
    unfold entryCapacity
    cases e.buffer <;> rfl
  simp only [recordOf, recordFor, recordArea, hm, hrows, hcapacity]

theorem abortRecords_eq (e : Entry) :
    abortRecords e = (decide (e.state = .opened) || (decide (e.state = .opening) && e.descIndex.isSome)) := by
  unfold abortRecords
  cases e.state <;> simp

theorem cancelEnd_eq (e : Entry) :
    cancelEnd e = { e with endKind := if e.endRow = none then some .cancelled else e.endKind } := by
  unfold cancelEnd
  split_ifs <;> rfl

/-- A map that becomes live may clear the ring counts; the opening operation stands. -/
theorem enterDisarmed_opening (s : State) : (enterDisarmed s).ringUnit.opening = s.ringUnit.opening := by
  unfold enterDisarmed adoptStaged
  split
  next => rfl
  next m _ =>
    simp only [raise_ringUnit, makeLive]
    split_ifs <;> rfl

theorem requestAbort_of_armed {s : State} (h : s.acq.state ≠ .disarmed) :
    requestAbort s =
      ({ code := .aborted, data := leBytes 1 (s.table.entries.filter abortRecords).length }, abortRun s) := by
  unfold requestAbort
  cases hs : s.acq.state with
  | disarmed => exact absurd hs h
  | running => rfl
  | held => rfl
  | draining => rfl

/-- Settles O32: the records are those of `cancelledRecords`, and the rest is what entry into DISARMED leaves of a
cancelled table. -/
theorem abortCancelsTheRun : Obligations.AbortCancelsTheRun := by
  intro s c hf ht
  refine ⟨fun hstate hs => ?already, fun hstate => ?aborts⟩
  case already =>
    have hreq : requestAbort (released s) = (plain .already, released s) := by
      rw [requestAbort, released_acq, hstate]
    exact commandedRequest_answered hf ht hreq hs
  case aborts =>
    have hreq := requestAbort_of_armed (s := released s) hstate
    have hothers := otherJobs_abortTable (released s)
    have hjobs := abortTable_jobs (released s)
    have hlength : (cancelledRecords (released s) ((released s).table.entries.filter abortRecords)).length =
        ((released s).table.entries.filter abortRecords).length := by
      simpa using congrArg List.length (cancelledRecords_map (f := fun _ => ()) (s := released s) (fun _ => rfl)
        ((released s).table.entries.filter abortRecords))
    have hfilter : (s.table.entries.filter fun e =>
        decide (e.state = .opened) || (decide (e.state = .opening) && e.descIndex.isSome)) =
          (released s).table.entries.filter abortRecords :=
      List.filter_congr fun e _ => (abortRecords_eq e).symm
    refine ⟨_, cancelledRecords (released s) ((released s).table.entries.filter abortRecords),
      commandedRequest_responds hf ht hreq, ?_⟩
    have hrun : (abortRun (released s)).list = (abortTable (released s)).list := enterDisarmed_list _
    have hotherRun : otherJobs (abortRun (released s)) = otherJobs (abortTable (released s)) := by
      rw [otherJobs, otherJobs, hrun]
    rw [hfilter, hlength]
    refine ⟨?_, ?_, fun m hm => ?_, fun r hr => mem_cancelledRecords hr, fun r rest hr => ?_, fun j hj => ?_, ?_⟩
    · exact (otherJobs_enqueue rfl _).trans (congrArg (· ++ _) (hotherRun.trans hothers))
    · rw [cancelledRecords_map fun _ => rfl]
      refine List.map_congr_left fun e _ => ?_
      rw [cancelEnd_eq]
      rfl
    · rw [cancelledRecords_map fun _ => rfl]
      refine List.map_congr_left fun e _ => ?_
      rw [recordOf_eq (s := released s) hm, cancelEnd_eq]
      rfl
    · cases hes : (released s).table.entries.filter abortRecords with
      | nil =>
        rw [hes] at hr
        exact absurd hr (List.cons_ne_nil _ _).symm
      | cons e es =>
        rw [hes, cancelledRecords, List.cons.injEq] at hr
        obtain ⟨rfl, rfl⟩ := hr
        refine ⟨rfl, fun r' hr' => ?_⟩
        obtain ⟨e', -, rfl⟩ := List.mem_map.1 hr'
        rfl
    · have hmem := (settleList_jobs_suffix _).subset hj
      rcases List.mem_append.1 hmem with h | h
      · rw [hrun] at h
        exact hjobs j h
      · rw [List.mem_singleton.1 h]
        rfl
    · rw [respond, enqueue_eq, abortRun]
      simp only [enterDisarmed_acq, enterDisarmed_table, enterDisarmed_tracker, enterDisarmed_bindings, enterDisarmed_slots,
        enterDisarmed_attention, enterDisarmed_counters, enterDisarmed_outlet]
      rw [enterDisarmed_opening, abortTable_eq]
      exact ⟨rfl, rfl, rfl, rfl, rfl, trivial, trivial, rfl, rfl, rfl⟩

end Sys2Proof.CommandProofs
end

section
/-! SUPPORT and PROOFS. Resets and the job line (chapters 1, 10 and 11): the values each reset leaves, what the bridge held by
the reset line does, and the requests that the edges of the job line make. -/

namespace Sys2Proof.ResetProofs

open Sys2Proof Sys2Proof.Machine Sys2Proof.AcquisitionProofs Sys2Proof.MailboxProofs Sys2Proof.RunProofs Sys2Proof.PathProofs
open Sys2Proof.CommandProofs

/-! ### The values a reset leaves (R154) -/

theorem causeSet_profileFault : causeSet .profileFault = 1024 := by decide

/-- An abandoned programming writes flash and may take a free value. -/
theorem abandonProgramming_eq (s : State) :
    abandonProgramming s =
      { s with
        profile := { s.profile with flash := (abandonProgramming s).profile.flash }
        choices := (abandonProgramming s).choices
        choiceCount := (abandonProgramming s).choiceCount } := by
  unfold abandonProgramming
  split
  · dsimp only
    rw [takeChoice_state]
  · rfl

theorem abandonProgramming_of_none {s : State} (h : ∀ q img, s.mailbox.inProgress ≠ some (.saveProgramming q img)) :
    abandonProgramming s = s := by
  unfold abandonProgramming
  split
  next q img hq => exact absurd hq (h q img)
  next => rfl

/-- What an interrupted programming leaves is judged CORRUPT or is erased (R167). -/
theorem abandonProgramming_flash {s : State} (h : ∃ q img, s.mailbox.inProgress = some (.saveProgramming q img)) :
    ∃ n, (abandonProgramming s).profile.flash = freeFlash n := by
  obtain ⟨q, img, h⟩ := h
  exact ⟨(takeChoice s).1, by simp only [abandonProgramming, h]⟩

theorem mem_tagsHeldBack (s : State) (t : Tag) :
    t ∈ tagsHeldBack s ↔ t ∈ s.heldTags ∨ ∃ r ∈ s.reads, r.stage = .left t := by
  have hleft (r : BridgeRead) :
      (match r.stage with
        | .left t => some t
        | _ => none) = some t ↔ r.stage = .left t := by
    cases r.stage <;> simp
  simp only [tagsHeldBack, List.mem_append, List.mem_filterMap]
  exact or_congr_right (exists_congr fun r => and_congr_right fun _ => hleft r)

/-- After a reset the port is open unless the reset line is asserted. -/
theorem performReset_open {cause : ResetCause} {s : State} (h : (performReset cause s).resetLine = false) :
    ¬Stalled (performReset cause s) := by
  rintro (hd | ha | hr)
  · exact hd rfl
  · exact ha h
  · cases hr

/-- A transaction held at the port that stands in decode after a reset leaves those behind it held. -/
theorem resetBridge_of_held {cause : ResetCause} {s : State} {x : InletTxn} {rest : List InletTxn} {p : Piece}
    (hopen : (performReset cause s).resetLine = false) (hheld : s.inletHeld = x :: rest)
    (hx : takeTransaction x (performReset cause s) = { performReset cause s with decode := [p] }) :
    resetBridge cause s = { performReset cause s with decode := [p], inletHeld := rest } := by
  have hport : (performReset cause s).inletHeld = x :: rest := by
    rw [← hheld, performReset, abandonProgramming_eq]
  have hstalled : Stalled { performReset cause s with decode := [p] } := .inl (List.cons_ne_nil _ _)
  rw [resetBridge, settleInlet, hport, takeHeld_of_open (performReset_open hopen), hx, takeHeld_of_stalled hstalled]

/-- Every reset leaves the values of R154. -/
theorem afterReset_resetBridge (cause : ResetCause) (s : State) : AfterReset cause s (resetBridge cause s) := by
  have hport := (settleInlet_frame (performReset cause s)).kept
  rw [← resetBridge] at hport
  have haway := abandonProgramming_eq s
  have hflash : (resetBridge cause s).profile.flash = (abandonProgramming s).profile.flash := by rw [hport]; rfl
  have hloaded : ((resetBridge cause s).profile.loadStatus, (resetBridge cause s).profile.inForce) =
      loadProfile (abandonProgramming s).profile.flash := by rw [hport]; rfl
  have hcauses : (resetBridge cause s).attention.causes =
      if (resetBridge cause s).profile.loadStatus = .corrupt then 1024 else 0 := by
    rw [hport, ← causeSet_profileFault]
    rfl
  have hheld (tag : Tag) : tag ∈ (resetBridge cause s).heldTags ↔
      tag ∈ s.heldTags ∨ ∃ r ∈ s.reads, r.stage = .left tag := by
    have h : (resetBridge cause s).heldTags = tagsHeldBack s := by
      rw [hport, performReset, abandonProgramming_eq]
      rfl
    rw [h, mem_tagsHeldBack]
  have hline : (resetBridge cause s).resetLine = (performReset cause s).resetLine := by rw [hport]
  have hclock : (resetBridge cause s).clock = s.clock := by rw [hport, performReset, abandonProgramming_eq]
  have hsent : (resetBridge cause s).sent = s.sent := by rw [hport, performReset, abandonProgramming_eq]
  have hpending : (resetBridge cause s).pending = s.pending := by rw [hport, performReset, abandonProgramming_eq]
  have hreturned : (performReset cause s).returned = s.returned := by rw [performReset, abandonProgramming_eq]
  have hempty : aperture (performReset cause s) = none := aperture_none (.inr rfl)
  refine ⟨?_, ?_, ?_, ?_, ?_, ?_, ?_, ?_, ?_, ?_, ?_, hheld, ?_, ?_, ?_, ?_, ?_, ?_, ?_, ?_, ?_, ?_, ?_, ?_, hcauses, hclock,
    hsent, hpending, fun h => ?nothing, fun hopen a p rest h hp => ?write, fun hopen a n tag rest h htag => ?read,
    fun h => ?kept, fun h => ?programming⟩
  case nothing =>
    have hnone : (performReset cause s).inletHeld = [] := by rw [← h, performReset, abandonProgramming_eq]
    have hreset : resetBridge cause s = { performReset cause s with inletHeld := [] } := by
      rw [resetBridge, settleInlet, hnone]
      rfl
    rw [hreset]
    exact ⟨rfl, rfl, rfl, hreturned⟩
  case write =>
    have hpieces : takeTransaction (.write a p) (performReset cause s) =
        { performReset cause s with decode := [.outside a p] } := by
      rw [takeTransaction, hempty, writePieces, outsidePiece, if_neg hp]
    rw [resetBridge_of_held (hline ▸ hopen) h hpieces]
    exact ⟨rfl, rfl, rfl, hreturned⟩
  case read =>
    have hanswered : readAnswered (performReset cause s) a n tag = false := by
      rw [readAnswered, hempty, touchesAperture, Bool.or_false, decide_eq_false_iff_not, Config.firstReservedTag]
      omega
    have hforwarded : takeTransaction (.read a n tag) (performReset cause s) =
        { performReset cause s with decode := [.read a n tag] } := by
      rw [takeTransaction, hanswered, if_neg Bool.false_ne_true]
    rw [resetBridge_of_held (hline ▸ hopen) h hforwarded]
    exact ⟨rfl, rfl, rfl, hreturned⟩
  case kept => rw [hflash, abandonProgramming_of_none h]
  case programming =>
    obtain ⟨n, hn⟩ := abandonProgramming_flash h
    obtain ⟨hlength, hjudged⟩ := freeFlash_judged n
    rw [hflash, hn]
    refine ⟨hlength, hjudged.imp_left fun hcorrupt => ?_⟩
    rw [hn] at hloaded
    exact (congrArg Prod.fst hloaded).trans hcorrupt
  all_goals rw [hport]; rfl

/-- A reset sees of the mailbox only whether programming was interrupted, and of the acquisition unit nothing. -/
theorem afterReset_of_same {cause : ResetCause} {s t : State} {line : Bool} {mb : Mailbox} {a : Acquisition}
    (hmb : ∀ q img, mb.inProgress = some (.saveProgramming q img) ↔ s.mailbox.inProgress = some (.saveProgramming q img))
    (h : AfterReset cause { s with resetLine := line, mailbox := mb, acq := a } t) : AfterReset cause s t := by
  simpa only [AfterReset, ne_eq, hmb] using h

theorem resetBridge_resetLine (cause : ResetCause) (s : State) : (resetBridge cause s).resetLine = s.resetLine := by
  rw [resetBridge, (settleInlet_frame (performReset cause s)).kept, performReset, abandonProgramming_eq]

/-- Settles O44: the four causes carry out the same reset, after what each writes of the reset line, the mailbox and the
job line. -/
theorem resetsLeaveTheirValues : Obligations.ResetsLeaveTheirValues := by
  intro s
  refine ⟨?powerUp, fun hline => ?release, fun hawake hdrain hempty => ?drained, fun c hone htaken hempty => ?command,
    fun hawake hfunction hlevel hfalling => ?jobLine⟩
  case powerUp => exact ⟨_, rfl, afterReset_resetBridge .power s, resetBridge_resetLine .power s⟩
  case release =>
    refine ⟨_, congrArg Host.Outcome.next (if_pos hline), ?_, resetBridge_resetLine _ _⟩
    exact afterReset_of_same (fun _ _ => Iff.rfl) (afterReset_resetBridge .resetLine { s with resetLine := false })
  case drained =>
    have hdraining : draining s = true := decide_eq_true hdrain
    refine ⟨_, (unlessReset_of_awake hawake _).trans (congrArg Host.Outcome.next (if_pos ⟨hdraining, hempty⟩)),
      afterReset_resetBridge .command s, ?_⟩
    rw [resetBridge_resetLine]
    exact hawake
  case command =>
    have hidle : s.mailbox.inProgress = none := by
      obtain ⟨-, htaken, -⟩ := htaken
      unfold OneAtATime at hone
      rw [htaken] at hone
      cases hp : s.mailbox.inProgress with
      | none => rfl
      | some p =>
        rw [hp] at hone
        simp at hone
    have hreset : takeReset c (released s) = resetBridge .command (setProgress (some .reset) (released s)) := if_pos hempty
    refine ⟨_, (carryOut_of_taken (f := takeReset) htaken).trans (congrArg Host.Outcome.next hreset), ?_, ?_⟩
    · refine afterReset_of_same (s := s) (fun q img => ?_)
        (afterReset_resetBridge .command (setProgress (some .reset) (released s)))
      rw [hidle]
      exact ⟨(fun h => by cases h), (fun h => by cases h)⟩
    · rw [resetBridge_resetLine]
      exact htaken.1
  case jobLine =>
    have hstep : observeJobLine true s =
        resetBridge .jobLine { s with acq := { s.acq with jobLevel := some true } } := by
      simp only [observeJobLine, hlevel, Bool.false_eq_true, if_false, if_true, risingEdge, hfunction, hfalling]
    refine ⟨_, (unlessReset_of_awake hawake _).trans (congrArg Host.Outcome.next hstep), ?_, ?_⟩
    · exact afterReset_of_same (fun _ _ => Iff.rfl)
        (afterReset_resetBridge .jobLine { s with acq := { s.acq with jobLevel := some true } })
    · rw [resetBridge_resetLine]
      exact hawake

/-! ### The drain and the reset line (R17, R154) -/

/-- Settles O45: a held bridge makes no step that `unlessReset` guards. -/
theorem drainAndResetLineHold : Obligations.DrainAndResetLineHold := by
  refine ⟨fun s c htaken houtlet => ?_, fun s hawake => ?_, fun s i hline hpower hrelease hinlet hcompletion => ?_,
    fun s c xs ys r hline hreads htag hbefore hreserved => ?_⟩
  · exact (carryOut_of_taken (f := takeReset) htaken).trans (congrArg Host.Outcome.next (if_neg houtlet))
  · refine ⟨_, unlessReset_of_awake hawake
      (fun s => { s with resetLine := true, strobe := { s.strobe with lineUntil := none } }), rfl, rfl, ?_⟩
    rw [attentionLineHigh]
    exact Bool.true_or _
  · cases i with
    | powerUp => exact absurd rfl hpower
    | resetLineRelease => exact absurd rfl hrelease
    | inletTransactionTaken x => exact absurd rfl (hinlet x)
    | readCompletion c => exact absurd rfl (hcompletion c)
    | encoderTransition pair n => exact unlessReset_of_held hline fun s => observePair pair (setClock (s.clock + n) s)
    | resetLineAssert =>
      exact unlessReset_of_held hline fun s => { s with resetLine := true, strobe := { s.strobe with lineUntil := none } }
    | _ => exact unlessReset_of_held hline _
  · have hin : decide (stageTag r.stage = some c.tag) = true := decide_eq_true htag
    have hout : ∀ x ∈ xs, decide (stageTag x.stage = some c.tag) = false := fun x hx => decide_eq_false (hbefore x hx)
    have hfind : s.reads.find? (fun r => decide (stageTag r.stage = some c.tag)) = some r := by
      rw [hreads]
      exact find_at hout hin
    have hremove : removeFirst (fun r : BridgeRead => decide (stageTag r.stage = some c.tag)) s.reads = xs ++ ys := by
      rw [hreads]
      exact removeFirst_at hout hin
    have hdiscarded : reservedCompletion c s = { s with reads := xs ++ ys } := by
      unfold reservedCompletion
      dsimp only
      rw [hfind, hremove]
      exact if_pos hline
    exact congrArg Host.Outcome.next ((if_neg (by rw [Config.firstReservedTag]; omega)).trans hdiscarded)

/-! ### The job line (R151, R152) -/

/-- The level of the job line observed. -/
def lineObserved (level : Bool) (s : State) : State := { s with acq := { s.acq with jobLevel := some level } }

theorem exec_jobLineEdge {s : State} (h : Awake s) (level : Bool) :
    exec (.jobLineEdge level) s = .next (observeJobLine level s) := unlessReset_of_awake h _

theorem observeJobLine_edge {s : State} {level : Bool} (h : s.acq.jobLevel = some (!level)) :
    observeJobLine level s = if level then risingEdge (lineObserved level s) else fallingEdge (lineObserved level s) := by
  unfold observeJobLine
  rw [h]
  exact if_neg (by cases level <;> simp)

/-- An edge that the profile's function gives no action moves the level alone. -/
theorem observeJobLine_noAction {s : State} {level : Bool}
    (h : s.acq.jobLevel = none ∨ s.acq.jobLevel = some level ∨ s.profile.inForce.jobFunction = .none ∨
      (s.profile.inForce.jobFunction = .stop ∧ level = true) ∨
      (s.profile.inForce.jobFunction = .reset ∧ level = true ∧ s.acq.fallingSeen = false)) :
    observeJobLine level s = lineObserved level s := by
  by_cases hedge : s.acq.jobLevel = some (!level)
  · have hfunction : (lineObserved level s).profile.inForce.jobFunction = s.profile.inForce.jobFunction := rfl
    rw [observeJobLine_edge hedge]
    rcases h with h | h | h | ⟨h, rfl⟩ | ⟨h, rfl, hseen⟩
    · simp [h] at hedge
    · cases level <;> simp [h] at hedge
    · split_ifs
      · rw [risingEdge, hfunction, h]
      · rw [fallingEdge, hfunction, h]
    · rw [if_pos rfl, risingEdge, hfunction, h]
    · rw [if_pos rfl, risingEdge, hfunction, h]
      exact if_neg (ne_true_of_eq_false hseen)
  · unfold observeJobLine
    cases hold : s.acq.jobLevel with
    | none => rfl
    | some old =>
      refine if_pos ?_
      rw [hold] at hedge
      cases old <;> cases level <;> simp_all

/-- The request that an edge makes under a function of the job line (R151). -/
def requestOf : JobFunction → Bool → Option (State → RequestResult × State)
  | .hold, false => some requestHold
  | .hold, true => some requestResume
  | .run, false => some requestDisarm
  | .run, true => some requestArm
  | .stop, false => some requestAbort
  | _, _ => none

/-- An edge carries its function's request out. -/
theorem observeJobLine_request {s : State} {level : Bool} {request : State → RequestResult × State}
    (hedge : s.acq.jobLevel = some (!level)) (h : requestOf s.profile.inForce.jobFunction level = some request) :
    observeJobLine level s = lineRequest request (lineObserved level s) := by
  rw [observeJobLine_edge hedge]
  cases hf : s.profile.inForce.jobFunction <;> cases level <;> rw [hf] at h <;> cases h <;>
    simp only [risingEdge, fallingEdge, if_true, Bool.false_eq_true, if_false, lineObserved, hf]

/-- A line request, by the result of the request. -/
theorem lineRequest_eq (request : State → RequestResult × State) (s : State) :
    lineRequest request s =
      if refusal (unlessFaulted request s).1.code then bump .refusedLine (unlessFaulted request s).2
      else (unlessFaulted request s).2 := rfl

theorem unlessFaulted_of_not {s : State} (h : s.profile.faulted = false) (request : State → RequestResult × State) :
    unlessFaulted request s = request s := if_neg (ne_true_of_eq_false h)

theorem unlessFaulted_of_faulted {s : State} (h : s.profile.faulted = true) (request : State → RequestResult × State) :
    unlessFaulted request s = (plain .deviceFault, s) := if_pos h

/-- A refused request is counted and changes nothing else. -/
theorem lineRequest_refused {s : State} {r : ResultCode} {request : State → RequestResult × State}
    (h : unlessFaulted request s = (plain r, s)) (hr : refusal r = true) : lineRequest request s = bump .refusedLine s := by
  rw [lineRequest_eq, h]
  exact if_pos hr

/-- The results that are refusals (R152). -/
theorem refusal_iff (r : ResultCode) : refusal r = true ↔ r ∈ refusals := by
  cases r <;> decide

/-- A move that may not write the reads and the mailbox leaves the mailbox. -/
theorem Move.mailbox {web stamps : Prop} {s t : State} (h : Move web stamps False s t) : t.mailbox = s.mailbox := by
  cases h with
  | run h => rw [h.runFrame.kept]
  | quiet h =>
    obtain ⟨-, -, hmail⟩ := h.same.resolve_left id
    exact hmail
  | headLeaves => rw [headLeaves_eq]
  | arm _ _ => rw [armBlocks_eq]
  | respond hm => exact hm.elim
  | reset hm => exact hm.elim
  | _ => rfl

/-- A request is moves of the bridge that leave the mailbox alone. -/
theorem requestOf_moves {f : JobFunction} {level : Bool} {request : State → RequestResult × State}
    (h : requestOf f level = some request) (s : State) : Moves True True False s (request s).2 := by
  cases f <;> cases level <;> cases h
  · exact requestHold_moves s
  · exact requestResume_moves s
  · exact requestDisarm_moves s
  · exact requestArm_moves s
  · exact requestAbort_moves s

/-- The mailbox command of a line's request carries the same request out. -/
theorem exec_commanded {f : JobFunction} {level : Bool} {i : Instr} {c : TakenCommand}
    (hmem : (f, level, i, c.code) ∈ lineRequests) :
    ∃ request, requestOf f level = some request ∧
      ∀ s : State, Awake s → s.mailbox.taken = some c → exec i s = .next (commandedRequest request c (released s)) := by
  have hcarried {request : State → RequestResult × State} {code : Byte} (hcode : c.code = code) (s : State) (hawake : Awake s)
      (htaken : s.mailbox.taken = some c) :
      unlessReset (carryOut code (commandedRequest request)) s = .next (commandedRequest request c (released s)) :=
    carryOut_of_taken ⟨hawake, htaken, hcode⟩
  simp only [lineRequests, List.mem_cons, Prod.mk.injEq, List.not_mem_nil, or_false] at hmem
  rcases hmem with ⟨rfl, rfl, rfl, hc⟩ | ⟨rfl, rfl, rfl, hc⟩ | ⟨rfl, rfl, rfl, hc⟩ | ⟨rfl, rfl, rfl, hc⟩ | ⟨rfl, rfl, rfl, hc⟩
  · exact ⟨requestHold, rfl, hcarried hc⟩
  · exact ⟨requestResume, rfl, hcarried hc⟩
  · exact ⟨requestDisarm, rfl, hcarried hc⟩
  · exact ⟨requestArm, rfl, hcarried hc⟩
  · exact ⟨requestAbort, rfl, hcarried hc⟩

/-- A command that stands beside a line's request answers the request's result, and the line counts a refusal. -/
theorem request_side_by_side {s0 : State} {c : TakenCommand} {request : State → RequestResult × State} {i : Instr}
    (hsettled : HeadSettled s0) (htaken : s0.mailbox.taken = none)
    (hmoves : ∀ s, Moves True True False s (request s).2)
    (hexec : ∀ s : State, Awake s → s.mailbox.taken = some c → exec i s = .next (commandedRequest request c (released s)))
    (hawake : Awake s0) :
    ∃ t result data,
      exec i { s0 with mailbox := { s0.mailbox with taken := some c } } = .next (answered c result data t) ∧
        lineRequest request s0 =
          (if result ∈ refusals then
            { t with counters := { t.counters with refusedLine := satInc t.counters.refusedLine } }
          else t) ∧
        t.mailbox = s0.mailbox := by
  have hpath : Moves True True False s0 (unlessFaulted request s0).2 := unlessFaulted_moves (hmoves s0)
  have hmailbox : (unlessFaulted request s0).2.mailbox = s0.mailbox :=
    hpath.keep (P := fun t => t.mailbox = s0.mailbox) (fun _ _ hs h => (Move.mailbox h).trans hs) rfl
  have hlist : HeadSettled (unlessFaulted request s0).2 := hpath.keep (fun _ _ hs h => h.headSettled hs) hsettled
  have hnone (u : State) (hu : u.mailbox.taken = none) : released u = u := by
    rw [released, ← hu]
  have hreleased : released { s0 with mailbox := { s0.mailbox with taken := some c } } = s0 := hnone s0 htaken
  refine ⟨(unlessFaulted request s0).2, (unlessFaulted request s0).1.code, (unlessFaulted request s0).1.data, ?_, ?_,
    hmailbox⟩
  · have hanswer := respond_released (c := c) (r := (unlessFaulted request s0).1.code)
      (d := (unlessFaulted request s0).1.data) hlist.1
    rw [hnone _ (hmailbox ▸ htaken)] at hanswer
    rw [hexec { s0 with mailbox := { s0.mailbox with taken := some c } } hawake rfl, hreleased, ← hanswer]
    rfl
  · simp only [lineRequest_eq, refusal_iff]
    rfl

/-- The edges at which the request of the line is refused (R142, R145 to R147, R149, R151, R152). -/
theorem request_refused {s : State} {level : Bool}
    (h : s.profile.faulted = true ∧ s.profile.inForce.jobFunction ∈ [JobFunction.hold, .run] ∨
      s.profile.faulted = true ∧ s.profile.inForce.jobFunction = .stop ∧ level = false ∨
      s.acq.state = .disarmed ∧ s.profile.inForce.jobFunction = .hold ∨
      s.acq.state = .disarmed ∧ s.profile.inForce.jobFunction ∈ [JobFunction.run, .stop] ∧ level = false ∨
      s.acq.state = .disarmed ∧ s.maps.live = none ∧ s.profile.inForce.jobFunction = .run ∨
      s.acq.state ≠ .disarmed ∧ s.profile.inForce.jobFunction = .run ∧ level = true ∨
      s.acq.state = .draining ∧ s.profile.inForce.jobFunction = .hold ∨
      s.acq.state = .draining ∧ s.profile.inForce.jobFunction = .run ∧ level = false ∨
      s.profile.inForce.jobFunction = .hold ∧ level = false ∧
        ¬(s.acq.state = .running ∧ s.acq.request = .none) ∧ ¬(s.acq.state = .held ∧ s.acq.request = .resume) ∨
      s.profile.inForce.jobFunction = .hold ∧ level = true ∧
        ¬(s.acq.state = .held ∧ s.acq.request = .none) ∧ ¬(s.acq.state = .running ∧ s.acq.request = .hold)) :
    ∃ request r, requestOf s.profile.inForce.jobFunction level = some request ∧ refusal r = true ∧
      unlessFaulted request (lineObserved level s) = (plain r, lineObserved level s) := by
  have hfaulted {request : State → RequestResult × State} (hf : s.profile.faulted = true) :
      unlessFaulted request (lineObserved level s) = (plain .deviceFault, lineObserved level s) :=
    unlessFaulted_of_faulted (s := lineObserved level s) hf _
  have hsound {request : State → RequestResult × State} {r : ResultCode}
      (hreq : requestOf s.profile.inForce.jobFunction level = some request) (hr : refusal r = true)
      (h : request (lineObserved level s) = (plain r, lineObserved level s)) :
      ∃ request r, requestOf s.profile.inForce.jobFunction level = some request ∧ refusal r = true ∧
        unlessFaulted request (lineObserved level s) = (plain r, lineObserved level s) := by
    cases hf : s.profile.faulted with
    | true => exact ⟨request, .deviceFault, hreq, rfl, hfaulted hf⟩
    | false => exact ⟨request, r, hreq, hr, (unlessFaulted_of_not (s := lineObserved level s) hf _).trans h⟩
  have hhold (h1 : ¬(s.acq.state = .running ∧ s.acq.request = .none)) (h2 : ¬(s.acq.state = .held ∧ s.acq.request = .resume)) :
      requestHold (lineObserved level s) = (plain .already, lineObserved level s) := by
    rw [requestHold_eq]
    exact (if_neg h1).trans (if_neg h2)
  have hresume (h1 : ¬(s.acq.state = .held ∧ s.acq.request = .none)) (h2 : ¬(s.acq.state = .running ∧ s.acq.request = .hold)) :
      requestResume (lineObserved level s) = (plain .already, lineObserved level s) := by
    rw [requestResume_eq]
    exact (if_neg h1).trans (if_neg h2)
  have hno {a : AcqState} {p : Prop} {b : AcqState} (ha : s.acq.state = a) (hne : a ≠ b) : ¬(s.acq.state = b ∧ p) :=
    fun ⟨h, _⟩ => hne (ha.symm.trans h)
  have hoff {a : AcqState} (ha : s.acq.state = a) (hr : a ≠ .running) (hh : a ≠ .held)
      (hfunction : s.profile.inForce.jobFunction = .hold) :
      ∃ request r, requestOf s.profile.inForce.jobFunction level = some request ∧ refusal r = true ∧
        unlessFaulted request (lineObserved level s) = (plain r, lineObserved level s) := by
    rcases Bool.eq_false_or_eq_true level with hlevel | hlevel
    · exact hsound (by rw [hfunction, hlevel]; rfl) rfl (hresume (hno ha hh) (hno ha hr))
    · exact hsound (by rw [hfunction, hlevel]; rfl) rfl (hhold (hno ha hr) (hno ha hh))
  have hdisarm (hstate : s.acq.state = .disarmed ∨ s.acq.state = .draining) :
      requestDisarm (lineObserved level s) = (plain .already, lineObserved level s) := requestDisarm_of_already hstate
  rcases h with ⟨hf, hfunction⟩ | ⟨hf, hfunction, rfl⟩ | ⟨hstate, hfunction⟩ | ⟨hstate, hfunction, rfl⟩ |
    ⟨hstate, hlive, hfunction⟩ | ⟨hstate, hfunction, rfl⟩ | ⟨hstate, hfunction⟩ | ⟨hstate, hfunction, rfl⟩ |
    ⟨hfunction, rfl, h1, h2⟩ | ⟨hfunction, rfl, h1, h2⟩
  · obtain ⟨request, hrequest⟩ : ∃ request, requestOf s.profile.inForce.jobFunction level = some request := by
      simp only [List.mem_cons, List.not_mem_nil, or_false] at hfunction
      rcases hfunction with h | h <;> rw [h] <;> cases level <;> exact ⟨_, rfl⟩
    exact ⟨request, .deviceFault, hrequest, rfl, hfaulted hf⟩
  · exact ⟨requestAbort, .deviceFault, by rw [hfunction]; rfl, rfl, hfaulted hf⟩
  · exact hoff hstate (by decide) (by decide) hfunction
  · simp only [List.mem_cons, List.not_mem_nil, or_false] at hfunction
    rcases hfunction with h | h
    · exact hsound (by rw [h]; rfl) rfl (hdisarm (.inl hstate))
    · refine hsound (request := requestAbort) (r := .already) (by rw [h]; rfl) rfl ?_
      rw [requestAbort, show (lineObserved false s).acq.state = .disarmed from hstate]
  · rcases Bool.eq_false_or_eq_true level with hlevel | hlevel
    · exact hsound (r := .noMap) (by rw [hfunction, hlevel]; rfl) rfl
        (requestArm_of_noMap (s := lineObserved level s) hstate hlive)
    · exact hsound (by rw [hfunction, hlevel]; rfl) rfl (hdisarm (.inl hstate))
  · exact hsound (r := .busy) (by rw [hfunction]; rfl) rfl (requestArm_of_armed (s := lineObserved true s) hstate)
  · exact hoff hstate (by decide) (by decide) hfunction
  · exact hsound (by rw [hfunction]; rfl) rfl (hdisarm (.inr hstate))
  · exact hsound (by rw [hfunction]; rfl) rfl (hhold h1 h2)
  · exact hsound (by rw [hfunction]; rfl) rfl (hresume h1 h2)

/-- A request that is granted with OK is what the line's edge does. -/
theorem lineRequest_granted {s t : State} {request : State → RequestResult × State} (hf : s.profile.faulted = false)
    (h : request s = (plain .ok, t)) : lineRequest request s = t := by
  rw [lineRequest_eq, unlessFaulted_of_not hf, h]
  rfl

/-- Settles O46: an edge with an action makes a request, and the rest follows from the request's result. -/
theorem jobLineRequests : Obligations.JobLineRequests := by
  intro s level hawake
  rw [exec_jobLineEdge hawake]
  refine ⟨fun h => congrArg Host.Outcome.next (observeJobLine_noAction h), fun hedge => ⟨fun hfunction hlevel => ?falling,
    fun hfunction hlevel hf hstate hreq => ?hold, fun hfunction hlevel hf hstate hreq => ?resume,
    fun hfunction hf hcancel => ?cancels, fun i c s0 hs htaken hquiet hmem hs0 => ?beside, fun h => ?refused⟩⟩
  case falling =>
    subst hlevel
    refine congrArg Host.Outcome.next ?_
    rw [observeJobLine_edge hedge, if_neg Bool.false_ne_true, fallingEdge,
      show (lineObserved false s).profile.inForce.jobFunction = .reset from hfunction]
    rfl
  case hold =>
    subst hlevel
    rw [observeJobLine_request (request := requestHold) hedge (by rw [hfunction]; rfl)]
    refine congrArg Host.Outcome.next (lineRequest_granted (s := lineObserved false s) hf ?_)
    rw [requestHold_eq]
    exact if_pos ⟨hstate, hreq⟩
  case resume =>
    subst hlevel
    rw [observeJobLine_request (request := requestResume) hedge (by rw [hfunction]; rfl)]
    refine congrArg Host.Outcome.next (lineRequest_granted (s := lineObserved true s) hf ?_)
    rw [requestResume_eq]
    exact if_pos ⟨hstate, hreq⟩
  case cancels =>
    have hrunning {p : Prop} (h : s.acq.state = .held) : ¬(s.acq.state = .running ∧ p) := fun ⟨h', _⟩ => by simp [h] at h'
    have hheld {p : Prop} (h : s.acq.state = .running) : ¬(s.acq.state = .held ∧ p) := fun ⟨h', _⟩ => by simp [h] at h'
    rcases hcancel with ⟨rfl, hstate, hreq⟩ | ⟨rfl, hstate, hreq⟩
    · rw [observeJobLine_request (request := requestHold) hedge (by rw [hfunction]; rfl)]
      refine congrArg Host.Outcome.next (lineRequest_granted (s := lineObserved false s) hf ?_)
      rw [requestHold_eq]
      exact (if_neg (hrunning hstate)).trans (if_pos ⟨hstate, hreq⟩)
    · rw [observeJobLine_request (request := requestResume) hedge (by rw [hfunction]; rfl)]
      refine congrArg Host.Outcome.next (lineRequest_granted (s := lineObserved true s) hf ?_)
      rw [requestResume_eq]
      exact (if_neg (hheld hstate)).trans (if_pos ⟨hstate, hreq⟩)
  case beside =>
    obtain ⟨request, hrequest, hexec⟩ := exec_commanded hmem
    obtain rfl : s0 = lineObserved level s := hs0
    obtain ⟨t, result, data, hcommand, hline, hmailbox⟩ := request_side_by_side (s0 := lineObserved level s)
      ⟨listSettled_of_same hs rfl rfl, hquiet⟩ htaken (requestOf_moves hrequest) hexec hawake
    exact ⟨t, result, data, hcommand, congrArg Host.Outcome.next ((observeJobLine_request hedge hrequest).trans hline), hmailbox⟩
  case refused =>
    obtain ⟨request, r, hrequest, hr, hresult⟩ := request_refused h
    rw [observeJobLine_request hedge hrequest, lineRequest_refused hresult hr]
    rfl

end Sys2Proof.ResetProofs
end

section
/-! SUPPORT and PROOFS. The aperture decoder (sections 1.2 and 1.4): how a write is cut into pieces. -/

namespace Sys2Proof.InletProofs

open Sys2Proof Sys2Proof.Machine Sys2Proof.AcquisitionProofs Sys2Proof.RunProofs Sys2Proof.PathProofs

/-! ### Pieces that follow one another (R4, R5) -/

theorem piecesFollow_append {m : SteeringMap} {a : Nat} {ps qs : List Piece} (hp : piecesFollow m a ps)
    (hq : piecesFollow m (a + (ps.flatMap piecePayload).length) qs) : piecesFollow m a (ps ++ qs) := by
  induction ps generalizing a with
  | nil => simpa using hq
  | cons p ps ih =>
    obtain ⟨haddr, hne, hproper, hrest⟩ := hp
    refine ⟨haddr, hne, hproper, ih hrest ?_⟩
    rw [List.flatMap_cons, List.length_append] at hq
    rwa [Nat.add_assoc]

theorem outsidePiece_follows {m : SteeringMap} {a : Nat} {p : List Byte}
    (h : p ≠ [] → a + p.length ≤ m.base ∨ m.base + 8 * windowBytes m ≤ a) : piecesFollow m a (outsidePiece a p) := by
  unfold outsidePiece
  split
  next => trivial
  next hne => exact ⟨rfl, hne, h hne, trivial⟩

theorem outsidePiece_payload (a : Nat) (p : List Byte) : (outsidePiece a p).flatMap piecePayload = p := by
  unfold outsidePiece
  split
  next h => rw [h]; rfl
  next => simp [piecePayload]

theorem outsidePiece_slots (a : Nat) (p : List Byte) : (outsidePiece a p).filterMap pieceSlot = [] := by
  unfold outsidePiece
  split <;> rfl

/-! ### The cut of the inside range (R5) -/

/-- Slots numbered through the aperture, lane after lane. -/
def slotNumber (m : SteeringMap) (q : Nat × Nat) : Nat := q.1 * m.S + q.2

/-- The lane, slot and offset of a byte u bytes above the aperture base. -/
theorem cut_coordinates {m : SteeringMap} {u : Nat} (hS : 0 < m.S) (hL : 0 < lineBytes m) (hu : u < 8 * windowBytes m) :
    u / windowBytes m < 8 ∧ u % windowBytes m / lineBytes m < m.S ∧ u % windowBytes m % lineBytes m = u % lineBytes m ∧
      slotNumber m (u / windowBytes m, u % windowBytes m / lineBytes m) = u / lineBytes m := by
  have hW : windowBytes m = lineBytes m * m.S := Nat.mul_comm _ _
  have hWpos : 0 < windowBytes m := hW ▸ Nat.mul_pos hL hS
  have hslot : u % windowBytes m / lineBytes m = u / lineBytes m % m.S := by
    rw [hW, Nat.mod_mul_right_div_self]
  refine ⟨Nat.div_lt_of_lt_mul (by rwa [Nat.mul_comm]), ?_, ?_, ?_⟩
  · rw [hslot]
    exact Nat.mod_lt _ hS
  · rw [hW, Nat.mod_mul_right_mod]
  · rw [slotNumber, hslot, hW, ← Nat.div_div_eq_div_mul, Nat.mul_comm]
    exact Nat.div_add_mod _ _

/-- A byte of the aperture stands at its lane's window, its slot and its offset. -/
theorem cut_address {m : SteeringMap} {u : Nat} (h : u / windowBytes m < 8) :
    m.base + (Fin.ofNat 8 (u / windowBytes m)).val * windowBytes m + u % windowBytes m / lineBytes m * lineBytes m +
      u % windowBytes m % lineBytes m = m.base + u := by
  have hlane : (Fin.ofNat 8 (u / windowBytes m)).val = u / windowBytes m := Nat.mod_eq_of_lt h
  have hline := Nat.div_add_mod (u % windowBytes m) (lineBytes m)
  have hwindow := Nat.div_add_mod u (windowBytes m)
  rw [hlane]
  rw [Nat.mul_comm] at hline hwindow
  omega

/-- The cut of bytes that begin u bytes above the base: the pieces follow one another, carry the bytes, and name slots
that rise from that of the first byte on. -/
theorem cutPieces_spec {m : SteeringMap} (hS : 0 < m.S) (hL : 0 < lineBytes m) :
    ∀ (fuel u : Nat) (bs : List Byte), bs.length ≤ fuel → u + bs.length ≤ 8 * windowBytes m →
      piecesFollow m (m.base + u) (cutPieces m fuel u bs) ∧ (cutPieces m fuel u bs).flatMap piecePayload = bs ∧
        (((cutPieces m fuel u bs).filterMap pieceSlot).map (slotNumber m)).Pairwise (· < ·) ∧
        ∀ k ∈ ((cutPieces m fuel u bs).filterMap pieceSlot).map (slotNumber m), u / lineBytes m ≤ k
  | 0, u, bs, hfuel, _ => by
    obtain rfl : bs = [] := List.eq_nil_of_length_eq_zero (by omega)
    exact ⟨trivial, rfl, List.Pairwise.nil, fun k hk => by cases hk⟩
  | fuel + 1, u, [], _, _ => ⟨trivial, rfl, List.Pairwise.nil, fun k hk => by cases hk⟩
  | fuel + 1, u, b :: bs, hfuel, hend => by
    have hu : u < 8 * windowBytes m := by
      rw [List.length_cons] at hend
      omega
    obtain ⟨hlane, hslot, hoffset, hnumber⟩ := cut_coordinates hS hL hu
    have hx : u % lineBytes m < lineBytes m := Nat.mod_lt _ hL
    rw [cutPieces]
    generalize hn : min (b :: bs).length (lineBytes m - u % windowBytes m % lineBytes m) = n
    rw [hoffset] at hn
    have hpos : 1 ≤ n := by rw [← hn, List.length_cons]; omega
    have hle : n ≤ (b :: bs).length := by omega
    have hrest : ((b :: bs).drop n).length = (b :: bs).length - n := List.length_drop
    have htake : ((b :: bs).take n).length = n := by rw [List.length_take]; omega
    obtain ⟨hfollow, hpayload, hrise, hlow⟩ := cutPieces_spec hS hL fuel (u + n) ((b :: bs).drop n)
      (by rw [hrest]; simp only [List.length_cons] at hfuel ⊢; omega) (by rw [hrest]; omega)
    have hnext (k : Nat) (hk : k ∈ ((cutPieces m fuel (u + n) ((b :: bs).drop n)).filterMap pieceSlot).map (slotNumber m)) :
        u / lineBytes m < k := by
      by_cases hlast : (b :: bs).length ≤ n
      · rw [List.drop_of_length_le hlast] at hk
        cases fuel <;> cases hk
      · have hdiv : u / lineBytes m + 1 = (u + n) / lineBytes m := by
          have hu : u + n = lineBytes m * (u / lineBytes m + 1) := by
            have := Nat.div_add_mod u (lineBytes m)
            rw [Nat.mul_add, Nat.mul_one]
            omega
          rw [hu, Nat.mul_div_cancel_left _ hL]
        have := hlow k hk
        omega
    have hkey : slotNumber m ((Fin.ofNat 8 (u / windowBytes m)).val, u % windowBytes m / lineBytes m) = u / lineBytes m := by
      rw [show (Fin.ofNat 8 (u / windowBytes m)).val = u / windowBytes m from Nat.mod_eq_of_lt hlane]
      exact hnumber
    refine ⟨⟨cut_address hlane, ?_, ⟨hslot, ?_⟩, ?_⟩, ?_, ?_, ?_⟩
    · exact List.ne_nil_of_length_pos (Nat.lt_of_lt_of_eq hpos htake.symm)
    · rw [htake, hoffset]
      omega
    · rw [piecePayload, htake, Nat.add_assoc]
      exact hfollow
    · rw [List.flatMap_cons, hpayload, piecePayload, List.take_append_drop]
    · rw [List.filterMap_cons, pieceSlot, List.map_cons, hkey]
      exact List.pairwise_cons.2 ⟨hnext, hrise⟩
    · intro k hk
      rw [List.filterMap_cons, pieceSlot, List.map_cons, hkey] at hk
      rcases List.mem_cons.1 hk with rfl | hk
      · exact le_rfl
      · exact (hnext k hk).le

/-! ### A write whole (R4) -/

/-- The pieces of a write, the aperture of a map in force. -/
theorem writePieces_spec {m : SteeringMap} (h : MapInRange m) (a : Nat) (p : List Byte) :
    piecesFollow m a (writePieces (some (m.base, m.base + 8 * windowBytes m, m)) a p) ∧
      (writePieces (some (m.base, m.base + 8 * windowBytes m, m)) a p).flatMap piecePayload = p ∧
      ((writePieces (some (m.base, m.base + 8 * windowBytes m, m)) a p).filterMap pieceSlot).Nodup := by
  obtain ⟨hS, hL⟩ := windowBytes_pos h
  rw [writePieces]
  split_ifs with hside
  · refine ⟨outsidePiece_follows fun _ => hside, outsidePiece_payload a p, ?_⟩
    rw [outsidePiece_slots]
    exact List.nodup_nil
  · obtain ⟨hlow, hhigh⟩ := not_or.1 hside
    have hbelow : (p.take (m.base - a)).length = min (m.base - a) p.length := List.length_take
    have hinner : (List.take (m.base + 8 * windowBytes m - max a m.base) (p.drop (m.base - a))).length =
        min (m.base + 8 * windowBytes m - max a m.base) (p.length - (m.base - a)) := by
      rw [List.length_take, List.length_drop]
    obtain ⟨hfollow, hpayload, hrise, -⟩ := cutPieces_spec hS hL
      (List.take (m.base + 8 * windowBytes m - max a m.base) (p.drop (m.base - a))).length (max a m.base - m.base) _ le_rfl
      (by rw [hinner]; omega)
    have hstart : m.base + (max a m.base - m.base) = a + (p.take (m.base - a)).length := by rw [hbelow]; omega
    have hwhole : p.take (m.base - a) ++
        (List.take (m.base + 8 * windowBytes m - max a m.base) (p.drop (m.base - a)) ++
          p.drop (m.base + 8 * windowBytes m - a)) = p := by
      have hsplit : p.drop (m.base + 8 * windowBytes m - a) =
          (p.drop (m.base - a)).drop (m.base + 8 * windowBytes m - max a m.base) := by
        rw [List.drop_drop]
        congr 1
        omega
      rw [hsplit, List.take_append_drop, List.take_append_drop]
    refine ⟨?_, ?_, ?_⟩
    · refine piecesFollow_append (piecesFollow_append (outsidePiece_follows fun hne => ?_) ?_) ?_
      · have hpos := List.length_pos_of_ne_nil hne
        left
        rw [hbelow] at hpos ⊢
        omega
      · rw [outsidePiece_payload, ← hstart]
        exact hfollow
      · rw [List.flatMap_append, outsidePiece_payload, hpayload, List.length_append, hbelow, hinner]
        unfold outsidePiece
        split
        next => trivial
        next hne =>
          have hreach : m.base + 8 * windowBytes m < a + p.length := by
            by_contra hnot
            exact hne (List.drop_eq_nil_of_le (by omega))
          refine ⟨?_, hne, ?_, trivial⟩
          · show m.base + 8 * windowBytes m = _
            omega
          · right
            exact le_rfl
    · rw [List.flatMap_append, List.flatMap_append, outsidePiece_payload, outsidePiece_payload, hpayload, List.append_assoc]
      exact hwhole
    · rw [List.filterMap_append, List.filterMap_append, outsidePiece_slots, outsidePiece_slots, List.nil_append,
        List.append_nil]
      exact List.Nodup.of_map (slotNumber m) (hrise.imp ne_of_lt)

/-- Settles O3: with the aperture present the pieces are those of `writePieces_spec`, and with it absent the write is one
outside piece. -/
theorem writeIsCutIntoPieces : Obligations.WriteIsCutIntoPieces := by
  intro a p s hs hp
  have hheld : s.inletHeld = [] := hs.2.2.2
  have htaken : exec (.inletTransactionTaken (.write a p)) s = .next { s with decode := writePieces (aperture s) a p } := by
    rw [exec_inlet_of_ready hs]
    simp only [takeTransaction, ← hheld]
    rfl
  refine ⟨fun m hf hm hrange => ?_, fun habsent => ?_⟩
  · rw [aperture_some hf hm] at htaken
    exact ⟨_, htaken, writePieces_spec hrange a p⟩
  · rw [aperture_none habsent, writePieces, outsidePiece, if_neg hp] at htaken
    exact htaken

end Sys2Proof.InletProofs
end

section
/-! SUPPORT and PROOFS. The grant of the inlet stream (sections 1.2 and 1.6): what the port holds has no part in what a piece
does, and waits behind it. -/

namespace Sys2Proof.GrantProofs

open Sys2Proof Sys2Proof.Machine Sys2Proof.AcquisitionProofs Sys2Proof.RunProofs Sys2Proof.PathProofs

/-! ### What the port holds has no part in a piece -/

/-- The state with other transactions held at the port. -/
def holding (xs : List InletTxn) (s : State) : State := { s with inletHeld := xs }

section
variable (xs : List InletTxn) (s : State)

theorem settleList_holding : settleList (holding xs s) = holding xs (settleList s) := by
  have hlist : (holding xs s).list = s.list := rfl
  unfold settleList
  rw [hlist]
  split_ifs <;> rfl

theorem enqueue_holding (j : Job) : enqueue j (holding xs s) = holding xs (enqueue j s) :=
  settleList_holding xs { s with list := { s.list with jobs := s.list.jobs ++ [j] } }

theorem removeJobs_holding (p : Job → Bool) : removeJobs p (holding xs s) = holding xs (removeJobs p s) := by
  unfold removeJobs
  exact settleList_holding xs { s with list := _ }

theorem offerFill_holding (e : Entry) (row c len : Nat) (v : List Byte) :
    offerFill e row c len v (holding xs s) = holding xs (offerFill e row c len v s) := by
  have hcount : fillCount (holding xs s) = fillCount s := rfl
  unfold offerFill
  rw [hcount, enqueue_holding]
  split_ifs <;> rfl

theorem queueRecord_holding (e : Entry) (st : RecordStatus) :
    queueRecord e st (holding xs s) = holding xs (queueRecord e st s) :=
  enqueue_holding xs { s with table := { s.table with droppedBefore := 0 } } _

theorem adoptStaged_holding : adoptStaged (holding xs s) = holding xs (adoptStaged s) := by
  have hmaps : (holding xs s).maps = s.maps := rfl
  unfold adoptStaged
  rw [hmaps]
  cases s.maps.staged <;> rfl

theorem enterDisarmed_holding : enterDisarmed (holding xs s) = holding xs (enterDisarmed s) :=
  congrArg (raise .runEnded) (adoptStaged_holding xs (clearRing (trackerIdle (setAcq .disarmed .none s))))

theorem reportEmpty_holding : reportEmpty (holding xs s) = holding xs (reportEmpty s) := by
  have hacq : (holding xs s).acq = s.acq := rfl
  have htable : (holding xs s).table = s.table := rfl
  unfold reportEmpty
  rw [enterDisarmed_holding, hacq, htable]
  split_ifs <;> rfl

theorem closeEntry_holding (e : Entry) : closeEntry e (holding xs s) = holding xs (closeEntry e s) := by
  have hqueued := queueRecord_holding xs (bindJobs e.key (e.buffer.getD { base := 0, stride := 0, capacity := 0 }) s) e .clean
  exact (congrArg (fun u => reportEmpty (removeEntry e.key u)) hqueued).trans
    (reportEmpty_holding xs (removeEntry e.key (queueRecord e .clean _)))

theorem freeEntry_holding (e : Entry) : freeEntry e (holding xs s) = holding xs (freeEntry e s) :=
  (congrArg (fun u => reportEmpty (removeEntry e.key u)) (removeJobs_holding xs s (isFillOf e.key))).trans
    (reportEmpty_holding xs (removeEntry e.key (removeJobs (isFillOf e.key) s)))

theorem testEntry_holding (k : Nat) : testEntry k (holding xs s) = holding xs (testEntry k s) := by
  have hfind : findEntry (holding xs s) k = findEntry s k := rfl
  have hmaps : (holding xs s).maps = s.maps := rfl
  unfold testEntry
  rw [hfind, hmaps]
  cases findEntry s k with
  | none => rfl
  | some e =>
    cases s.maps.live with
    | none => rfl
    | some m =>
      dsimp only
      split_ifs
      · cases e.state
        · rfl
        · exact closeEntry_holding xs s e
        · exact freeEntry_holding xs s e
      · rfl

/-- What commutes with the port's list at each step does so over several. -/
theorem foldl_holding {α : Type} {f : α → State → State} (hf : ∀ a s, f a (holding xs s) = holding xs (f a s)) (as : List α) :
    as.foldl (fun t a => f a t) (holding xs s) = holding xs (as.foldl (fun t a => f a t) s) := by
  induction as generalizing s with
  | nil => rfl
  | cons a as ih => rw [List.foldl_cons, hf, ih, List.foldl_cons]

theorem closeTests_holding : closeTests (holding xs s) = holding xs (closeTests s) :=
  foldl_holding xs s (fun k s => testEntry_holding xs s k) (s.table.entries.map Entry.key)

theorem takeChoice_holding : takeChoice (holding xs s) = ((takeChoice s).1, holding xs (takeChoice s).2) := by
  have hchoices : (holding xs s).choices = s.choices := rfl
  unfold takeChoice
  rw [hchoices]
  cases s.choices <;> rfl

theorem freeOrder_holding {α : Type} (as : List α) :
    freeOrder as (holding xs s) = ((freeOrder as s).1, holding xs (freeOrder as s).2) := by
  match as with
  | [] => rfl
  | [a] => rfl
  | a :: b :: rest =>
    rw [freeOrder, takeChoice_holding]
    rfl

theorem forEachOpenly_holding {α : Type} {f : α → State → State} (hf : ∀ a s, f a (holding xs s) = holding xs (f a s))
    (offers : α → Bool) (as : List α) :
    forEachOpenly offers as f (holding xs s) = holding xs (forEachOpenly offers as f s) := by
  unfold forEachOpenly
  rw [freeOrder_holding]
  exact foldl_holding xs _ hf _

theorem retireLine_holding (l : Lane) (slot : Nat) :
    retireLine l slot (holding xs s) = holding xs (retireLine l slot s) := by
  have hslot : slotRecord (holding xs s) l slot = slotRecord s l slot := rfl
  unfold retireLine
  rw [hslot]
  generalize slotRecord s l slot = r
  obtain ⟨state, mark, row, ref, stamp, made⟩ := r
  cases ref with
  | none => rfl
  | some ref => cases ref <;> rfl

theorem fillLine_holding (m : SteeringMap) (l : Lane) (slot : Nat) (e : Entry) (y1 y2 : Nat) :
    fillLine m l slot e y1 y2 (holding xs s) = holding xs (fillLine m l slot e y1 y2 s) := by
  have hslot : slotRecord (holding xs s) l slot = slotRecord s l slot := rfl
  have hfill := offerFill_holding xs (setSlot l slot { slotRecord s l slot with fillMade := true } s)
  unfold fillLine
  rw [hslot]
  split_ifs
  · exact hfill e _ _ _ _
  · rfl

theorem forceRetire_holding (m : SteeringMap) (short : Bool) (l : Lane) (slot : Nat) :
    forceRetire m short l slot (holding xs s) = holding xs (forceRetire m short l slot s) := by
  have hslot : slotRecord (holding xs s) l slot = slotRecord s l slot := rfl
  have hentry (r : SlotRecord) : recordEntry (holding xs s) r = recordEntry s r := rfl
  unfold forceRetire
  rw [hslot]
  dsimp only
  rw [hentry]
  cases recordEntry s (slotRecord s l slot) with
  | none => exact retireLine_holding xs s l slot
  | some e =>
    dsimp only
    rw [fillLine_holding]
    cases short
    · exact retireLine_holding xs _ l slot
    · exact retireLine_holding xs (updateEntry e.key (countShort l) _) l slot

theorem goOutOfStep_holding (m : SteeringMap) (l : Lane) :
    goOutOfStep m l (holding xs s) = holding xs (goOutOfStep m l s) :=
  forEachOpenly_holding xs (raise .laneFault { s with ring := { s.ring with step := s.ring.step.set l .outOfStep } })
    (fun slot s => forceRetire_holding xs s m false l slot) _ _

theorem stampPiece_holding (m : SteeringMap) (l : Lane) (slot x : Nat) (bytes : List Byte) :
    stampPiece m l slot x bytes (holding xs s) = holding xs (stampPiece m l slot x bytes s) := by
  by_cases h : (slotRecord s l slot).stamp = .unchecked
  · have hstamp : stampOf m l slot x bytes (holding xs s) = stampOf m l slot x bytes s := rfl
    have hentry : recordEntry (holding xs s) (slotRecord (holding xs s) l slot) = recordEntry s (slotRecord s l slot) := rfl
    rw [stampPiece_unchecked h, stampPiece_unchecked (s := holding xs s) h, hstamp, hentry]
    cases recordEntry s (slotRecord s l slot) with
    | none => rfl
    | some e =>
      unfold mismatchCounted
      dsimp only
      split_ifs <;> rfl
  · rw [stampPiece_decided h, stampPiece_decided (s := holding xs s) h]

theorem gapAccounted_holding (m : SteeringMap) (l : Lane) (slot x n : Nat) :
    gapAccounted m l slot x n (holding xs s) = holding xs (gapAccounted m l slot x n s) := by
  have hslot : slotRecord (holding xs s) l slot = slotRecord s l slot := rfl
  have hentry (r : SlotRecord) : recordEntry (holding xs s) r = recordEntry s r := rfl
  unfold gapAccounted
  dsimp only
  rw [hslot, hentry]
  cases recordEntry s (slotRecord s l slot) with
  | none => rfl
  | some e => exact congrArg (updateEntry e.key _) (fillLine_holding xs s m l slot e _ _)

theorem disposeRun_holding (m : SteeringMap) (l : Lane) (row : Nat) (e : Option Entry) (x : Nat) (bytes : List Byte)
    (lo hi : Nat) : disposeRun m l row e x bytes lo hi (holding xs s) = holding xs (disposeRun m l row e x bytes lo hi s) := by
  unfold disposeRun
  cases e with
  | none => rfl
  | some e =>
    dsimp only
    cases e.state with
    | opening => rfl
    | dropped => rfl
    | opened =>
      dsimp only
      split_ifs
      · split <;> rfl
      · rfl

theorem markRaised_holding (m : SteeringMap) (l : Lane) (slot mark : Nat) :
    markRaised m l slot mark (holding xs s) = holding xs (markRaised m l slot mark s) := by
  unfold markRaised
  dsimp only
  split_ifs
  · exact retireLine_holding xs (setSlot l slot { slotRecord s l slot with fillMark := mark } s) l slot
  · rfl

theorem accountOpen_holding (m : SteeringMap) (l : Lane) (slot x : Nat) (bytes : List Byte) :
    accountOpen m l slot x bytes (holding xs s) = holding xs (accountOpen m l slot x bytes s) := by
  have h2 : holding xs (stampPiece m l slot x bytes (gapAccounted m l slot x bytes.length s)) =
      stampPiece m l slot x bytes (gapAccounted m l slot x bytes.length (holding xs s)) := by
    rw [gapAccounted_holding, stampPiece_holding]
  generalize hs2 : stampPiece m l slot x bytes (gapAccounted m l slot x bytes.length s) = s2 at h2
  have hrun : runDisposed m l slot x bytes (holding xs s) (holding xs s2) = holding xs (runDisposed m l slot x bytes s s2) :=
    disposeRun_holding xs s2 m l _ _ x bytes _ _
  have h5 : holding xs (markRaised m l slot (markAfter m (slotRecord s l slot).fillMark x bytes.length)
      (runDisposed m l slot x bytes s s2)) =
      markRaised m l slot (markAfter m (slotRecord (holding xs s) l slot).fillMark x bytes.length)
        (runDisposed m l slot x bytes (holding xs s) (holding xs s2)) := by
    rw [hrun, markRaised_holding]
    rfl
  by_cases hthird : thirdMismatch l slot s s2
  · rw [accountOpen_third (s := holding xs s) h2 h5 hthird, accountOpen_third hs2.symm rfl hthird, goOutOfStep_holding]
  · rw [accountOpen_else (s := holding xs s) h2 h5 hthird, accountOpen_else hs2.symm rfl hthird]

theorem accountPiece_holding (l : Lane) (slot x : Nat) (bytes : List Byte) :
    accountPiece l slot x bytes (holding xs s) = holding xs (accountPiece l slot x bytes s) := by
  have hmaps : (holding xs s).maps = s.maps := rfl
  have hring : (holding xs s).ring = s.ring := rfl
  have hslot : slotRecord (holding xs s) l slot = slotRecord s l slot := rfl
  unfold accountPiece
  rw [hmaps, hring, hslot]
  cases s.maps.live with
  | none => rfl
  | some m =>
    cases s.ring.step.get l with
    | off => rfl
    | outOfStep => rfl
    | inStep =>
      cases (slotRecord s l slot).state with
      | unbound => rfl
      | retired => rfl
      | opened =>
        dsimp only
        rw [accountOpen_holding, closeTests_holding]

/-- A piece does the same whatever the port holds. -/
theorem handOn_holding (p : Piece) : handOn p (holding xs s) = holding xs (handOn p s) := by
  cases p with
  | outside a bytes => rfl
  | read a n t => rfl
  | aperture l slot x bytes => exact accountPiece_holding xs s l slot x bytes

end

/-! ### The turn of the inlet stream (R2, R6, R12) -/

theorem grantList_none {s : State} (h : ListIdle s) : grantList s = none := by
  unfold grantList
  split
  next => rfl
  next r js hj =>
    obtain ⟨f, hf, -⟩ := h _ _ hj
    cases hf
  next r js hj =>
    obtain ⟨f, hf, -⟩ := h _ _ hj
    cases hf
  next f js hj =>
    obtain ⟨g, hg, hnot⟩ := h _ _ hj
    obtain rfl : f = g := Job.fill.inj hg
    split
    next b hb => exact absurd hb (hnot b)
    next => rfl
    next => rfl

/-- A free place that no read and no job claims goes to the inlet stream. -/
theorem exec_grant_inlet {s : State} {p : Piece} {rest : List Piece} (h : InletTurn s p rest) :
    exec .outletPlaceGrant s =
      .next (if pieceReady s p then settleInlet (handOn p { s with decode := rest }) else s) := by
  obtain ⟨hfree, hreads, hlist, hdecode⟩ := h
  have hgrant : grantPlace s = (grantInlet s).getD s := by
    rw [grantPlace, waitingRead_none hreads, grantList_none hlist]
  rw [exec_grant_of_free hfree, hgrant, grantInlet, hdecode]
  dsimp only
  split_ifs <;> rfl

/-- With pieces left in decode, or with nothing held behind the last, the port settles without taking anything. -/
theorem settleInlet_same {s : State} (h : s.decode = [] → s.inletHeld = []) : settleInlet s = s := by
  by_cases hd : s.decode = []
  · rw [settleInlet, h hd]
    exact congrArg (fun xs => { s with inletHeld := xs }) (h hd).symm
  · exact takeHeld_of_stalled (.inl hd) s.inletHeld

theorem Disposal.decode {s t : State} (h : Disposal s t) : t.decode = s.decode := by
  cases h <;> rfl

theorem accountPiece_decode (l : Lane) (slot x : Nat) (bytes : List Byte) (s : State) :
    (accountPiece l slot x bytes s).decode = s.decode := by
  unfold accountPiece
  split
  case h_6 m hm _ hopen =>
    obtain ⟨u, v, w, hu, hv, v', hv', hw, hlast⟩ :=
      accountOpen_path m l slot x bytes (running_of_opened (by simp [hm]) hopen)
    have hstamp : v.decode = u.decode := by rcases hv with rfl | ⟨n, rfl⟩ <;> rfl
    rw [(closeTests_moves _).decode, hlast.run.decode, Disposal.decode hw, hv'.run.decode, hstamp, hu.run.decode]
  all_goals rfl

/-- What a step of the inlet stream leaves of the port. -/
theorem handOn_port (p : Piece) (s : State) : (handOn p s).decode = s.decode ∧ (handOn p s).inletHeld = s.inletHeld := by
  have hheld : (handOn p s).inletHeld = s.inletHeld := by
    have h := handOn_holding s.inletHeld s p
    rw [show holding s.inletHeld s = s from rfl] at h
    rw [h]
    rfl
  refine ⟨?_, hheld⟩
  cases p with
  | outside a bytes => rfl
  | read a n t => rfl
  | aperture l slot x bytes => exact accountPiece_decode l slot x bytes s

/-- With others behind it in decode, or with nothing held at the port, a piece handed on is all that comes about. -/
theorem exec_grant_next {s : State} {p : Piece} {rest : List Piece} (h : InletNext s p rest) (hready : pieceReady s p = true) :
    exec .outletPlaceGrant s = .next (handOn p { s with decode := rest }) := by
  obtain ⟨hfree, hreads, hlist, hdecode, hlast⟩ := h
  obtain ⟨hport, hheld⟩ := handOn_port p { s with decode := rest }
  rw [exec_grant_inlet ⟨hfree, hreads, hlist, hdecode⟩, if_pos hready, settleInlet_same]
  rw [hport, hheld]
  exact hlast

/-! ### Transactions held and transactions offered in turn (R2, R13) -/

theorem takeTransaction_holding (xs : List InletTxn) (x : InletTxn) (s : State) :
    takeTransaction x (holding xs s) = holding xs (takeTransaction x s) := by
  have haperture : aperture (holding xs s) = aperture s := rfl
  unfold takeTransaction
  rw [haperture]
  cases x with
  | write a p => rfl
  | read a n tag =>
    dsimp only
    rw [readAnswered, haperture, ← readAnswered]
    split_ifs <;> rfl

theorem takeTransaction_held (x : InletTxn) (s : State) : (takeTransaction x s).inletHeld = s.inletHeld := by
  have h := takeTransaction_holding s.inletHeld x s
  rw [show holding s.inletHeld s = s from rfl] at h
  rw [h]
  rfl

/-- What the port takes depends on what it takes from, not on what the state holds. -/
theorem takeHeld_holding (xs ys : List InletTxn) (s : State) : takeHeld ys (holding xs s) = takeHeld ys s := by
  induction ys generalizing s with
  | nil => rfl
  | cons y ys ih =>
    by_cases h : Stalled s
    · rw [takeHeld_of_stalled h, takeHeld_of_stalled (s := holding xs s) h]
      rfl
    · rw [takeHeld_of_open h, takeHeld_of_open (s := holding xs s) h, takeTransaction_holding, ih]

/-- A port that holds nothing it could hand on takes what it is offered in turn as it would take it from its list. -/
theorem offeredInTurn_eq (xs : List InletTxn) {s : State} (h : ¬Stalled s → s.inletHeld = []) :
    offeredInTurn xs s = .next (takeHeld (s.inletHeld ++ xs) s) := by
  induction xs generalizing s with
  | nil =>
    rw [List.append_nil, offeredInTurn]
    by_cases hs : Stalled s
    · rw [takeHeld_of_stalled hs]
    · rw [h hs]
      exact congrArg (fun xs => Host.Outcome.next { s with inletHeld := xs }) (h hs)
  | cons x xs ih =>
    have hexec : exec (.inletTransactionTaken x) s = .next (takeHeld (s.inletHeld ++ [x]) s) :=
      congrArg Host.Outcome.next (takeHeld_holding (s.inletHeld ++ [x]) (s.inletHeld ++ [x]) s)
    rw [offeredInTurn, hexec]
    dsimp only
    by_cases hs : Stalled s
    · have hlater := ih (s := holding (s.inletHeld ++ [x]) s) fun hopen => absurd hs hopen
      rw [takeHeld_holding, show (holding (s.inletHeld ++ [x]) s).inletHeld = s.inletHeld ++ [x] from rfl,
        List.append_assoc, List.singleton_append] at hlater
      rw [takeHeld_of_stalled hs]
      exact hlater
    · have htaken : takeHeld [x] s = takeTransaction x s := by
        rw [takeHeld_of_open hs, takeHeld, ← h hs, ← takeTransaction_held x s]
      rw [h hs, List.nil_append, List.nil_append, htaken, ih fun _ => (takeTransaction_held x s).trans (h hs),
        takeTransaction_held, h hs, List.nil_append, takeHeld_of_open hs]

/-- Settles O9: a ready piece is handed on, and the port then takes from its list what it would be offered in turn. -/
theorem passThroughEntersUnchanged : Obligations.PassThroughEntersUnchanged := by
  refine ⟨fun s a p rest h => exec_grant_next h rfl, fun s a n tag rest h => exec_grant_next h rfl,
    fun s l slot x k p rest e h hopen href hfind hopening => ?waits, fun s t p h ht hdecode => ?inTurn⟩
  case waits =>
    have hentry : recordEntry s (slotRecord s l slot) = some e := by
      rw [recordEntry, href]
      exact hfind
    have hnot : pieceReady s (.aperture l slot x p) = false := by
      simp [pieceReady, hopen, hentry, hopening]
    rw [exec_grant_inlet h, if_neg (ne_true_of_eq_false hnot)]
  case inTurn =>
    have hempty : InletTurn { s with inletHeld := [] } p [] := h
    have hready : pieceReady { s with inletHeld := [] } p = pieceReady s p := by cases p <;> rfl
    rw [exec_grant_inlet hempty, hready] at ht
    rw [exec_grant_inlet h]
    split_ifs at ht ⊢ with hr
    · have hhanded : handOn p { s with inletHeld := [], decode := [] } = holding [] (handOn p { s with decode := [] }) :=
        handOn_holding [] { s with decode := [] } p
      have hheld : (handOn p { s with decode := [] }).inletHeld = s.inletHeld := (handOn_port p { s with decode := [] }).2
      rw [hhanded, settleInlet_same fun _ => rfl] at ht
      obtain rfl : holding [] (handOn p { s with decode := [] }) = t := Host.Outcome.next.inj ht
      rw [offeredInTurn_eq _ fun _ => rfl, takeHeld_holding, settleInlet, hheld]
      rfl
    · obtain rfl : { s with inletHeld := [] } = t := Host.Outcome.next.inj ht
      obtain ⟨-, -, -, hpiece⟩ := h
      exact absurd (hpiece.symm.trans hdecode) (List.cons_ne_nil _ _)

end Sys2Proof.GrantProofs
end

section
/-! SUPPORT and PROOFS. Byte layouts (chapter 12): the fields of bytes that are put together from parts, and with them the
completion record and the STATUS snapshot. -/

namespace Sys2Proof.LayoutProofs

open Sys2Proof Sys2Proof.Machine

/-! ### Little-endian values -/

theorem leBytes_succ (n v : Nat) : leBytes (n + 1) v = BitVec.ofNat 8 v :: leBytes n (v / 256) := by
  have htail (i : Nat) : v >>> (8 * (i + 1)) = (v / 256) >>> (8 * i) := by
    rw [Nat.mul_add, Nat.add_comm (8 * i), Nat.shiftRight_add, Nat.shiftRight_eq_div_pow v]
  simp only [leBytes, List.range_succ_eq_map, List.map_cons, List.map_map, Nat.mul_zero, Nat.shiftRight_zero]
  exact congrArg _ (List.map_congr_left fun i _ => congrArg (BitVec.ofNat 8) (htail i))

@[simp] theorem leNat_leBytes (n v : Nat) : leNat (leBytes n v) = v % 256 ^ n := by
  induction n generalizing v with
  | zero => simp [leBytes, leNat, Nat.mod_one]
  | succ n ih =>
    rw [leBytes_succ, leNat, ih, BitVec.toNat_ofNat, Nat.pow_succ 256 n, Nat.mul_comm (256 ^ n), Nat.mod_mul]

theorem leNat_append (xs ys : List Byte) : leNat (xs ++ ys) = leNat xs + 256 ^ xs.length * leNat ys := by
  induction xs with
  | nil => simp [leNat]
  | cons x xs ih =>
    rw [List.cons_append, leNat, ih, leNat, List.length_cons]
    ring

@[simp] theorem leNat_zeros (n : Nat) : leNat (zeros n) = 0 := by
  induction n with
  | zero => rfl
  | succ n ih =>
    rw [zeros, List.replicate_succ, leNat, ← zeros, ih]
    rfl

@[simp] theorem zeros_length (n : Nat) : (zeros n).length = n := List.length_replicate
@[simp] theorem le48_length (v : Nat) : (le48 v).length = 8 := by simp [le48]

@[simp] theorem leNat_le48 (v : Nat) : leNat (le48 v) = v % 2 ^ 48 := by
  rw [le48, leNat_append, leNat_leBytes, leNat_zeros]
  norm_num

/-! ### Fields of bytes put together from parts -/

/-- A field that is one part of the bytes. -/
theorem field_part {parts : List (List Byte)} {p : List Byte} {i offset n : Nat} (hp : parts[i]? = some p)
    (hoffset : ((parts.take i).map List.length).sum = offset) (hn : p.length = n) :
    field parts.flatten offset n = leNat p := by
  have hsplit : parts = parts.take i ++ p :: parts.drop (i + 1) := by
    obtain ⟨hi, hget⟩ := List.getElem?_eq_some_iff.1 hp
    rw [← hget, List.cons_getElem_drop_succ, List.take_append_drop]
  rw [← List.length_flatten] at hoffset
  rw [field, hsplit, List.flatten_append, List.flatten_cons, ← hoffset, List.drop_left, ← hn, List.take_left]

/-- A field beyond a first part. -/
theorem field_beyond {xs : List Byte} {start : Nat} (ys : List Byte) (offset n : Nat) (h : xs.length = start) :
    field (xs ++ ys) (start + offset) n = field ys offset n := by
  rw [field, field, ← h, List.drop_append, Nat.add_sub_cancel_left, List.drop_of_length_le (by omega), List.nil_append]

/-- A field within a first part. -/
theorem field_within {xs : List Byte} (ys : List Byte) {offset n : Nat} (h : offset + n ≤ xs.length) :
    field (xs ++ ys) offset n = field xs offset n := by
  rw [field, field, List.drop_append_of_le_length (by omega), List.take_append_of_le_length]
  rw [List.length_drop]
  omega

/-- Zeros read 0. -/
theorem field_zeros (k offset n : Nat) : field (zeros k) offset n = 0 := by
  rw [field, zeros, List.drop_replicate, List.take_replicate]
  exact leNat_zeros _

/-- A field of one of several parts of the same length. -/
theorem field_flatMap {α : Type} {f : α → List Byte} {width : Nat} (hf : ∀ x, (f x).length = width) {xs : List α} {i : Nat}
    {x : α} (hx : xs[i]? = some x) {offset n : Nat} (h : offset + n ≤ width) :
    field (xs.flatMap f) (width * i + offset) n = field (f x) offset n := by
  induction xs generalizing i with
  | nil => cases hx
  | cons y ys ih =>
    rw [List.flatMap_cons]
    cases i with
    | zero =>
      obtain rfl : y = x := by simpa using hx
      rw [Nat.mul_zero, Nat.zero_add, field_within _ (by rw [hf]; exact h)]
    | succ i =>
      rw [List.getElem?_cons_succ] at hx
      rw [Nat.mul_succ, Nat.add_comm (width * i), Nat.add_assoc, field_beyond _ _ _ (hf y), ih hx]

theorem flatMap_length {α : Type} {f : α → List Byte} {width : Nat} (hf : ∀ x, (f x).length = width) (xs : List α) :
    (xs.flatMap f).length = width * xs.length := by
  induction xs with
  | nil => rfl
  | cons x xs ih => rw [List.flatMap_cons, List.length_append, hf, ih, List.length_cons, Nat.mul_succ, Nat.add_comm]

theorem toList_get {α : Type} (v : Lanes α) (l : Lane) : v.toList[l.val]? = some (v.get l) := by
  fin_cases l <;> rfl

theorem toNat_mod {w : Nat} (v : BitVec w) {n : Nat} (h : 2 ^ w ≤ n) : v.toNat % n = v.toNat :=
  Nat.mod_eq_of_lt (Nat.lt_of_lt_of_le v.isLt h)

/-! ### The completion record (R121 to R123, R171) -/

/-- The parts of a lane's sub-record. -/
def laneParts (c : LaneCounts) : List (List Byte) :=
  [leBytes 4 c.retired.toNat, leBytes 4 c.filled.toNat, leBytes 4 c.gap.toNat, leBytes 4 c.discarded.toNat,
    leBytes 2 c.shortLines.toNat, leBytes 2 c.mismatches.toNat]

theorem laneRecordBytes_eq (c : LaneCounts) : laneRecordBytes c = (laneParts c).flatten := by
  simp only [laneRecordBytes, laneParts, List.flatten_cons, List.flatten_nil, List.append_nil, List.append_assoc]

theorem laneRecordBytes_length (c : LaneCounts) : (laneRecordBytes c).length = 20 := by simp [laneRecordBytes]

/-- The parts of a record before its lanes. -/
def recordParts (r : RecordJob) : List (List Byte) :=
  [leBytes 4 r.seq.toNat, leBytes 4 r.generation.toNat, le48 r.firstRow, leBytes 4 r.rowCount, leBytes 4 (rowsWritten r),
    leBytes 4 r.capacity, leBytes 4 r.overspeed.toNat, leBytes 2 r.droppedBefore.toNat, leBytes 1 (recordFlags r),
    leBytes 1 (kindNumber r.startKind), leBytes 1 (endKindNumber r.endKind), zeros 59]

theorem recordBytes_eq (r : RecordJob) :
    recordBytes r = (recordParts r).flatten ++ r.counts.toList.flatMap laneRecordBytes := by
  simp only [recordBytes, recordParts, List.flatten_cons, List.flatten_nil, List.append_nil, List.append_assoc]

theorem recordParts_length (r : RecordJob) : (recordParts r).flatten.length = 96 := by simp [recordParts]

/-- A field of a record before its lanes is one of the parts. -/
theorem field_recordBytes {r : RecordJob} {p : List Byte} (i : Nat) {offset n : Nat} (hp : (recordParts r)[i]? = some p)
    (hn : p.length = n) (hoffset : (((recordParts r).take i).map List.length).sum = offset) (h : offset + n ≤ 96) :
    field (recordBytes r) offset n = leNat p := by
  rw [recordBytes_eq, field_within _ (by rw [recordParts_length]; exact h), field_part hp hoffset hn]

/-- A number that is one of the parts. -/
theorem number_recordBytes {r : RecordJob} {v : Nat} (i : Nat) {offset n : Nat} (hp : (recordParts r)[i]? = some (leBytes n v))
    (hv : v < 256 ^ n) (hoffset : (((recordParts r).take i).map List.length).sum = offset) (h : offset + n ≤ 96) :
    field (recordBytes r) offset n = v := by
  rw [field_recordBytes i hp (leBytes_length n v) hoffset h, leNat_leBytes, Nat.mod_eq_of_lt hv]

/-- A number of a lane's sub-record is one of its parts. -/
theorem number_recordLane {r : RecordJob} {l : Lane} {v : Nat} (i offset : Nat) {start n : Nat}
    (hp : (laneParts (r.counts.get l))[i]? = some (leBytes n v)) (hv : v < 256 ^ n)
    (hoffset : (((laneParts (r.counts.get l)).take i).map List.length).sum = offset) (h : offset + n ≤ 20)
    (hstart : start = 96 + (20 * l.val + offset)) : field (recordBytes r) start n = v := by
  rw [hstart, recordBytes_eq, field_beyond _ _ _ (recordParts_length r),
    field_flatMap laneRecordBytes_length (toList_get _ l) h, laneRecordBytes_eq, field_part hp hoffset (leBytes_length n v),
    leNat_leBytes, Nat.mod_eq_of_lt hv]

/-- The status flags as one byte. -/
def flagsByte (degraded truncated lost cancelled fault : Bool) : Nat :=
  (if degraded then 1 else 0) + (if truncated then 2 else 0) + (if lost then 4 else 0) + (if cancelled then 8 else 0) +
    (if fault then 16 else 0)

theorem flagsByte_bits :
    ∀ a b c d e : Bool, flagsByte a b c d e < 32 ∧ (flagsByte a b c d e).testBit 0 = a ∧ (flagsByte a b c d e).testBit 1 = b ∧
      (flagsByte a b c d e).testBit 2 = c ∧ (flagsByte a b c d e).testBit 3 = d ∧ (flagsByte a b c d e).testBit 4 = e := by
  decide

theorem recordFlags_eq (r : RecordJob) :
    recordFlags r =
      flagsByte (recordDegraded r) (recordTruncated r) r.fillLost (decide (r.status = .cancelled))
        (decide (r.status = .descriptorFault)) := by
  simp [recordFlags, flagsByte]

theorem laneDegraded_iff (c : LaneCounts) :
    laneDegraded c = true ↔ c.filled ≠ 0 ∨ c.gap ≠ 0 ∨ c.discarded ≠ 0 ∨ c.shortLines ≠ 0 ∨ c.mismatches ≠ 0 := by
  simp [laneDegraded, or_assoc]

theorem recordDegraded_iff (r : RecordJob) :
    recordDegraded r = true ↔ r.overspeed ≠ 0 ∨ ∃ l, laneDegraded (r.counts.get l) = true := by
  rw [recordDegraded, Bool.or_eq_true, decide_eq_true_eq, List.any_eq_true, or_comm]
  refine or_congr_right ⟨fun ⟨c, hc, h⟩ => ?_, fun ⟨l, h⟩ => ⟨_, (Lanes.mem_toList _ _).2 ⟨l, rfl⟩, h⟩⟩
  obtain ⟨l, rfl⟩ := (Lanes.mem_toList _ _).1 hc
  exact ⟨l, h⟩

/-- Settles O49, field by field from the parts of the record. -/
theorem recordHoldsItsFields : Obligations.RecordHoldsItsFields := by
  intro r hfirst hrows hcapacity
  obtain ⟨hbound, hbit0, hbit1, hbit2, hbit3, hbit4⟩ := flagsByte_bits (recordDegraded r) (recordTruncated r) r.fillLost
    (decide (r.status = .cancelled)) (decide (r.status = .descriptorFault))
  rw [← recordFlags_eq] at hbound hbit0 hbit1 hbit2 hbit3 hbit4
  have hflags : field (recordBytes r) 0x22 1 = recordFlags r :=
    number_recordBytes 8 rfl (hbound.trans (by decide)) (by simp [recordParts]) (by decide)
  refine ⟨?_, ⟨?_, ?_, ?_, ?_, ?_, ?_, ?_, ?_, ?_, ?_, ?_⟩, ?_, fun l => ⟨?_, ?_, ?_, ?_, ?_, ?_⟩⟩
  · rw [recordBytes_eq, List.length_append, recordParts_length, flatMap_length laneRecordBytes_length]
    rfl
  · exact number_recordBytes 0 rfl r.seq.isLt rfl (by decide)
  · exact number_recordBytes 1 rfl r.generation.isLt (by simp [recordParts]) (by decide)
  · rw [field_recordBytes 2 rfl (le48_length _) (by simp [recordParts]) (by decide), leNat_le48, Nat.mod_eq_of_lt hfirst]
  · exact number_recordBytes 3 rfl hrows (by simp [recordParts]) (by decide)
  · exact number_recordBytes 4 rfl (Nat.lt_of_le_of_lt (Nat.min_le_left _ _) hrows) (by simp [recordParts]) (by decide)
  · exact number_recordBytes 5 rfl hcapacity (by simp [recordParts]) (by decide)
  · exact number_recordBytes 6 rfl r.overspeed.isLt (by simp [recordParts]) (by decide)
  · exact number_recordBytes 7 rfl r.droppedBefore.isLt (by simp [recordParts]) (by decide)
  · have hkind : kindNumber r.startKind < 256 := by cases r.startKind <;> decide
    rw [number_recordBytes 9 rfl hkind (by simp [recordParts]) (by decide)]
    cases r.startKind <;> rfl
  · have hkind : endKindNumber r.endKind < 256 := by
      rcases r.endKind with _ | (k | _)
      · decide
      · cases k <;> decide
      · decide
    rw [number_recordBytes 10 rfl hkind (by simp [recordParts]) (by decide)]
    rcases r.endKind with _ | (k | _)
    · rfl
    · cases k <;> rfl
    · rfl
  · rw [field_recordBytes 11 rfl (zeros_length _) (by simp [recordParts]) (by decide), leNat_zeros]
  · rw [hflags]
    refine ⟨hbound, ?_, ?_, ?_, ?_, ?_⟩
    · rw [hbit0, recordDegraded_iff]
      simp only [laneDegraded_iff]
    · rw [hbit1, recordTruncated, Bool.and_eq_true, decide_eq_true_eq, decide_eq_true_eq]
    · rw [hbit2]
    · rw [hbit3, decide_eq_true_eq]
    · rw [hbit4, decide_eq_true_eq]
  · exact number_recordLane 0 0 rfl (r.counts.get l).retired.isLt rfl (by decide) (by omega)
  · exact number_recordLane 1 4 rfl (r.counts.get l).filled.isLt (by simp [laneParts]) (by decide) (by omega)
  · exact number_recordLane 2 8 rfl (r.counts.get l).gap.isLt (by simp [laneParts]) (by decide) (by omega)
  · exact number_recordLane 3 12 rfl (r.counts.get l).discarded.isLt (by simp [laneParts]) (by decide) (by omega)
  · exact number_recordLane 4 16 rfl (r.counts.get l).shortLines.isLt (by simp [laneParts]) (by decide) (by omega)
  · exact number_recordLane 5 18 rfl (r.counts.get l).mismatches.isLt (by simp [laneParts]) (by decide) (by omega)

/-! ### The STATUS snapshot (R159, section 12.4) -/

/-- The parts of a table entry. -/
def entryParts (e : Entry) : List (List Byte) :=
  [leBytes 1 (entryStateNumber e.state), leBytes 1 (if e.endRow.isSome then 1 else 0), zeros 2, leBytes 4 e.seq.toNat,
    le48 e.firstRow, le48 (e.endRow.getD 0), e.counts.toList.flatMap (fun c => leBytes 4 c.retired.toNat), zeros 8]

theorem retiredBytes_length (c : LaneCounts) : (leBytes 4 c.retired.toNat).length = 4 := leBytes_length _ _

theorem entryBytes_eq (e : Entry) : entryBytes e = (entryParts e).flatten := by
  simp only [entryBytes, entryParts, List.flatten_cons, List.flatten_nil, List.append_nil, List.append_assoc]

theorem retiredPart_length (e : Entry) : (e.counts.toList.flatMap fun c => leBytes 4 c.retired.toNat).length = 32 := by
  rw [flatMap_length retiredBytes_length]
  rfl

theorem entryBytes_length (e : Entry) : (entryBytes e).length = 64 := by
  simp [entryBytes_eq, entryParts, retiredPart_length e]

/-- The parts of the snapshot before the table. -/
def snapshotParts (s : State) : List (List Byte) :=
  [leBytes 1 (acqNumber s.acq.state), leBytes 1 (trackerNumber s.tracker.state), leBytes 1 s.tracker.coast,
    leBytes 1 (resetCauseNumber s.mailbox.resetCause), leBytes 1 s.table.entries.length,
    leBytes 1 ((if s.maps.live.isSome then 1 else 0) + (if s.maps.staged.isSome then 2 else 0)),
    leBytes 2 s.attention.causes.toNat, leBytes 2 s.attention.mask.toNat,
    s.ring.step.toList.flatMap (fun t => leBytes 1 (stepNumber t)), zeros 6, le48 s.strobe.nextStrobe.toNat,
    le48 s.strobe.issueIndex.toNat, le48 s.encoder.position.toNat, le48 s.encoder.highWater.toNat,
    leBytes 4 (generationOf s.maps.live), leBytes 4 (generationOf s.maps.staged), leBytes 4 s.ringUnit.taken.toNat,
    leBytes 4 s.ringUnit.returned.toNat, (counterList s.counters).flatMap (fun c => leBytes 4 c.toNat), zeros 12]

theorem snapshot_eq (s : State) :
    snapshot s =
      (snapshotParts s).flatten ++
        ((s.table.entries.take 4).flatMap entryBytes ++ zeros (64 * (4 - (s.table.entries.take 4).length))) := by
  unfold snapshot snapshotParts
  dsimp only
  generalize (counterList s.counters).flatMap (fun c => leBytes 4 c.toNat) = counters
  generalize s.ring.step.toList.flatMap (fun t => leBytes 1 (stepNumber t)) = steps
  simp only [List.flatten_cons, List.flatten_nil, List.append_nil, List.append_assoc]

theorem stepPart_length (v : Lanes StepState) : (v.toList.flatMap fun t => leBytes 1 (stepNumber t)).length = 8 := by
  have hwidth (t : StepState) : (leBytes 1 (stepNumber t)).length = 1 := leBytes_length _ _
  exact (flatMap_length hwidth v.toList).trans rfl

theorem counterPart_length (c : Counters) : ((counterList c).flatMap fun c => leBytes 4 c.toNat).length = 44 := by
  have hwidth (c : BitVec 32) : (leBytes 4 c.toNat).length = 4 := leBytes_length _ _
  exact (flatMap_length hwidth (counterList c)).trans rfl

/-- Where each part of the snapshot begins. -/
theorem snapshotParts_lengths (s : State) :
    (snapshotParts s).map List.length = [1, 1, 1, 1, 1, 1, 2, 2, 8, 6, 8, 8, 8, 8, 4, 4, 4, 4, 44, 12] := by
  simp [snapshotParts, stepPart_length s.ring.step, counterPart_length s.counters]

theorem snapshotParts_length (s : State) : (snapshotParts s).flatten.length = 128 := by
  rw [List.length_flatten, snapshotParts_lengths]
  rfl

/-- A field of the snapshot before the table is one of the parts. -/
theorem field_snapshot {s : State} {p : List Byte} (i : Nat) {offset n : Nat} (hp : (snapshotParts s)[i]? = some p)
    (hn : p.length = n)
    (hoffset : (([1, 1, 1, 1, 1, 1, 2, 2, 8, 6, 8, 8, 8, 8, 4, 4, 4, 4, 44, 12] : List Nat).take i).sum = offset)
    (h : offset + n ≤ 128) : field (snapshot s) offset n = leNat p := by
  rw [← snapshotParts_lengths s, ← List.map_take] at hoffset
  rw [snapshot_eq, field_within _ (by rw [snapshotParts_length]; exact h), field_part hp hoffset hn]

theorem number_snapshot {s : State} {v : Nat} (i : Nat) {offset n : Nat} (hp : (snapshotParts s)[i]? = some (leBytes n v))
    (hv : v < 256 ^ n)
    (hoffset : (([1, 1, 1, 1, 1, 1, 2, 2, 8, 6, 8, 8, 8, 8, 4, 4, 4, 4, 44, 12] : List Nat).take i).sum = offset)
    (h : offset + n ≤ 128) : field (snapshot s) offset n = v := by
  rw [field_snapshot i hp (leBytes_length n v) hoffset h, leNat_leBytes, Nat.mod_eq_of_lt hv]

theorem wide_snapshot {s : State} {v : BitVec 48} (i : Nat) {offset : Nat} (hp : (snapshotParts s)[i]? = some (le48 v.toNat))
    (hoffset : (([1, 1, 1, 1, 1, 1, 2, 2, 8, 6, 8, 8, 8, 8, 4, 4, 4, 4, 44, 12] : List Nat).take i).sum = offset)
    (h : offset + 8 ≤ 128) : field (snapshot s) offset 8 = v.toNat := by
  rw [field_snapshot i hp (le48_length _) hoffset h, leNat_le48, Nat.mod_eq_of_lt v.isLt]

/-- The part of a field that a part of several values holds: its bytes from the part's start on. -/
theorem field_flatten {parts : List (List Byte)} {p : List Byte} (i : Nat) {start : Nat} (hp : parts[i]? = some p)
    (hstart : ((parts.take i).map List.length).sum = start) {offset n : Nat} (h : offset + n ≤ p.length) :
    field parts.flatten (start + offset) n = field p offset n := by
  have hsplit : parts = parts.take i ++ p :: parts.drop (i + 1) := by
    obtain ⟨hi, hget⟩ := List.getElem?_eq_some_iff.1 hp
    rw [← hget, List.cons_getElem_drop_succ, List.take_append_drop]
  rw [← List.length_flatten] at hstart
  rw [hsplit, List.flatten_append, field_beyond _ _ _ hstart, List.flatten_cons, field_within _ h]

/-- A counter of the snapshot. -/
theorem counter_snapshot {s : State} {c : BitVec 32} (i : Nat) {start : Nat} (hc : (counterList s.counters)[i]? = some c)
    (hstart : start = 72 + (4 * i + 0)) (h : 4 * i + 4 ≤ 44) : field (snapshot s) start 4 = c.toNat := by
  have hwhere : (((snapshotParts s).take 18).map List.length).sum = 72 := by
    rw [List.map_take, snapshotParts_lengths]
    rfl
  rw [hstart, snapshot_eq, field_within _ (by rw [snapshotParts_length]; omega),
    field_flatten 18 rfl hwhere (by rw [counterPart_length]; omega), field_flatMap (fun _ => leBytes_length _ _) hc (by decide),
    field, List.drop_zero, List.take_of_length_le (leBytes_length _ _).le, leNat_leBytes, toNat_mod _ (by decide)]

/-- A lane's step state in the snapshot. -/
theorem step_snapshot (s : State) (l : Lane) : field (snapshot s) (0x00A + l.val) 1 = stepNumber (s.ring.step.get l) := by
  have hwhere : (((snapshotParts s).take 8).map List.length).sum = 10 := by
    rw [List.map_take, snapshotParts_lengths]
    rfl
  have hstart : 0x00A + l.val = 10 + (1 * l.val + 0) := by omega
  have hnumber : stepNumber (s.ring.step.get l) < 256 ^ 1 := by cases s.ring.step.get l <;> decide
  rw [hstart, snapshot_eq, field_within _ (by rw [snapshotParts_length]; omega),
    field_flatten 8 rfl hwhere (by rw [stepPart_length]; omega), field_flatMap (fun _ => leBytes_length _ _) (toList_get _ l) (by decide),
    field, List.drop_zero, List.take_of_length_le (leBytes_length _ _).le, leNat_leBytes, Nat.mod_eq_of_lt hnumber]

/-- A field of a table entry in the snapshot. -/
theorem entry_snapshot {s : State} {n : Nat} {e : Entry} (hlen : s.table.entries.length ≤ 4) (he : s.table.entries[n]? = some e)
    {start offset k : Nat} (h : offset + k ≤ 64) (hstart : start = 128 + (64 * n + offset)) :
    field (snapshot s) start k = field (entryBytes e) offset k := by
  have hn : n < s.table.entries.length := (List.getElem?_eq_some_iff.1 he).1
  rw [hstart, snapshot_eq, field_beyond _ _ _ (snapshotParts_length s), List.take_of_length_le hlen,
    field_within _ (by rw [flatMap_length entryBytes_length]; omega), field_flatMap entryBytes_length he h]

/-- Where each part of a table entry begins. -/
theorem entryParts_lengths (e : Entry) : (entryParts e).map List.length = [1, 1, 2, 4, 8, 8, 32, 8] := by
  simp [entryParts, retiredPart_length e]

theorem field_entryBytes {e : Entry} {p : List Byte} (i : Nat) {offset n : Nat} (hp : (entryParts e)[i]? = some p)
    (hn : p.length = n) (hoffset : (([1, 1, 2, 4, 8, 8, 32, 8] : List Nat).take i).sum = offset) :
    field (entryBytes e) offset n = leNat p := by
  rw [← entryParts_lengths e, ← List.map_take] at hoffset
  rw [entryBytes_eq, field_part hp hoffset hn]

/-- Settles O50, field by field from the parts of the snapshot and of its table entries. -/
theorem snapshotHoldsItsFields : Obligations.SnapshotHoldsItsFields := by
  intro s hlen hcoast
  have hmap (m : Option SteeringMap) : generationOf m < 256 ^ 4 := by
    cases m with
    | none => decide
    | some m => exact m.generation.isLt
  have hlive := number_snapshot (s := s) (v := generationOf s.maps.live) 14 (offset := 0x038) rfl (hmap _) rfl (by decide)
  have hstaged := number_snapshot (s := s) (v := generationOf s.maps.staged) 15 (offset := 0x03C) rfl (hmap _) rfl (by decide)
  refine ⟨?_, ⟨?_, ?_, ?_, ?_, ?_, ?_, ?_, ?_, fun l => ?_⟩, ⟨?_, ?_, ?_, ?_, ?_, ?_, ?_, ?_, ?_, ?_, ?_, ?_, ?_, ?_, ?_, ?_, ?_, ?_,
    ?_, ?_, ?_⟩, fun n e he hfirst hend => ⟨?_, ?_, ?_, ?_, ?_, fun l => ?_⟩, fun n hn habsent => ?_⟩
  · rw [snapshot_eq, List.length_append, snapshotParts_length, List.length_append, flatMap_length entryBytes_length,
      zeros_length, List.length_take]
    omega
  · refine (number_snapshot 0 rfl (by cases s.acq.state <;> decide) rfl (by decide)).trans ?_
    cases s.acq.state <;> rfl
  · refine (number_snapshot 1 rfl (by cases s.tracker.state <;> decide) rfl (by decide)).trans ?_
    cases s.tracker.state <;> rfl
  · exact number_snapshot 2 rfl (by omega) rfl (by decide)
  · refine (number_snapshot 3 rfl (by cases s.mailbox.resetCause <;> decide) rfl (by decide)).trans ?_
    cases s.mailbox.resetCause <;> rfl
  · exact number_snapshot 4 rfl (by omega) rfl (by decide)
  · refine (number_snapshot 5 rfl (by split_ifs <;> decide) rfl (by decide)).trans ?_
    cases s.maps.live <;> cases s.maps.staged <;> rfl
  · exact number_snapshot 6 rfl (s.attention.causes.isLt.trans (by decide)) rfl (by decide)
  · exact number_snapshot 7 rfl (s.attention.mask.isLt.trans (by decide)) rfl (by decide)
  · rw [step_snapshot]
    cases s.ring.step.get l <;> rfl
  · exact wide_snapshot 10 rfl rfl (by decide)
  · exact wide_snapshot 11 rfl rfl (by decide)
  · exact wide_snapshot 12 rfl rfl (by decide)
  · exact wide_snapshot 13 rfl rfl (by decide)
  · intro m hm
    rw [hlive, hm]
    rfl
  · intro m hm
    rw [hstaged, hm]
    rfl
  · intro hm
    rw [hlive, hm]
    rfl
  · intro hm
    rw [hstaged, hm]
    rfl
  · exact number_snapshot 16 rfl s.ringUnit.taken.isLt rfl (by decide)
  · exact number_snapshot 17 rfl s.ringUnit.returned.isLt rfl (by decide)
  · exact counter_snapshot 0 rfl rfl (by decide)
  · exact counter_snapshot 1 rfl rfl (by decide)
  · exact counter_snapshot 2 rfl rfl (by decide)
  · exact counter_snapshot 3 rfl rfl (by decide)
  · exact counter_snapshot 4 rfl rfl (by decide)
  · exact counter_snapshot 5 rfl rfl (by decide)
  · exact counter_snapshot 6 rfl rfl (by decide)
  · exact counter_snapshot 7 rfl rfl (by decide)
  · exact counter_snapshot 8 rfl rfl (by decide)
  · exact counter_snapshot 9 rfl rfl (by decide)
  · exact counter_snapshot 10 rfl rfl (by decide)
  · refine (entry_snapshot hlen he (offset := 0) (by decide) (by omega)).trans ((field_entryBytes 0 rfl (leBytes_length _ _) rfl).trans ?_)
    cases e.state <;> rfl
  · refine (entry_snapshot hlen he (offset := 1) (by decide) (by omega)).trans ((field_entryBytes 1 rfl (leBytes_length _ _) rfl).trans ?_)
    cases e.endRow <;> rfl
  · refine (entry_snapshot hlen he (offset := 4) (by decide) (by omega)).trans ((field_entryBytes 3 rfl (leBytes_length _ _) rfl).trans ?_)
    rw [leNat_leBytes, toNat_mod _ (by decide)]
  · refine (entry_snapshot hlen he (offset := 8) (by decide) (by omega)).trans ((field_entryBytes 4 rfl (le48_length _) rfl).trans ?_)
    rw [leNat_le48,
      Nat.mod_eq_of_lt hfirst]
  · refine (entry_snapshot hlen he (offset := 16) (by decide) (by omega)).trans ((field_entryBytes 5 rfl (le48_length _) rfl).trans ?_)
    rw [leNat_le48]
    refine Nat.mod_eq_of_lt ?_
    cases hx : e.endRow with
    | none => exact Nat.two_pow_pos 48
    | some x => exact hend x hx
  · have hwhere : (((entryParts e).take 6).map List.length).sum = 24 := by
      rw [List.map_take, entryParts_lengths]
      rfl
    rw [entry_snapshot hlen he (offset := 24 + (4 * l.val + 0)) (by omega) (by omega), entryBytes_eq,
      field_flatten 6 rfl hwhere (by rw [retiredPart_length]; omega), field_flatMap retiredBytes_length (toList_get _ l) (by decide),
      field, List.drop_zero, List.take_of_length_le (leBytes_length _ _).le, leNat_leBytes, toNat_mod _ (by decide)]
  · obtain ⟨k, hk⟩ := Nat.le.dest habsent
    have hstart : 0x080 + 64 * n = 128 + (64 * s.table.entries.length + 64 * k) := by omega
    rw [hstart, snapshot_eq, field_beyond _ _ _ (snapshotParts_length s), List.take_of_length_le hlen,
      field_beyond _ _ _ (flatMap_length entryBytes_length _), field_zeros]

end Sys2Proof.LayoutProofs
end

section
/-! SUPPORT and PROOFS. What the bridge accepts (chapters 5, 8, 9 and 11): the descriptor's fifth check over every row, what a
load of the profile finds, and the tiling rule as a partition of the image row. -/

namespace Sys2Proof.FormatProofs

open Sys2Proof Sys2Proof.Machine Sys2Proof.RunProofs Sys2Proof.LayoutProofs

/-! ### The descriptor (R119) -/

/-- The rows of a buffer that begin in stretch j do not reach past its end. -/
def stretchClear (b : Buffer) (width j : Nat) : Prop :=
  (j + 1) * top48 ≤ b.base ∨
    b.base + min (b.capacity - 1) (((j + 1) * top48 - 1 - b.base) / b.stride) * b.stride + width ≤ (j + 1) * top48 ∨
    b.base + min (b.capacity - 1) (((j + 1) * top48 - 1 - b.base) / b.stride) * b.stride < j * top48

theorem rowsClearBelow_iff (b : Buffer) (width n : Nat) :
    rowsClearBelow b width n = true ↔ ∀ j < n, stretchClear b width j := by
  induction n with
  | zero => simp [rowsClearBelow]
  | succ n ih =>
    simp only [rowsClearBelow, Bool.and_eq_true, Bool.or_eq_true, decide_eq_true_eq, ih, Nat.lt_succ_iff_lt_or_eq, or_imp,
      forall_and, forall_eq, stretchClear, or_assoc]
    exact and_comm

/-- The last row that begins in a stretch stands for all of them. -/
theorem stretchClear_of_rows {b : Buffer} {width j : Nat} (hc : 1 ≤ b.capacity)
    (h : ∀ q < b.capacity, (b.base + q * b.stride) % 2 ^ 48 + width ≤ 2 ^ 48) : stretchClear b width j := by
  unfold stretchClear
  generalize hq : min (b.capacity - 1) (((j + 1) * top48 - 1 - b.base) / b.stride) = q
  by_cases hbelow : (j + 1) * top48 ≤ b.base
  · exact .inl hbelow
  · have hreach : q * b.stride ≤ (j + 1) * top48 - 1 - b.base :=
      (Nat.mul_le_mul_right _ (by omega)).trans (Nat.div_mul_le_self _ _)
    by_cases hbefore : b.base + q * b.stride < j * top48
    · exact .inr (.inr hbefore)
    · have hrow := h q (by omega)
      have hstretch : b.base + q * b.stride = 2 ^ 48 * j + (b.base + q * b.stride - j * 2 ^ 48) := by
        simp only [top48] at hbefore
        omega
      have hlimit : b.base + q * b.stride - j * 2 ^ 48 < 2 ^ 48 := by
        simp only [top48] at hbelow hreach
        omega
      rw [hstretch, Nat.mul_add_mod, Nat.mod_eq_of_lt hlimit] at hrow
      refine .inr (.inl ?_)
      simp only [top48] at hbefore ⊢
      omega

theorem row_of_stretchClear {b : Buffer} {width q : Nat} (hs : 0 < b.stride) (hq : q < b.capacity)
    (h : stretchClear b width ((b.base + q * b.stride) / 2 ^ 48)) : (b.base + q * b.stride) % 2 ^ 48 + width ≤ 2 ^ 48 := by
  have hdiv := Nat.div_add_mod (b.base + q * b.stride) (2 ^ 48)
  have hmod := Nat.mod_lt (b.base + q * b.stride) (Nat.two_pow_pos 48)
  unfold stretchClear at h
  generalize (b.base + q * b.stride) / 2 ^ 48 = j at h hdiv
  generalize (b.base + q * b.stride) % 2 ^ 48 = r at hdiv hmod ⊢
  simp only [top48] at h
  have hlast : q ≤ ((j + 1) * 2 ^ 48 - 1 - b.base) / b.stride := (Nat.le_div_iff_mul_le hs).2 (by omega)
  have hmost : q * b.stride ≤ min (b.capacity - 1) (((j + 1) * 2 ^ 48 - 1 - b.base) / b.stride) * b.stride :=
    Nat.mul_le_mul_right _ (by omega)
  omega

/-- Settles O43: of the rows that begin in a stretch the last reaches furthest, and every row begins in one of the
stretches looked at. -/
theorem descriptorChecksAreThoseOfTheManual : Obligations.DescriptorChecksAreThoseOfTheManual := by
  intro b width hwidth
  simp only [descriptorValid, Bool.and_eq_true, decide_eq_true_eq, rowsClear, rowsClearBelow_iff, Nat.dvd_iff_mod_eq_zero,
    and_assoc, show top48 = 2 ^ 48 from rfl]
  refine and_congr_right fun _ => and_congr_right fun _ => and_congr_right fun hc => and_congr_right fun _ =>
    and_congr_right fun _ => and_congr_right fun hs => ⟨fun h q hq => ?_, fun h j _ => ?_⟩
  · refine row_of_stretchClear (by omega) hq (h _ (Nat.lt_succ_of_le (Nat.div_le_div_right ?_)))
    exact Nat.add_le_add_left (Nat.mul_le_mul_right _ hq.le) _
  · exact stretchClear_of_rows hc h

/-! ### The stored profile (R164) -/

/-- The byte that names a job line function. -/
def functionByte : JobFunction → Nat
  | .none => 0
  | .hold => 1
  | .run => 2
  | .stop => 3
  | .reset => 4

theorem jobFunctionOf_iff (n : Nat) (f : JobFunction) : jobFunctionOf n = some f ↔ n = functionByte f := by
  constructor
  · intro h
    unfold jobFunctionOf at h
    split at h <;> cases h <;> rfl
  · rintro rfl
    cases f <;> rfl

theorem field_lt (bs : List Byte) (offset n : Nat) : field bs offset n < 256 ^ n := by
  have hle : ((bs.drop offset).take n).length ≤ n := List.length_take_le _ _
  have hvalue : ∀ xs : List Byte, leNat xs < 256 ^ xs.length := by
    intro xs
    induction xs with
    | nil => exact Nat.one_pos
    | cons x xs ih =>
      have hx := x.isLt
      rw [leNat, List.length_cons, Nat.pow_succ]
      omega
  exact (hvalue _).trans_le (Nat.pow_le_pow_right (by decide) hle)

/-- The ranges of R164. -/
def ImageInRange (img : List Byte) : Prop :=
  field img 0x00 8 % 4096 = 0 ∧ field img 0x00 8 + 4096 ≤ top48 ∧ 1 ≤ field img 0x08 2 ∧ field img 0x08 2 ≤ 10000 ∧
    field img 0x0B 1 ≤ 1 ∧ field img 0x0C 2 < 8192 ∧ field img 0x0E 1 ≤ 1

/-- The profile of an image with its job line function. -/
def imageProfile (img : List Byte) (f : JobFunction) : Profile :=
  { controlBlock := field img 0x00 8
    pollPeriod := field img 0x08 2
    jobFunction := f
    activeHigh := field img 0x0B 1 == 1
    defaultMask := BitVec.ofNat 13 (field img 0x0C 2)
    lockFixed := field img 0x0E 1 == 1 }

theorem readProfileImage_iff (img : List Byte) (p : Profile) :
    readProfileImage img = some p ↔
      ∃ f, field img 0x0A 1 = functionByte f ∧ ImageInRange img ∧ p = imageProfile img f := by
  unfold readProfileImage
  dsimp only
  cases hf : jobFunctionOf (field img 0x0A 1) with
  | none =>
    refine ⟨(fun h => by cases h), fun ⟨f, h, _⟩ => ?_⟩
    rw [(jobFunctionOf_iff _ f).2 h] at hf
    cases hf
  | some f =>
    have hbyte : field img 0x0A 1 = functionByte f := (jobFunctionOf_iff _ f).1 hf
    dsimp only
    split_ifs with hrange
    · refine ⟨fun h => ⟨f, hbyte, hrange, (Option.some.inj h).symm⟩, fun ⟨g, hg, _, hp⟩ => ?_⟩
      obtain rfl : f = g := by
        rw [(jobFunctionOf_iff _ g).2 hg] at hf
        exact (Option.some.inj hf).symm
      exact congrArg some hp.symm
    · exact ⟨(fun h => by cases h), fun ⟨_, _, h, _⟩ => absurd h hrange⟩

/-- A byte that is 0 or 1 reads a flag. -/
theorem flag_iff {v : Nat} {b : Bool} : v ≤ 1 ∧ b = (v == 1) ↔ v = if b then 1 else 0 := by
  constructor
  · rintro ⟨hv, rfl⟩
    interval_cases v <;> rfl
  · rintro rfl
    cases b <;> decide

theorem mask_iff {v : Nat} {m : BitVec 13} : v < 8192 ∧ m = BitVec.ofNat 13 v ↔ v = m.toNat := by
  constructor
  · rintro ⟨hv, rfl⟩
    exact (Nat.mod_eq_of_lt hv).symm
  · rintro rfl
    exact ⟨m.isLt, BitVec.ofNat_toNat .. ▸ (BitVec.setWidth_eq m).symm⟩

theorem flash_erased_iff {flash : List Byte} (h : flash.length = 66) :
    flash.all (· == 0xFF) = true ↔ flash = List.replicate 66 0xFF := by
  rw [List.all_eq_true, List.eq_replicate_iff]
  simp [h]

theorem erased_image_unread : readProfileImage (List.replicate 64 0xFF) = none := by decide

/-- Flash that holds an image and two bytes after it. -/
theorem loadProfile_image {img : List Byte} {x y : Byte} (hl : img.length = 64)
    (he : img ++ [x, y] ≠ List.replicate 66 0xFF) :
    loadProfile (img ++ [x, y]) =
      if [x, y] = leBytes 2 (crc16 img).toNat then
        (readProfileImage img).elim (.corrupt, factoryProfile) fun p => (.loaded, p)
      else (.corrupt, factoryProfile) := by
  have hnot : ¬(img ++ [x, y]).all (· == 0xFF) = true := fun h => he ((flash_erased_iff (by simp [hl])).1 h)
  have htake : (img ++ [x, y]).take 64 = img := by rw [← hl, List.take_left]
  have hfield : field (img ++ [x, y]) 0x40 2 = leNat [x, y] := by
    rw [field, show (0x40 : Nat) = img.length from hl.symm, List.drop_left]
    rfl
  have hcrc : leNat [x, y] = (crc16 img).toNat ↔ [x, y] = leBytes 2 (crc16 img).toNat := by
    constructor
    · intro h
      rw [← h]
      exact (leBytes_leNat [x, y]).symm
    · intro h
      rw [h, leNat_leBytes]
      exact Nat.mod_eq_of_lt (crc16 img).isLt
  rw [loadProfile, if_neg hnot, htake, hfield]
  by_cases h : [x, y] = leBytes 2 (crc16 img).toNat
  · rw [if_pos (hcrc.2 h), if_pos h]
    cases readProfileImage img <;> rfl
  · rw [if_neg fun h' => h (hcrc.1 h'), if_neg h]

/-- Settles O47: what follows the image decides between the image and CORRUPT, and the image's fields and ranges are those of
`readProfileImage_iff`. -/
theorem profileLoadIsDecided : Obligations.ProfileLoadIsDecided := by
  refine ⟨if_pos (by decide), fun img hl => ?_⟩
  obtain ⟨x, y, hcrc⟩ : ∃ x y, leBytes 2 (crc16 img).toNat = [x, y] :=
    List.length_eq_two.1 (leBytes_length 2 _)
  rw [hcrc]
  refine ⟨fun p hp => ?_, fun hnone he => ?_, fun x' y' hdiff he => ?_, fun p => ?_⟩
  · have he : img ++ [x, y] ≠ List.replicate 66 0xFF := by
      intro h
      have himg : img = List.replicate 64 0xFF := by
        have := congrArg (List.take 64) h
        rwa [← hl, List.take_left, hl, List.take_replicate] at this
      rw [himg, erased_image_unread] at hp
      cases hp
    rw [loadProfile_image hl he, if_pos hcrc.symm, hp]
    rfl
  · rw [loadProfile_image hl he, if_pos hcrc.symm, hnone]
    rfl
  · rw [loadProfile_image hl he, if_neg (hcrc ▸ hdiff)]
  · rw [readProfileImage_iff]
    constructor
    · rintro ⟨f, hf, ⟨hbase, hend, hlow, hhigh, hpol, hmask, hlock⟩, rfl⟩
      refine ⟨rfl, Nat.dvd_of_mod_eq_zero hbase, hend, rfl, hlow, hhigh, ?_, flag_iff.1 ⟨hpol, rfl⟩, mask_iff.1 ⟨hmask, rfl⟩,
        flag_iff.1 ⟨hlock, rfl⟩⟩
      rw [hf]
      cases f <;> rfl
    · rintro ⟨hbase, hdvd, hend, hperiod, hlow, hhigh, hf, hpol, hmask, hlock⟩
      obtain ⟨hpol, hhighActive⟩ := flag_iff.2 hpol
      obtain ⟨hmask, hdefault⟩ := mask_iff.2 hmask
      obtain ⟨hlock, hfixed⟩ := flag_iff.2 hlock
      refine ⟨p.jobFunction, ?_, ⟨?_, ?_, ?_, ?_, hpol, hmask, hlock⟩, ?_⟩
      · rw [hf]
        cases p.jobFunction <;> rfl
      · rw [hbase]
        exact Nat.mod_eq_zero_of_dvd hdvd
      · rw [hbase]
        exact hend
      · rw [hperiod]
        exact hlow
      · rw [hperiod]
        exact hhigh
      · rw [imageProfile, hbase, hperiod, ← hhighActive, ← hdefault, ← hfixed]

/-! ### The tiling rule as a partition (R75, R76) -/

/-- The kept widths of placements, added. -/
def totalWidth (Lp : Nat) (ps : List LanePlacement) : Nat := (ps.map (keptWidth Lp)).sum

/-- Pixel x lies in the band of a placement. -/
def covers (Lp x : Nat) (p : LanePlacement) : Bool := decide (p.colStart ≤ x) && decide (x < p.colStart + keptWidth Lp p)

theorem covers_iff {Lp x : Nat} {p : LanePlacement} :
    covers Lp x p = true ↔ p.colStart ≤ x ∧ x < p.colStart + keptWidth Lp p := by
  rw [covers, Bool.and_eq_true, decide_eq_true_eq, decide_eq_true_eq]

/-- Placements that tile the columns from c on cover each of them once, and lie among them. -/
theorem tilesFrom_covers {Lp : Nat} {ps : List LanePlacement} {c : Nat} (h : tilesFrom Lp c ps = true) :
    (∀ p ∈ ps, c ≤ p.colStart ∧ p.colStart + keptWidth Lp p ≤ c + totalWidth Lp ps) ∧
      ∀ x, ps.countP (covers Lp x) = if c ≤ x ∧ x < c + totalWidth Lp ps then 1 else 0 := by
  induction ps generalizing c with
  | nil =>
    refine ⟨fun p hp => by simp at hp, fun x => ?_⟩
    rw [if_neg]
    · rfl
    · rw [totalWidth, List.map_nil, List.sum_nil]
      omega
  | cons p ps ih =>
    rw [tilesFrom, Bool.and_eq_true, decide_eq_true_eq] at h
    obtain ⟨hstart, hrest⟩ := h
    obtain ⟨hlie, hcount⟩ := ih hrest
    have htotal : totalWidth Lp (p :: ps) = keptWidth Lp p + totalWidth Lp ps := by simp [totalWidth]
    rw [htotal]
    refine ⟨fun q hq => ?_, fun x => ?_⟩
    · rcases List.mem_cons.1 hq with rfl | hq
      · omega
      · obtain ⟨h1, h2⟩ := hlie q hq
        omega
    · rw [List.countP_cons, hcount]
      have hp := covers_iff (Lp := Lp) (x := x) (p := p)
      by_cases hx : covers Lp x p = true
      · obtain ⟨h1, h2⟩ := hp.1 hx
        rw [if_pos hx, if_neg (by omega), if_pos (by omega)]
      · rw [if_neg hx]
        have hout : ¬(p.colStart ≤ x ∧ x < p.colStart + keptWidth Lp p) := fun h => hx (hp.2 h)
        split_ifs <;> omega

/-- Placements in order of colStart, none empty, that cover each column from c on once and lie among them tile them. -/
theorem tilesFrom_of_covers {Lp : Nat} {ps : List LanePlacement} {c : Nat} (hpos : ∀ p ∈ ps, 0 < keptWidth Lp p)
    (hsorted : ps.Pairwise fun p q => p.colStart ≤ q.colStart)
    (hlie : ∀ p ∈ ps, c ≤ p.colStart ∧ p.colStart + keptWidth Lp p ≤ c + totalWidth Lp ps)
    (hcount : ∀ x, c ≤ x → x < c + totalWidth Lp ps → ps.countP (covers Lp x) = 1) : tilesFrom Lp c ps = true := by
  induction ps generalizing c with
  | nil => rfl
  | cons p ps ih =>
    have htotal : totalWidth Lp (p :: ps) = keptWidth Lp p + totalWidth Lp ps := by simp [totalWidth]
    rw [htotal] at hlie hcount
    have hp := hpos p (List.mem_cons_self ..)
    obtain ⟨hfirst, hrest⟩ := List.pairwise_cons.1 hsorted
    have hstart : p.colStart = c := by
      have hone := hcount c le_rfl (by omega)
      obtain ⟨q, hq, hcover⟩ := List.countP_pos_iff.1 (by omega : 0 < (p :: ps).countP (covers Lp c))
      obtain ⟨hqc, -⟩ := covers_iff.1 hcover
      have hpc := (hlie p (List.mem_cons_self ..)).1
      rcases List.mem_cons.1 hq with rfl | hq
      · omega
      · have := hfirst q hq
        omega
    have hbeyond (q : LanePlacement) (hq : q ∈ ps) : c + keptWidth Lp p ≤ q.colStart := by
      by_contra hlow
      obtain ⟨h1, h2⟩ := hlie q (List.mem_cons_of_mem _ hq)
      have hqpos := hpos q (List.mem_cons_of_mem _ hq)
      have hone := hcount q.colStart h1 (by omega)
      have hboth : covers Lp q.colStart p = true := covers_iff.2 ⟨by omega, by omega⟩
      have hself : 0 < ps.countP (covers Lp q.colStart) :=
        List.countP_pos_iff.2 ⟨q, hq, covers_iff.2 ⟨le_rfl, by omega⟩⟩
      rw [List.countP_cons, if_pos hboth] at hone
      omega
    rw [tilesFrom, Bool.and_eq_true, decide_eq_true_eq]
    refine ⟨hstart, ih (fun q hq => hpos q (List.mem_cons_of_mem _ hq)) hrest (fun q hq => ?_) fun x hlow hhigh => ?_⟩
    · have := (hlie q (List.mem_cons_of_mem _ hq)).2
      have := hbeyond q hq
      omega
    · have hone := hcount x (by omega) (by omega)
      have hout : ¬covers Lp x p = true := fun h => by
        obtain ⟨-, h2⟩ := covers_iff.1 h
        omega
      rwa [List.countP_cons, if_neg hout] at hone

theorem insertByStart_perm (p : LanePlacement) (ps : List LanePlacement) : (insertByStart p ps).Perm (p :: ps) := by
  induction ps with
  | nil => exact .refl _
  | cons q qs ih =>
    rw [insertByStart]
    split
    · exact .refl _
    · exact (ih.cons q).trans (.swap p q qs)

theorem sortByStart_perm (ps : List LanePlacement) : (sortByStart ps).Perm ps := by
  induction ps with
  | nil => exact .refl _
  | cons p ps ih => exact (insertByStart_perm p _).trans (ih.cons p)

theorem insertByStart_sorted {p : LanePlacement} {ps : List LanePlacement}
    (h : ps.Pairwise fun p q => p.colStart ≤ q.colStart) :
    (insertByStart p ps).Pairwise fun p q => p.colStart ≤ q.colStart := by
  induction ps with
  | nil => exact List.pairwise_singleton _ _
  | cons q qs ih =>
    obtain ⟨hq, hqs⟩ := List.pairwise_cons.1 h
    rw [insertByStart]
    split
    next hle => exact List.pairwise_cons.2 ⟨List.forall_mem_cons.2 ⟨hle, fun r hr => hle.trans (hq r hr)⟩, h⟩
    next hlt =>
      refine List.pairwise_cons.2 ⟨fun r hr => ?_, ih hqs⟩
      rcases List.mem_cons.1 ((insertByStart_perm p qs).subset hr) with rfl | hr
      · omega
      · exact hq r hr

theorem sortByStart_sorted (ps : List LanePlacement) : (sortByStart ps).Pairwise fun p q => p.colStart ≤ q.colStart := by
  induction ps with
  | nil => exact List.Pairwise.nil
  | cons p ps ih => exact insertByStart_sorted ih

/-- The placements of the enabled lanes of a map. -/
def placements (m : SteeringMap) : List LanePlacement := allLanes.filterMap (lanePlacement m)

theorem enabledLanes_eq (m : SteeringMap) : enabledLanes m = allLanes.filterMap m.lanes.get := by
  have hall : m.lanes.toList = allLanes.map m.lanes.get := rfl
  rw [enabledLanes, hall, List.filterMap_map]
  rfl

theorem placements_eq (m : SteeringMap) : (enabledLanes m).map LaneMap.place = placements m := by
  rw [enabledLanes_eq, List.map_filterMap]
  rfl

theorem mem_enabledLanes {m : SteeringMap} {lm : LaneMap} : lm ∈ enabledLanes m ↔ ∃ l, m.lanes.get l = some lm := by
  rw [enabledLanes_eq, List.mem_filterMap]
  exact ⟨fun ⟨l, _, h⟩ => ⟨l, h⟩, fun ⟨l, h⟩ => ⟨l, mem_allLanes l, h⟩⟩

theorem mem_placements {m : SteeringMap} {p : LanePlacement} : p ∈ placements m ↔ ∃ l, lanePlacement m l = some p := by
  rw [placements, List.mem_filterMap]
  exact ⟨fun ⟨l, _, h⟩ => ⟨l, h⟩, fun ⟨l, h⟩ => ⟨l, mem_allLanes l, h⟩⟩

/-- The tiling rule of a map with no empty band: its bands cover each column of their total width once. -/
theorem tiles_iff {m : SteeringMap} (hpos : ∀ p ∈ placements m, 0 < keptWidth m.Lp p) :
    tiles m = true ↔
      (∀ p ∈ placements m, p.colStart + keptWidth m.Lp p ≤ totalWidth m.Lp (placements m)) ∧
        ∀ x < totalWidth m.Lp (placements m), (placements m).countP (covers m.Lp x) = 1 := by
  have hperm := sortByStart_perm (placements m)
  have htotal : totalWidth m.Lp (sortByStart (placements m)) = totalWidth m.Lp (placements m) :=
    (hperm.map _).sum_eq
  rw [tiles, placements_eq]
  constructor
  · intro h
    obtain ⟨hlie, hcount⟩ := tilesFrom_covers h
    rw [htotal, Nat.zero_add] at hlie hcount
    refine ⟨fun p hp => (hlie p (hperm.mem_iff.2 hp)).2, fun x hx => ?_⟩
    rw [← hperm.countP_eq, hcount, if_pos ⟨Nat.zero_le x, hx⟩]
  · rintro ⟨hlie, hcount⟩
    refine tilesFrom_of_covers (fun p hp => hpos p (hperm.mem_iff.1 hp)) (sortByStart_sorted _)
      (fun p hp => ⟨Nat.zero_le _, ?_⟩) fun x _ hx => ?_
    · rw [htotal, Nat.zero_add]
      exact hlie p (hperm.mem_iff.1 hp)
    · rw [hperm.countP_eq]
      rw [htotal, Nat.zero_add] at hx
      exact hcount x hx

/-- Of the eight lanes one has a property exactly when it is counted once. -/
theorem countP_allLanes_one (q : Lane → Bool) : allLanes.countP q = 1 ↔ ∃! l, q l = true := by
  have hmem (l : Lane) : l ∈ allLanes.filter q ↔ q l = true := by
    rw [List.mem_filter]
    exact and_iff_right (mem_allLanes l)
  rw [List.countP_eq_length_filter, List.length_eq_one_iff]
  constructor
  · rintro ⟨l, hl⟩
    refine ⟨l, (hmem l).1 (by rw [hl]; exact List.mem_singleton_self l), fun k hk => ?_⟩
    have hk' := (hmem k).2 hk
    rwa [hl, List.mem_singleton] at hk'
  · rintro ⟨l, hl, hunique⟩
    have hnodup : (allLanes.filter q).Nodup := (by decide : allLanes.Nodup).filter q
    refine ⟨l, List.perm_singleton.1 ((List.perm_ext_iff_of_nodup hnodup (List.nodup_singleton l)).2 fun k => ?_)⟩
    rw [hmem, List.mem_singleton]
    exact ⟨hunique k, fun h => h ▸ hl⟩

/-- One lane covers a pixel exactly when one placement does. -/
theorem covers_once_iff (m : SteeringMap) (x : Nat) :
    (placements m).countP (covers m.Lp x) = 1 ↔ ∃! l, ∃ p, lanePlacement m l = some p ∧ covers m.Lp x p = true := by
  have hcount : (placements m).countP (covers m.Lp x) =
      allLanes.countP fun l => (lanePlacement m l).any (covers m.Lp x) := by
    rw [placements, List.countP_filterMap]
    exact List.countP_congr fun l _ => by cases lanePlacement m l <;> simp
  have hlane (l : Lane) :
      (lanePlacement m l).any (covers m.Lp x) = true ↔ ∃ p, lanePlacement m l = some p ∧ covers m.Lp x p = true := by
    cases lanePlacement m l <;> simp
  simp only [← hlane]
  rw [hcount, countP_allLanes_one]

/-- A byte lies in a band exactly when its pixel does. -/
theorem inBand_iff {m : SteeringMap} (hP : 0 < m.P) (p : LanePlacement) (c : Nat) :
    inBand m p c ↔ covers m.Lp (c / m.P) p = true := by
  rw [inBand, covers_iff, Nat.le_div_iff_mul_le hP, Nat.div_lt_iff_lt_mul hP]

/-- The bands partition the image row exactly when the map tiles it, its bands being not empty. -/
theorem bandsPartition_iff {m : SteeringMap} (hP : 0 < m.P) (hIw : m.Iw = totalWidth m.Lp (placements m))
    (hpos : ∀ p ∈ placements m, 0 < keptWidth m.Lp p) : BandsPartition m ↔ tiles m = true := by
  rw [tiles_iff hpos, BandsPartition, hIw]
  refine and_congr ?_ ?_
  · simp only [mem_placements]
    exact ⟨fun h p ⟨l, hl⟩ => h l p hl, fun h l p hl => h p ⟨l, hl⟩⟩
  · simp only [covers_once_iff, inBand_iff hP]
    constructor
    · intro h x hx
      have := h (x * m.P) (Nat.mul_lt_mul_of_pos_right hx hP)
      rwa [Nat.mul_div_cancel _ hP] at this
    · intro h c hc
      exact h (c / m.P) ((Nat.div_lt_iff_lt_mul hP).2 hc)

/-! ### The map record (R128, R132, R170) -/

theorem firstFailing_none_iff (cs : List (Nat × Bool)) : firstFailing cs = none ↔ ∀ c ∈ cs, c.2 = false := by
  refine ⟨firstFailing_none, fun h => ?_⟩
  induction cs with
  | nil => rfl
  | cons c cs ih =>
    obtain ⟨hc, hcs⟩ := List.forall_mem_cons.1 h
    rw [firstFailing, hc]
    exact ih hcs

theorem readMap_lane (bs : List Byte) (l : Lane) :
    (readMap bs).lanes.get l = if laneEnabled bs l then some (readLaneMap bs (field bs 0x010 1) l) else none :=
  Lanes.get_ofFn _ l

/-- The image width is the total of the kept widths (R75). -/
theorem imageWidth_eq (Lp : Nat) (lanes : Lanes (Option LanePlacement)) :
    imageWidth Lp lanes = (allLanes.map fun l => ((lanes.get l).map (keptWidth Lp)).getD 0).sum := by
  have hall : lanes.toList = allLanes.map lanes.get := rfl
  rw [imageWidth, hall, List.map_map]
  refine congrArg List.sum (List.map_congr_left fun l _ => ?_)
  cases h : lanes.get l <;> simp [h]

theorem readMap_Iw (bs : List Byte) :
    (readMap bs).Iw =
      (allLanes.map fun l => ((lanePlacement (readMap bs) l).map (keptWidth (readMap bs).Lp)).getD 0).sum := by
  have hplaced (l : Lane) : (placementSet (readMap bs).lanes).get l = lanePlacement (readMap bs) l := Lanes.get_map _ _ l
  simp only [← hplaced]
  exact imageWidth_eq _ _

theorem totalWidth_filterMap (Lp : Nat) (f : Lane → Option LanePlacement) (ls : List Lane) :
    totalWidth Lp (ls.filterMap f) = (ls.map fun l => ((f l).map (keptWidth Lp)).getD 0).sum := by
  induction ls with
  | nil => rfl
  | cons l ls ih =>
    rw [List.filterMap_cons, List.map_cons, List.sum_cons, ← ih]
    cases f l with
    | none => simp
    | some p => simp [totalWidth]

theorem fieldBit0_eq (bs : List Byte) (offset : Nat) : fieldBit0 bs offset = (field bs offset 1).testBit 0 := by
  rw [fieldBit0, Nat.testBit_zero]
  rfl

end Sys2Proof.FormatProofs
end

section
/-! SUPPORT and PROOFS. Maps (chapters 5 and 9): the checks of a map record with their numbers, the frozen fields, and the
load of a map from its command to its outcome. -/

namespace Sys2Proof.MapProofs

open Sys2Proof Sys2Proof.Machine Sys2Proof.AcquisitionProofs Sys2Proof.MailboxProofs Sys2Proof.RunProofs Sys2Proof.PathProofs
open Sys2Proof.CommandProofs Sys2Proof.LayoutProofs Sys2Proof.FormatProofs

/-! ### Accepted records (R128, R132) -/

theorem format_eq (bs : List Byte) : field bs 0x000 4 = leNat (bs.take 4) := by rw [field, List.drop_zero]

/-- The image width of a map that was read is the total of its bands. -/
theorem readMap_totalWidth (bs : List Byte) :
    (readMap bs).Iw = totalWidth (readMap bs).Lp (placements (readMap bs)) := by
  rw [readMap_Iw, placements, totalWidth_filterMap]

/-- A map whose line length and trims are in range has no empty band. -/
theorem keptWidth_pos {m : SteeringMap} (hLp : 256 ≤ m.Lp)
    (htrims : ∀ l lm, m.lanes.get l = some lm → lm.place.trimL + lm.place.trimR ≤ m.Lp - 64) :
    ∀ p ∈ placements m, 0 < keptWidth m.Lp p := by
  intro p hp
  obtain ⟨l, hl⟩ := mem_placements.1 hp
  obtain ⟨lm, hlm, rfl⟩ := Option.map_eq_some_iff.1 hl
  have := htrims l lm hlm
  rw [keptWidth]
  omega

/-- A record passes every check exactly when it is in range and its bands partition the image row. -/
theorem failingCheck_none_iff (bs : List Byte) :
    failingCheck bs = none ↔ leNat (bs.take 4) = 1 ∧ MapInRange (readMap bs) ∧ BandsPartition (readMap bs) := by
  have hlanes {p : LaneMap → Prop} :
      (∀ lm ∈ enabledLanes (readMap bs), p lm) ↔ ∀ l lm, (readMap bs).lanes.get l = some lm → p lm := by
    simp only [mem_enabledLanes]
    exact ⟨fun h l lm hl => h lm ⟨l, hl⟩, fun h lm ⟨l, hl⟩ => h l lm hl⟩
  have hsome : enabledLanes (readMap bs) ≠ [] ↔ ∃ l, ((readMap bs).lanes.get l).isSome = true := by
    rw [Ne, List.eq_nil_iff_forall_not_mem, not_forall_not]
    simp only [mem_enabledLanes, Option.isSome_iff_exists]
    exact exists_comm
  have hbytes : 8 * windowBytes (readMap bs) = 8 * (readMap bs).S * ((readMap bs).Lp * (readMap bs).P) := apertureBytes _
  have hpartition (hLp : 256 ≤ (readMap bs).Lp) (hP : 0 < (readMap bs).P)
      (htrims : ∀ l lm, (readMap bs).lanes.get l = some lm → lm.place.trimL + lm.place.trimR ≤ (readMap bs).Lp - 64) :
      BandsPartition (readMap bs) ↔ tiles (readMap bs) = true :=
    bandsPartition_iff hP (readMap_totalWidth bs) (keptWidth_pos hLp htrims)
  rw [failingCheck, firstFailing_none_iff]
  simp only [mapChecks, List.mem_cons, List.not_mem_nil, or_false, forall_eq_or_imp, forall_eq, decide_eq_false_iff_not,
    List.isEmpty_eq_false_iff, List.any_eq_false, decide_eq_true_eq, Bool.not_eq_false', hlanes, hsome, hbytes, format_eq,
    MapInRange, Nat.dvd_iff_mod_eq_zero, not_lt, not_or, not_and_or, not_not, ne_eq, forall_and,
    show top48 = 2 ^ 48 from rfl]
  constructor
  · rintro ⟨h1, h2, h3, h4, h5, h6, h7, h8, h9, h10, h11, h12, h13, h14⟩
    refine ⟨h1, ⟨by omega, by omega, by omega, h5, ⟨h6, h7⟩, h9, h10, by omega, h12, by omega, by omega⟩, ?_⟩
    exact (hpartition (by omega) (by omega) h6).2 h8
  · rintro ⟨h1, ⟨h2, h3, h4, h5, ⟨h6, h7⟩, h9, h10, h11, h12, h13, h14⟩, h8⟩
    refine ⟨h1, by omega, by omega, by omega, h5, h6, h7, ?_, h9, h10, by omega, h12, by omega, by omega⟩
    exact (hpartition (by omega) (by omega) h6).1 h8

/-- Settles O48: the checks by `failingCheck_none_iff`, the fields by the offsets of the record. -/
theorem acceptedMapsPartitionTheRow : Obligations.AcceptedMapsPartitionTheRow := by
  refine fun bs => ⟨failingCheck_none_iff bs, fun m hm => ?_⟩
  subst hm
  refine ⟨⟨Nat.mod_eq_of_lt (field_lt bs 4 4), rfl, rfl, rfl, rfl, rfl, rfl, rfl, fieldBit0_eq _ _, fieldBit0_eq _ _, ?_, rfl,
    rfl, rfl, rfl, rfl, rfl⟩, fun l => ?_, readMap_Iw bs⟩
  · rw [← fieldBit0_eq]
    rfl
  · rw [readMap_lane]
    by_cases henabled : laneEnabled bs l = true
    · rw [if_pos henabled]
      refine ⟨iff_of_true rfl henabled, fun lm hlm => ?_⟩
      obtain rfl := Option.some.inj hlm
      refine ⟨rfl, ?_, ?_, ?_, ?_, fun i => ?_⟩
      · exact congrArg (field bs · 2) (by omega)
      · exact congrArg (field bs · 2) (by omega)
      · exact congrArg (field bs · 2) (by omega)
      · refine (fieldBit0_eq bs _).trans (congrArg (fun k => (field bs k 1).testBit 0) ?_)
        omega
      · have hplace : 0x080 + 16 * l.val + 12 + i = 0x08C + 16 * l.val + i := by omega
        change (((bs.drop (0x080 + 16 * l.val + 12)).take 4).take (field bs 0x010 1))[i]? = _
        rw [List.take_take, List.getElem?_take, List.getElem?_drop, hplace, Nat.min_comm]
        rfl
    · rw [if_neg henabled]
      exact ⟨iff_of_false Bool.false_ne_true henabled, fun lm hlm => by cases hlm⟩

/-! ### The first check that fails, and the first field that differs (R129, R132) -/

/-- Numbered checks in order, each the property of its number as far as no smaller number has it, find the least number
with the property. -/
theorem firstFailing_first {P : Nat → Prop} {checks : List (Nat × Bool)}
    (hagree : ∀ q ∈ checks, (∀ k < q.1, ¬P k) → (q.2 = true ↔ P q.1)) (hsorted : checks.Pairwise fun a b => a.1 < b.1)
    (hcover : ∀ n, P n → n ∈ checks.map Prod.fst) {n : Nat} (h : IsFirst P n) : firstFailing checks = some n := by
  obtain ⟨hn, hleast⟩ := h
  have hmem := hcover n hn
  clear hcover
  induction checks with
  | nil => simp at hmem
  | cons q qs ih =>
    obtain ⟨k, fails⟩ := q
    obtain ⟨hbefore, hqs⟩ := List.pairwise_cons.1 hsorted
    obtain ⟨hq, hrest⟩ := List.forall_mem_cons.1 hagree
    rcases List.mem_cons.1 hmem with rfl | hlater
    · exact if_pos ((hq hleast).2 hn)
    · obtain ⟨q', hq', rfl⟩ := List.mem_map.1 hlater
      have hk := hbefore q' hq'
      have hpasses : ¬fails = true := fun hf => hleast k hk ((hq fun j hj => hleast j (hj.trans hk)).1 hf)
      rw [firstFailing, if_neg hpasses]
      exact ih hrest hqs hlater

theorem firstFailing_never {P : Nat → Prop} {checks : List (Nat × Bool)}
    (hagree : ∀ q ∈ checks, (∀ k < q.1, ¬P k) → (q.2 = true ↔ P q.1)) (h : ∀ n, ¬P n) : firstFailing checks = none := by
  refine (firstFailing_none_iff checks).2 fun q hq => Bool.eq_false_iff.2 fun hf => ?_
  exact h q.1 ((hagree q hq fun k _ => h k).1 hf)

/-- The starts of a tiling are the sums of the widths before them. -/
theorem tilesFrom_iff {Lp c : Nat} {ps : List LanePlacement} :
    tilesFrom Lp c ps = true ↔ ∀ i p, ps[i]? = some p → p.colStart = c + ((ps.take i).map (keptWidth Lp)).sum := by
  induction ps generalizing c with
  | nil => simp [tilesFrom]
  | cons q qs ih =>
    rw [tilesFrom, Bool.and_eq_true, decide_eq_true_eq, ih]
    constructor
    · rintro ⟨hq, hqs⟩ i p hp
      cases i with
      | zero =>
        obtain rfl : q = p := by simpa using hp
        simpa using hq
      | succ i =>
        rw [hqs i p (by simpa using hp), List.take_succ_cons, List.map_cons, List.sum_cons, Nat.add_assoc]
    · intro h
      refine ⟨by simpa using h 0 q rfl, fun i p hp => ?_⟩
      rw [h (i + 1) p (by simpa using hp), List.take_succ_cons, List.map_cons, List.sum_cons, Nat.add_assoc]

/-- The tiling rule of a map with no empty band, in whatever order the lanes are taken (R75). -/
theorem tiles_iff_tiled {m : SteeringMap} (hpos : ∀ p ∈ placements m, 0 < keptWidth m.Lp p) : tiles m = true ↔ Tiled m := by
  constructor
  · intro h
    rw [tiles, placements_eq] at h
    refine ⟨_, sortByStart_perm (placements m), fun i p hp => ?_⟩
    rw [tilesFrom_iff.1 h i p hp, Nat.zero_add]
  · rintro ⟨ps, hperm, hstarts⟩
    have htiles : tilesFrom m.Lp 0 ps = true := tilesFrom_iff.2 fun i p hp => by rw [hstarts i p hp, Nat.zero_add]
    obtain ⟨hlie, hcount⟩ := tilesFrom_covers htiles
    have htotal : totalWidth m.Lp ps = totalWidth m.Lp (placements m) := (hperm.map _).sum_eq
    rw [htotal, Nat.zero_add] at hlie hcount
    refine (tiles_iff hpos).2 ⟨fun p hp => (hlie p (hperm.mem_iff.2 hp)).2, fun x hx => ?_⟩
    rw [← List.Perm.countP_eq _ (show ps.Perm (placements m) from hperm), hcount, if_pos ⟨Nat.zero_le x, hx⟩]

/-- Each check of R132 fails exactly when the record fails it as the manual numbers it, the checks before it passed. -/
theorem mapChecks_agree (bs : List Byte) :
    ∀ q ∈ mapChecks (field bs 0x000 4) (readMap bs), (∀ k < q.1, ¬CheckFails bs k) → (q.2 = true ↔ CheckFails bs q.1) := by
  have hlanes {p : LaneMap → Prop} :
      (∃ lm ∈ enabledLanes (readMap bs), p lm) ↔ ∃ l lm, (readMap bs).lanes.get l = some lm ∧ p lm := by
    simp only [mem_enabledLanes]
    exact ⟨fun ⟨lm, ⟨l, hl⟩, h⟩ => ⟨l, lm, hl, h⟩, fun ⟨l, lm, hl, h⟩ => ⟨lm, ⟨l, hl⟩, h⟩⟩
  have hnone : enabledLanes (readMap bs) = [] ↔ ∀ l, (readMap bs).lanes.get l = none := by
    rw [List.eq_nil_iff_forall_not_mem]
    simp only [mem_enabledLanes, Option.eq_none_iff_forall_not_mem, not_exists]
    exact forall_comm
  intro q hq
  simp only [mapChecks, List.mem_cons, List.not_mem_nil, or_false] at hq
  rcases hq with rfl | rfl | rfl | rfl | rfl | rfl | rfl | rfl | rfl | rfl | rfl | rfl | rfl | rfl <;> intro hbefore <;>
    simp only [decide_eq_true_eq, CheckFails, format_eq, Nat.dvd_iff_mod_eq_zero, List.isEmpty_iff, List.any_eq_true, hlanes,
      hnone, apertureBytes, show top48 = 2 ^ 48 from rfl, List.mem_cons, List.not_mem_nil, or_false, not_or, Bool.not_eq_true']
  case inr.inr.inr.inr.inr.inr.inr.inl =>
    have hLp := hbefore 3 (show (3 : Nat) < 8 by decide)
    have htrims := hbefore 6 (show (6 : Nat) < 8 by decide)
    simp only [CheckFails, not_or, not_lt, not_exists, not_and] at hLp htrims
    rw [← tiles_iff_tiled (keptWidth_pos hLp.1 htrims), Bool.not_eq_true]
  case inr.inr.inr.inr.inr.inr.inr.inr.inl => exact Iff.rfl

theorem checkFails_cover (bs : List Byte) (n : Nat) (h : CheckFails bs n) :
    n ∈ (mapChecks (field bs 0x000 4) (readMap bs)).map Prod.fst := by
  change n ∈ [1, 2, 3, 4, 5, 6, 7, 8, 9, 10, 11, 12, 13, 14]
  unfold CheckFails at h
  dsimp only at h
  split at h
  case h_15 => exact h.elim
  all_goals decide

/-- The check that a record fails first, and none when it fails none. -/
theorem failingCheck_first {bs : List Byte} {n : Nat} (h : IsFirst (CheckFails bs) n) : failingCheck bs = some n :=
  firstFailing_first (mapChecks_agree bs) (by simp [mapChecks]) (checkFails_cover bs) h

theorem failingCheck_never {bs : List Byte} (h : ∀ n, ¬CheckFails bs n) : failingCheck bs = none :=
  firstFailing_never (mapChecks_agree bs) h

/-- Each frozen field differs exactly as the manual numbers it, those before it being the same. -/
theorem frozenChecks_agree (a b : SteeringMap) :
    ∀ q ∈ frozenChecks a b, (∀ k < q.1, ¬FrozenDiffers a b k) → (q.2 = true ↔ FrozenDiffers a b q.1) := by
  have henables : a.lanes.map Option.isSome ≠ b.lanes.map Option.isSome ↔
      ∃ l, (a.lanes.get l).isSome ≠ (b.lanes.get l).isSome := by
    rw [Ne, lanes_ext, not_forall]
    simp only [Lanes.get_map, ne_eq]
  intro q hq
  simp only [frozenChecks, List.mem_cons, List.not_mem_nil, or_false] at hq
  rcases hq with rfl | rfl | rfl | rfl | rfl | rfl | rfl | rfl | rfl | rfl | rfl | rfl | rfl | rfl | rfl <;> intro hbefore <;>
    simp only [decide_eq_true_eq, FrozenDiffers, henables]
  case inr.inr.inr.inr.inr.inl =>
    have hsame := hbefore 5 (show (5 : Nat) < 6 by decide)
    simp only [FrozenDiffers, not_exists, ne_eq, not_not] at hsame
    rw [Ne, lanes_ext, not_forall]
    refine exists_congr fun l => ?_
    have hl := hsame l
    rw [Lanes.get_map, Lanes.get_map]
    cases hx : a.lanes.get l <;> cases hy : b.lanes.get l <;> simp_all

theorem frozenDiffers_cover (a b : SteeringMap) (n : Nat) (h : FrozenDiffers a b n) :
    n ∈ (frozenChecks a b).map Prod.fst := by
  change n ∈ [1, 2, 3, 4, 5, 6, 7, 8, 9, 10, 11, 12, 13, 14, 15]
  unfold FrozenDiffers at h
  split at h
  case h_16 => exact h.elim
  all_goals decide

theorem firstFrozenDifference_first {a b : SteeringMap} {n : Nat} (h : IsFirst (FrozenDiffers a b) n) :
    firstFrozenDifference a b = some n :=
  firstFailing_first (frozenChecks_agree a b) (by simp [frozenChecks]) (frozenDiffers_cover a b) h

theorem firstFrozenDifference_never {a b : SteeringMap} (h : ∀ n, ¬FrozenDiffers a b n) : firstFrozenDifference a b = none :=
  firstFailing_never (frozenChecks_agree a b) h

/-! ### The load of a map (R130 to R135) -/

/-- The end of a load on a settled list. -/
theorem endLoad_eq {s : State} (hs : ListSettled s) (q : BitVec 32) (r : ResultCode) (d : List Byte) :
    endLoad q r d s =
      { s with
        mailbox := { s.mailbox with inProgress := none }
        list :=
          { s.list with
            jobs := s.list.jobs ++ [.response { seq := q, code := 0x10, result := r, data := d }] } } := by
  have hsettled : ListSettled (setProgress none s) := listSettled_of_same hs rfl rfl
  rw [endLoad, respond_of_settled hsettled]
  rfl

theorem leBytes_one (n : Nat) : leBytes 1 n = [BitVec.ofNat 8 n] := by simp [leBytes, List.range_succ]

section
variable {s : State} {q : BitVec 32} {a : Nat} {bs : List Byte} (hprogress : s.mailbox.inProgress = some (.loadMap q a))
include hprogress

theorem mapReadDone_failed : mapReadDone none s = endLoad q .readFault [] (bump .busFaults s) := by
  simp only [mapReadDone, hprogress]

theorem mapReadDone_invalid {n : Nat} (h : failingCheck bs = some n) :
    mapReadDone (some bs) s = endLoad q .invalidMap [BitVec.ofNat 8 n] s := by
  simp only [mapReadDone, hprogress, h, leBytes_one]

theorem mapReadDone_live (h : failingCheck bs = none) (hstate : s.acq.state = .disarmed) :
    mapReadDone (some bs) s = endLoad q .live (leBytes 4 (readMap bs).generation.toNat) (makeLive (readMap bs) s) := by
  simp only [mapReadDone, hprogress, h, disposeMap, hstate]

theorem mapReadDone_refused {m : SteeringMap} {n : Nat} (h : failingCheck bs = none) (hstate : s.acq.state ≠ .disarmed)
    (hm : s.maps.live = some m) (hdiff : firstFrozenDifference m (readMap bs) = some n) :
    mapReadDone (some bs) s = endLoad q .refusedFrozen [BitVec.ofNat 8 n] s := by
  simp only [mapReadDone, hprogress, h, disposeMap, hm, hdiff, leBytes_one]

theorem mapReadDone_staged {m : SteeringMap} (h : failingCheck bs = none) (hstate : s.acq.state ≠ .disarmed)
    (hm : s.maps.live = some m) (hdiff : firstFrozenDifference m (readMap bs) = none) :
    mapReadDone (some bs) s =
      endLoad q .staged (leBytes 4 (readMap bs).generation.toNat)
        { s with maps := { s.maps with staged := some (readMap bs) } } := by
  simp only [mapReadDone, hprogress, h, disposeMap, hm, hdiff]

theorem mapReadDone_noLive (h : failingCheck bs = none) (hstate : s.acq.state ≠ .disarmed) (hm : s.maps.live = none) :
    mapReadDone (some bs) s =
      endLoad q .staged (leBytes 4 (readMap bs).generation.toNat)
        { s with maps := { s.maps with staged := some (readMap bs) } } := by
  simp only [mapReadDone, hprogress, h, disposeMap, hm]

end

/-- The frames of a map that becomes live while the bridge is DISARMED (R66, R114, R134). -/
theorem makeLive_lanes (m : SteeringMap) (s : State) (l : Lane) :
    ((makeLive m s).ring.step.get l, (makeLive m s).ring.mismatches.get l) =
      if (m.lanes.get l).isNone then (.off, 0)
      else if s.ring.step.get l = .off then (.inStep, 0)
      else (s.ring.step.get l, s.ring.mismatches.get l) := by
  simp only [makeLive, Lanes.get_ofFn, stepAtMap, mismatchesAtMap]
  by_cases hlane : (m.lanes.get l).isSome
  · have hsome : (m.lanes.get l).isNone = false := by rw [← Option.not_isSome, hlane]; rfl
    rw [if_pos hlane, if_pos hlane, hsome]
    by_cases hoff : s.ring.step.get l = .off <;> simp [hoff]
  · have hnone : (m.lanes.get l).isNone = true := by simpa using hlane
    rw [if_neg hlane, if_neg hlane, hnone, if_pos rfl]

theorem makeLive_ringUnit (m : SteeringMap) (s : State) :
    (makeLive m s).ringUnit =
      if ringChanges s.maps.live m then { s.ringUnit with taken := 0, returned := 0, index := 0 } else s.ringUnit := rfl

theorem ringChanges_other {live : Option SteeringMap} {m : SteeringMap}
    (h : ∀ old, live = some old → old.ringBase ≠ m.ringBase ∨ old.B ≠ m.B) : ringChanges live m = true := by
  cases live with
  | none => rfl
  | some old => simpa [ringChanges] using h old rfl

theorem ringChanges_same {m old : SteeringMap} (hbase : old.ringBase = m.ringBase) (hB : old.B = m.B) :
    ringChanges (some old) m = false := by
  simp [ringChanges, hbase, hB]

/-- Maps with no frozen field that differs agree in all of them. -/
theorem frozenAgree_of_never {a b : SteeringMap} (h : ∀ n, ¬FrozenDiffers a b n) : FrozenAgree a b := by
  have hsame (n : Nat) := h n
  have hlag : ∀ l, (a.lanes.get l).map LaneMap.lag = (b.lanes.get l).map LaneMap.lag := by
    intro l
    have henabled := h 5
    have hlags := h 6
    simp only [FrozenDiffers, not_exists, ne_eq, not_not, not_and] at henabled hlags
    have hl := henabled l
    rcases hx : a.lanes.get l with _ | x <;> rcases hy : b.lanes.get l with _ | y
    · rfl
    · rw [hx, hy] at hl
      cases hl
    · rw [hx, hy] at hl
      cases hl
    · exact congrArg some (hlags l x y hx hy)
  exact ⟨not_not.1 (hsame 1), not_not.1 (hsame 2), not_not.1 (hsame 3), not_not.1 (hsame 4), hlag, not_not.1 (hsame 7),
    not_not.1 (hsame 8), not_not.1 (hsame 9), not_not.1 (hsame 10), not_not.1 (hsame 11), not_not.1 (hsame 12),
    not_not.1 (hsame 13), not_not.1 (hsame 14), not_not.1 (hsame 15)⟩

/-- A property that some number has, has a first one. -/
theorem never_or_first (p : Nat → Prop) : (∀ n, ¬p n) ∨ ∃ n, IsFirst p n := by
  classical
  by_cases h : ∃ n, p n
  · exact .inr ⟨Nat.find h, Nat.find_spec h, fun k hk => Nat.find_min h hk⟩
  · exact .inl (not_exists.1 h)

theorem isFirst_unique {p : Nat → Prop} {n k : Nat} (hn : IsFirst p n) (hk : IsFirst p k) : n = k := by
  obtain ⟨hpn, hbn⟩ := hn
  obtain ⟨hpk, hbk⟩ := hk
  exact Nat.le_antisymm (not_lt.1 fun h => hbn k h hpk) (not_lt.1 fun h => hbk n h hpn)

theorem takeLoadMap_beyond {c : TakenCommand} (h : top48 < paramAddress c + 512) (s : State) :
    takeLoadMap c s = respond c.seq c.code .invalidParam [] s := by
  rw [takeLoadMap, if_pos h]

theorem takeLoadMap_within {c : TakenCommand} (h : ¬top48 < paramAddress c + 512) (s : State) :
    takeLoadMap c s =
      requestRead .maps (paramAddress c) 512 (setProgress (some (.loadMap c.seq (paramAddress c))) s) := by
  rw [takeLoadMap, if_neg h]

/-- Settles O39: the command and its read; then the completion, by what it delivers, by the check the record fails first
and by the disposal of an accepted map. -/
theorem mapIsLoaded : Obligations.MapIsLoaded := by
  refine ⟨fun s c a hf hs ha ht => ⟨fun hreach => ?beyond, fun tag hwithin htag => ?read⟩,
    fun s c xs ys r q a hawake hreads hunit htag hbefore hreserved hlen hs hprogress => ?completes⟩
  case beyond =>
    have hbeyond : top48 < paramAddress c + 512 := by rw [paramAddress_eq, ← ha]; exact hreach
    exact refusedIfFaulted_answered hf ht (takeLoadMap_beyond hbeyond _) hs
  case read =>
    rw [← paramAddress_eq] at ha
    have hallowed : refusedIfFaulted takeLoadMap c (released s) = takeLoadMap c (released s) :=
      if_neg (ne_true_of_eq_false hf)
    refine (carryOut_of_taken (f := refusedIfFaulted takeLoadMap) ht).trans (congrArg Host.Outcome.next ?_)
    have hreach : ¬top48 < paramAddress c + 512 := by rw [← ha, top48]; omega
    rw [hallowed, takeLoadMap_within hreach, ← ha]
    exact requestRead_of_nextTag (s := setProgress (some (.loadMap c.seq a)) (released s)) (tag := tag) htag _ _ _
  case completes =>
    have hstep := exec_completion hawake hreads htag hbefore hreserved
    rw [hunit] at hstep
    have hsettled : ListSettled { s with reads := xs ++ ys } := listSettled_of_same hs rfl rfl
    have hmid : ({ s with reads := xs ++ ys } : State).mailbox.inProgress = some (.loadMap q a) := hprogress
    by_cases hread : c.ok = true ∧ c.data.length = 512
    case neg =>
      have hfail : c.ok = false ∨ c.data.length ≠ 512 := by
        rcases not_and_or.1 hread with h | h
        · exact .inl (eq_false_of_ne_true h)
        · exact .inr h
      rw [deliveredData_failed (hlen.symm ▸ hfail), deliver, mapReadDone_failed hmid,
        endLoad_eq (s := bump .busFaults { s with reads := xs ++ ys }) (listSettled_of_same hs rfl rfl)] at hstep
      exact ⟨_, _, _, hstep, rfl, rfl, rfl, rfl, rfl, rfl, rfl, fun _ => ⟨rfl, rfl⟩, fun _ => ⟨rfl, rfl, rfl, rfl⟩,
        fun hok hdata => absurd ⟨hok, hdata⟩ hread⟩
    case pos =>
    have hnotFailed : ¬(c.ok = false ∨ c.data.length ≠ 512) :=
      not_or.2 ⟨ne_false_of_eq_true hread.1, not_not.2 hread.2⟩
    rw [deliveredData_ok hread.1 (hread.2.trans hlen.symm), deliver] at hstep
    rcases never_or_first (CheckFails c.data) with hnever | ⟨n, hn⟩
    case inr =>
      rw [mapReadDone_invalid hmid (failingCheck_first hn), endLoad_eq hsettled] at hstep
      exact ⟨_, _, _, hstep, rfl, rfl, rfl, rfl, rfl, rfl, rfl, fun _ => ⟨rfl, rfl⟩, fun h => absurd h hnotFailed,
        fun _ _ => ⟨rfl, fun k hk => ⟨rfl, by rw [isFirst_unique hk hn], rfl⟩, fun h => absurd hn.1 (h n)⟩⟩
    case inl =>
    have hpass := failingCheck_never hnever
    have hnotFirst {α : Prop} {n : Nat} (h : IsFirst (CheckFails c.data) n) : α := absurd h.1 (hnever n)
    by_cases hstate : s.acq.state = .disarmed
    case pos =>
      rw [mapReadDone_live hmid hpass hstate] at hstep
      have hlive : ListSettled (makeLive (readMap c.data) { s with reads := xs ++ ys }) := listSettled_of_same hs rfl rfl
      refine ⟨_, .live, _, hstep.trans (congrArg Host.Outcome.next (endLoad_eq hlive _ _ _)), rfl, rfl, rfl, rfl, rfl, rfl, rfl, fun h => absurd rfl h, fun h => absurd h hnotFailed,
        fun _ _ => ⟨rfl, fun n h => hnotFirst h, fun _ => ⟨fun _ => ⟨rfl, rfl, rfl, rfl, ?lanes, ?other, ?same⟩,
          fun h => absurd hstate h, fun _ => rfl⟩⟩⟩
      case lanes => exact makeLive_lanes (readMap c.data) s
      case other => exact fun h => (makeLive_ringUnit (readMap c.data) s).trans (if_pos (ringChanges_other h))
      case same =>
        intro old hold hbase hB
        refine (makeLive_ringUnit (readMap c.data) s).trans (if_neg ?_)
        rw [hold, ringChanges_same hbase hB]
        exact Bool.false_ne_true
    case neg =>
    rcases hlive : s.maps.live with _ | m
    · rw [mapReadDone_noLive hmid hpass hstate hlive, endLoad_eq] at hstep
      · exact ⟨_, _, _, hstep, rfl, rfl, rfl, rfl, rfl, rfl, rfl, fun _ => ⟨rfl, rfl⟩, fun h => absurd h hnotFailed,
          fun _ _ => ⟨rfl, fun n h => hnotFirst h, fun _ => ⟨fun h => absurd h hstate, fun _ m hm => (by cases hm),
            fun _ => rfl⟩⟩⟩
      · exact listSettled_of_same hs rfl rfl
    · rcases never_or_first (FrozenDiffers m (readMap c.data)) with hagree | ⟨n, hn⟩
      · rw [mapReadDone_staged hmid hpass hstate hlive (firstFrozenDifference_never hagree)] at hstep
        refine ⟨_, .staged, _, hstep.trans (congrArg Host.Outcome.next (endLoad_eq ?settled _ _ _)), rfl, rfl, rfl, rfl, rfl,
          rfl, rfl, fun _ => ⟨rfl, rfl⟩, fun h => absurd h hnotFailed, fun _ _ => ⟨rfl, fun n h => hnotFirst h, fun _ =>
            ⟨fun h => absurd h hstate, fun _ m' hm' => ?agree, fun _ => rfl⟩⟩⟩
        case settled => exact listSettled_of_same hs rfl rfl
        case agree =>
          obtain rfl := Option.some.inj hm'
          refine ⟨fun n hn => absurd hn.1 (hagree n), fun _ => ⟨frozenAgree_of_never hagree, rfl, ?_⟩⟩
          exact congrArg (fun l => ({ live := l, staged := some (readMap c.data) } : MapStore)) hlive
      · rw [mapReadDone_refused hmid hpass hstate hlive (firstFrozenDifference_first hn)] at hstep
        refine ⟨_, .refusedFrozen, _, hstep.trans (congrArg Host.Outcome.next (endLoad_eq hsettled _ _ _)), rfl, rfl, rfl, rfl,
          rfl, rfl, rfl, fun _ => ⟨rfl, rfl⟩, fun h => absurd h hnotFailed, fun _ _ => ⟨rfl, fun n h => hnotFirst h, fun _ =>
            ⟨fun h => absurd h hstate, fun _ m' hm' => ?differ, fun h => ?_⟩⟩⟩
        case differ =>
          obtain rfl := Option.some.inj hm'
          exact ⟨fun k hk => ⟨rfl, by rw [isFirst_unique hk hn], rfl⟩, fun h => absurd hn.1 (h n)⟩
        · rcases h with h | h <;> cases h

end Sys2Proof.MapProofs
end

section
/-! SUPPORT. What the operations of the Line Ring count in the entries and offer as FILL jobs, said exactly and so that
it composes: the counts of an entry by lane, its overspeed rows, and the FILL jobs that join a list with room for
them (R59, R61, R90, R91, R104, R105). -/

namespace Sys2Proof.WorkProofs

open Sys2Proof Sys2Proof.Machine Sys2Proof.AcquisitionProofs Sys2Proof.RunProofs Sys2Proof.PathProofs

/-! ### Entries but for their counts -/

/-- An entry without what the operations of the Line Ring count in it. -/
def core (e : Entry) : Entry := { e with counts := Lanes.every noCounts, overspeed := 0, fillLost := false }

/-- The entries of the table without what is counted in them. -/
def cores (s : State) : List Entry := s.table.entries.map core

theorem findEntry_core (s : State) (k : Nat) :
    (findEntry s k).map core = (cores s).find? fun e => decide (e.key = k) := by
  rw [cores, List.find?_map]
  rfl

theorem lookupRow_core (s : State) (r : Nat) :
    (lookupRow s r).map core =
      (((cores s).find? fun e => decide (e.firstRow ≤ r) && e.endRow.any (fun x => decide (r < x))) <|>
        ((cores s).getLast?.filter fun e => decide (e.endRow = none ∧ e.firstRow ≤ r))) := by
  rw [cores, List.find?_map, List.getLast?_map, lookupRow, newestEntry]
  have hfun : (fun e : Entry => decide (e.firstRow ≤ r) && e.endRow.any (fun x => decide (r < x))) ∘ core =
      fun e => decide (e.firstRow ≤ r) && e.endRow.any (fun x => decide (r < x)) := rfl
  rw [hfun]
  cases s.table.entries.find? (fun e => decide (e.firstRow ≤ r) && e.endRow.any (fun x => decide (r < x))) with
  | some e => rfl
  | none =>
    cases hlast : s.table.entries.getLast? with
    | none => rfl
    | some e =>
      have hkeep : (core e).endRow = none ∧ (core e).firstRow ≤ r ↔ e.endRow = none ∧ e.firstRow ≤ r := Iff.rfl
      by_cases h : e.endRow = none ∧ e.firstRow ≤ r
      · simp only [Option.map_some, Option.filter_some, hkeep, h]
        rfl
      · simp only [Option.map_some, Option.filter_some, hkeep, h, decide_false]
        rfl

section
variable {s t : State} (h : cores t = cores s)
include h

theorem findEntry_cores (k : Nat) : (findEntry t k).map core = (findEntry s k).map core := by
  rw [findEntry_core, findEntry_core, h]

theorem lookupRow_cores (r : Nat) : (lookupRow t r).map core = (lookupRow s r).map core := by
  rw [lookupRow_core, lookupRow_core, h]

theorem recordEntry_cores (r : SlotRecord) : (recordEntry t r).map core = (recordEntry s r).map core := by
  unfold recordEntry
  split
  · exact findEntry_cores h _
  · rfl

theorem resolveFill_cores (f : FillJob) : resolveFill t.table.entries f = resolveFill s.table.entries f := by
  unfold resolveFill
  split
  next => rfl
  next k _ =>
    have hfind := findEntry_cores h k
    unfold findEntry at hfind
    cases ht : t.table.entries.find? (fun e => decide (e.key = k)) with
    | none =>
      rw [ht, Option.map_none, eq_comm, Option.map_eq_none_iff] at hfind
      rw [hfind]
    | some e' =>
      rw [ht, Option.map_some, eq_comm, Option.map_eq_some_iff] at hfind
      obtain ⟨e, hs, he⟩ := hfind
      have hstate : e.state = e'.state := (congrArg Entry.state he :)
      have hbuffer : e.buffer = e'.buffer := (congrArg Entry.buffer he :)
      rw [hs]
      dsimp only
      rw [hstate, hbuffer]

end

/-- What two entries with one core agree in. -/
theorem core_eq {e e' : Entry} (h : core e' = core e) :
    e'.key = e.key ∧ e'.state = e.state ∧ e'.firstRow = e.firstRow ∧ e'.endRow = e.endRow ∧ e'.placement = e.placement ∧
      e'.buffer = e.buffer :=
  ⟨(congrArg Entry.key h :), (congrArg Entry.state h :), (congrArg Entry.firstRow h :), (congrArg Entry.endRow h :),
    (congrArg Entry.placement h :), (congrArg Entry.buffer h :)⟩

/-! ### Counted entries -/

/-- A change of the counts of each lane of the entry with each key. -/
abbrev Counting := Nat → Lane → LaneCounts → LaneCounts

/-- No count. -/
def noCounting : Counting := fun _ _ c => c

/-- A change of one lane's counts of one entry. -/
def countingOf (k : Nat) (l : Lane) (f : LaneCounts → LaneCounts) : Counting :=
  fun k' l' c => if k' = k ∧ l' = l then f c else c

/-- One count after another. -/
def Counting.then (a b : Counting) : Counting := fun k l c => b k l (a k l c)

/-- An entry with its lanes counted, and overspeed rows added. -/
def counted (ch : Counting) (os : Nat → Nat) (e : Entry) : Entry :=
  { e with
    counts := Lanes.ofFn fun l => ch e.key l (e.counts.get l)
    overspeed := satInc^[os e.key] e.overspeed }

/-- An entry counted, and its lost-fill flag as it may be. -/
def Tallied (ch : Counting) (os : Nat → Nat) (e e' : Entry) : Prop := ∃ lost, e' = { counted ch os e with fillLost := lost }

theorem counted_none (e : Entry) : counted noCounting (fun _ => 0) e = e := by
  have h : (Lanes.ofFn fun l => e.counts.get l) = e.counts := Lanes.ext_get fun l => Lanes.get_ofFn _ l
  simp only [counted, noCounting, h, Function.iterate_zero, id_eq]

theorem counted_then (a b : Counting) (i j : Nat → Nat) (e : Entry) :
    counted b j (counted a i e) = counted (a.then b) (fun k => i k + j k) e := by
  simp only [counted, Counting.then, Lanes.get_ofFn]
  rw [Nat.add_comm (i e.key), Function.iterate_add_apply]

theorem counted_of (k : Nat) (l : Lane) (f : LaneCounts → LaneCounts) (e : Entry) :
    counted (countingOf k l f) (fun _ => 0) e = if e.key = k then updateCounts l f e else e := by
  have hcounts : (Lanes.ofFn fun l' => countingOf k l f e.key l' (e.counts.get l')) =
      if e.key = k then e.counts.set l (f (e.counts.get l)) else e.counts := by
    refine Lanes.ext_get fun l' => ?_
    rw [Lanes.get_ofFn, countingOf]
    by_cases hk : e.key = k
    · by_cases hl : l' = l
      · subst hl
        rw [if_pos ⟨hk, rfl⟩, if_pos hk, Lanes.get_set_same]
      · rw [if_neg fun h => hl h.2, if_pos hk, Lanes.get_set_other _ _ hl]
    · rw [if_neg fun h => hk h.1, if_neg hk]
  rw [counted, hcounts]
  split_ifs <;> rfl

theorem tallied_counted (ch : Counting) (os : Nat → Nat) (e : Entry) : Tallied ch os e (counted ch os e) := ⟨e.fillLost, rfl⟩

theorem Tallied.core {ch : Counting} {os : Nat → Nat} {e e' : Entry} (h : Tallied ch os e e') :
    WorkProofs.core e' = WorkProofs.core e := by
  obtain ⟨lost, rfl⟩ := h
  rfl

theorem Tallied.trans {a b : Counting} {i j : Nat → Nat} {e e' e'' : Entry} (h : Tallied a i e e') (h' : Tallied b j e' e'') :
    Tallied (a.then b) (fun k => i k + j k) e e'' := by
  obtain ⟨x, rfl⟩ := h
  obtain ⟨y, rfl⟩ := h'
  refine ⟨y, ?_⟩
  rw [← counted_then]
  rfl

theorem Tallied.counts {ch : Counting} {os : Nat → Nat} {e e' : Entry} (h : Tallied ch os e e') (l : Lane) :
    e'.counts.get l = ch e.key l (e.counts.get l) := by
  obtain ⟨lost, rfl⟩ := h
  exact Lanes.get_ofFn _ l

theorem Tallied.overspeed {ch : Counting} {os : Nat → Nat} {e e' : Entry} (h : Tallied ch os e e') :
    e'.overspeed = satInc^[os e.key] e.overspeed := by
  obtain ⟨lost, rfl⟩ := h
  rfl

/-! ### Work -/

/-- The list has room for these fills, or there are none. -/
def Spare (s : State) (fills : List Job) : Prop := fills = [] ∨ fillCount s + fills.length ≤ 240

/-- Between s and t the operations of the Line Ring have counted in the entries, and offered these fills: with room for
them none is lost, and where none is discarded either they join the list. -/
structure Work (ch : Counting) (os : Nat → Nat) (fills : List Job) (s t : State) : Prop where
  entries : List.Forall₂ (Tallied ch os) s.table.entries t.table.entries
  grows : fillCount t ≤ fillCount s + fills.length
  spares : Spare s fills →
    t.table.entries = s.table.entries.map (counted ch os) ∧ t.attention = s.attention ∧ t.counters = s.counters
  joins : RoomFor s fills → t.list = { s.list with jobs := s.list.jobs ++ fills }
  quiet : fills = [] → t.list = s.list
  frame : LineFrame s t

section
variable {ch a b : Counting} {os i j : Nat → Nat} {fills : List Job} {s t u : State}

theorem Work.cores (h : Work ch os fills s t) : cores t = cores s := by
  have hmap := List.forall₂_map_left_iff.2 (List.forall₂_map_right_iff.2 (h.entries.imp fun _ _ he => he.core.symm))
  exact (List.forall₂_eq_eq_eq ▸ hmap : List.map core s.table.entries = List.map core t.table.entries).symm

theorem find_forall₂ {α : Type} {R : α → α → Prop} {p : α → Bool} (hp : ∀ x y, R x y → p x = p y) {xs ys : List α}
    (h : List.Forall₂ R xs ys) : Option.Rel R (xs.find? p) (ys.find? p) := by
  induction h with
  | nil => exact .none
  | @cons x y xs ys hxy _ ih =>
    rw [List.find?_cons, List.find?_cons, ← hp x y hxy]
    cases p x with
    | true => exact .some hxy
    | false => exact ih

theorem Work.found (h : Work ch os fills s t) (k : Nat) : Option.Rel (Tallied ch os) (findEntry s k) (findEntry t k) :=
  find_forall₂ (fun _ _ he => by rw [(core_eq he.core).1]) h.entries

/-- The entry of a key after the work. -/
theorem Work.entry (h : Work ch os fills s t) {k : Nat} {e e' : Entry} (hs : findEntry s k = some e)
    (ht : findEntry t k = some e') : Tallied ch os e e' := by
  have hrel := h.found k
  rw [hs, ht] at hrel
  cases hrel with
  | some he => exact he

theorem Work.isSome (h : Work ch os fills s t) {k : Nat} {e : Entry} (hs : findEntry s k = some e) :
    ∃ e', findEntry t k = some e' ∧ Tallied ch os e e' := by
  have hrel := h.found k
  rw [hs] at hrel
  cases ht : findEntry t k with
  | none =>
    rw [ht] at hrel
    cases hrel
  | some e' => exact ⟨e', rfl, h.entry hs ht⟩

/-- The entry of a key after work that loses no fill. -/
theorem Work.exact (h : Work ch os fills s t) (hspare : Spare s fills) {k : Nat} {e : Entry} (hs : findEntry s k = some e) :
    findEntry t k = some (counted ch os e) := by
  obtain ⟨hmap, -, -⟩ := h.spares hspare
  have hkeys : (fun x : Entry => decide (x.key = k)) ∘ counted ch os = fun x => decide (x.key = k) := rfl
  rw [findEntry, hmap, List.find?_map, hkeys]
  exact congrArg (Option.map (counted ch os)) hs

theorem Work.length (h : Work ch os fills s t) : t.table.entries.length = s.table.entries.length :=
  h.entries.length_eq.symm

/-- What is counted in no entry, offers no fill and stays in its frame. -/
theorem work_of_same (htable : t.table.entries = s.table.entries) (hlist : t.list = s.list)
    (hattention : t.attention = s.attention) (hcounters : t.counters = s.counters) (hframe : LineFrame s t) :
    Work noCounting (fun _ => 0) [] s t := by
  have hmap : t.table.entries = s.table.entries.map (counted noCounting fun _ => 0) := by
    rw [htable, List.map_congr_left fun e _ => counted_none e, List.map_id']
  refine ⟨?_, ?_, fun _ => ⟨hmap, hattention, hcounters⟩, fun _ => ?_, fun _ => hlist, hframe⟩
  · rw [hmap]
    exact List.forall₂_map_right_iff.2 (List.forall₂_same.2 fun e _ => tallied_counted _ _ e)
  · rw [fillCount, hlist]
    exact Nat.le_refl _
  · rw [hlist, List.append_nil]

theorem work_refl (s : State) : Work noCounting (fun _ => 0) [] s s := work_of_same rfl rfl rfl rfl rfl

theorem work_setSlot (l : Lane) (i : Nat) (r : SlotRecord) (s : State) :
    Work noCounting (fun _ => 0) [] s (setSlot l i r s) := work_of_same rfl rfl rfl rfl rfl

/-- Entries of a key changed in their counts alone. -/
theorem work_updateEntry {f : Entry → Entry} {k : Nat}
    (hf : ∀ e, (if e.key = k then f e else e) = counted ch os e) (s : State) :
    Work ch os [] s (updateEntry k f s) := by
  have hmap : (updateEntry k f s).table.entries = s.table.entries.map (counted ch os) := by
    rw [updateEntry_entries]
    exact List.map_congr_left fun e _ => hf e
  refine ⟨?_, Nat.le_refl _, fun _ => ⟨hmap, rfl, rfl⟩, fun _ => ?_, fun _ => rfl, rfl⟩
  · rw [hmap]
    exact List.forall₂_map_right_iff.2 (List.forall₂_same.2 fun e _ => tallied_counted _ _ e)
  · rw [List.append_nil]
    rfl

theorem work_updateCounts (k : Nat) (l : Lane) (f : LaneCounts → LaneCounts) (s : State) :
    Work (countingOf k l f) (fun _ => 0) [] s (updateEntry k (updateCounts l f) s) :=
  work_updateEntry (fun e => (counted_of k l f e).symm) s

/-- Room for all fills is room for the first of them. -/
theorem roomFor_left {xs ys : List Job} (h : RoomFor s (xs ++ ys)) : RoomFor s xs := by
  obtain ⟨hs, hn, hh⟩ := h
  rw [List.length_append] at hn
  exact ⟨hs, by omega, hh.imp_right fun hall f hf => hall f (List.mem_append_left _ hf)⟩

/-- What the list has room for, it has room for after the first of them have joined. -/
theorem Work.room {xs ys : List Job} (h : Work a i xs s t) (hroom : RoomFor s (xs ++ ys)) : RoomFor t ys := by
  have hlist := h.joins (roomFor_left hroom)
  have hgrows := h.grows
  obtain ⟨hs, hn, hh⟩ := hroom
  rw [List.length_append] at hn
  refine ⟨?_, by omega, ?_⟩
  · intro hp f js hj
    rw [hlist] at hp hj
    rw [resolveFill_cores h.cores]
    cases hjobs : s.list.jobs with
    | nil =>
      refine hh.resolve_left (fun hne => hne hjobs) f (List.mem_append_left _ ?_)
      have hxs : xs = .fill f :: js := by rw [hjobs] at hj; exact hj
      rw [hxs]
      exact List.mem_cons_self ..
    | cons k ks =>
      rw [hjobs, List.cons_append] at hj
      obtain ⟨rfl, -⟩ := List.cons.inj hj
      exact hs hp f ks hjobs
  · rcases hh with hne | hall
    · refine .inl ?_
      rw [hlist]
      exact List.append_ne_nil_of_left_ne_nil hne _
    · refine .inr fun f hf => ?_
      rw [resolveFill_cores h.cores]
      exact hall f (List.mem_append_right _ hf)

theorem Work.trans {xs ys : List Job} (h : Work a i xs s t) (h' : Work b j ys t u) :
    Work (a.then b) (fun k => i k + j k) (xs ++ ys) s u := by
  refine ⟨?_, ?_, fun hspare => ?_, fun hroom => ?_, fun hnil => ?_, h.frame.trans h'.frame⟩
  · have hcomp := h.entries
    have hcomp' := h'.entries
    rw [List.forall₂_iff_get] at hcomp hcomp' ⊢
    obtain ⟨hlen, hget⟩ := hcomp
    obtain ⟨hlen', hget'⟩ := hcomp'
    exact ⟨hlen.trans hlen', fun n hn hn' => (hget n hn (hlen ▸ hn)).trans (hget' n (hlen ▸ hn) hn')⟩
  · have hs := h.grows
    have ht := h'.grows
    rw [List.length_append]
    omega
  · have hgrows := h.grows
    have hfirst : Spare s xs := by
      rcases hspare with hnil | hn
      · exact .inl (List.append_eq_nil_iff.1 hnil).1
      · rw [List.length_append] at hn
        exact .inr (by omega)
    have hsecond : Spare t ys := by
      rcases hspare with hnil | hn
      · exact .inl (List.append_eq_nil_iff.1 hnil).2
      · rw [List.length_append] at hn
        exact .inr (by omega)
    obtain ⟨he, hatt, hcount⟩ := h.spares hfirst
    obtain ⟨he', hatt', hcount'⟩ := h'.spares hsecond
    refine ⟨?_, hatt'.trans hatt, hcount'.trans hcount⟩
    rw [he', he, List.map_map]
    exact List.map_congr_left fun e _ => counted_then a b i j e
  · rw [h'.joins (h.room hroom), h.joins (roomFor_left hroom), List.append_assoc]
  · obtain ⟨hx, hy⟩ := List.append_eq_nil_iff.1 hnil
    exact (h'.quiet hy).trans (h.quiet hx)

/-- The same work said in other words, about the entries there are. -/
theorem Work.congr {ch' : Counting} {os' : Nat → Nat} {fills' : List Job} (h : Work ch os fills s t)
    (hch : ∀ e ∈ s.table.entries, ∀ l c, ch e.key l c = ch' e.key l c) (hos : ∀ e ∈ s.table.entries, os e.key = os' e.key)
    (hfills : fills = fills') : Work ch' os' fills' s t := by
  subst hfills
  have hcounted (e : Entry) (he : e ∈ s.table.entries) : counted ch os e = counted ch' os' e := by
    simp only [counted, hch e he, hos e he]
  have hmap : s.table.entries.map (counted ch os) = s.table.entries.map (counted ch' os') := List.map_congr_left hcounted
  refine ⟨?_, h.grows, fun hs => hmap ▸ h.spares hs, h.joins, h.quiet, h.frame⟩
  have hentries := h.entries
  rw [List.forall₂_iff_get] at hentries ⊢
  refine ⟨hentries.1, fun n hn hn' => ?_⟩
  obtain ⟨lost, hlost⟩ := hentries.2 n hn hn'
  exact ⟨lost, by rw [hlost, hcounted _ (List.get_mem _ _)]⟩

/-- Work before which nothing is counted or offered. -/
theorem Work.after_quiet {ys : List Job} (h : Work noCounting (fun _ => 0) [] s t) (h' : Work b j ys t u) : Work b j ys s u :=
  (h.trans h').congr (fun _ _ _ _ => rfl) (fun _ _ => Nat.zero_add _) rfl

/-- Work after which only counts are made. -/
theorem Work.then_counts {xs : List Job} (h : Work a i xs s t) (h' : Work b (fun _ => 0) [] t u) : Work (a.then b) i xs s u :=
  (h.trans h').congr (fun _ _ _ _ => rfl) (fun _ _ => Nat.add_zero _) (List.append_nil _)

/-- Work after which nothing is counted or offered. -/
theorem Work.then_quiet {xs : List Job} (h : Work a i xs s t) (h' : Work noCounting (fun _ => 0) [] t u) : Work a i xs s u :=
  h.then_counts h'

end

/-! ### A fill offered -/

/-- The FILL job that is offered for these bytes of a row (R59). -/
def fillJob (e : Entry) (row c len : Nat) (v : List Byte) : FillJob :=
  { target := .entry e.key, row := row - e.firstRow, column := c, len := len, value := v }

theorem settleJobs_countP_le (p : Job → Bool) (es : List Entry) (js : List Job) :
    (settleJobs es js).countP p ≤ js.countP p := (settleJobs_suffix es js).sublist.countP_le

theorem fillCount_enqueue_le (j : Job) (s : State) : fillCount (enqueue j s) ≤ fillCount s + 1 := by
  have hsettle (t : State) : fillCount (settleList t) ≤ fillCount t := by
    unfold settleList
    split
    · exact settleJobs_countP_le _ _ _
    · exact Nat.le_refl _
  refine (hsettle _).trans ?_
  rw [fillCount, List.countP_append]
  have hone : List.countP isFill [j] ≤ 1 := List.countP_le_length
  exact Nat.add_le_add_left hone _

theorem work_offerFill (e : Entry) (row c len : Nat) (v : List Byte) (s : State) :
    Work noCounting (fun _ => 0) [.fill (fillJob e row c len v)] s (offerFill e row c len v s) := by
  have hstay : s.table.entries = s.table.entries.map (counted noCounting fun _ => 0) := by
    rw [List.map_congr_left fun e _ => counted_none e, List.map_id']
  have hjoins : RoomFor s [.fill (fillJob e row c len v)] →
      (offerFill e row c len v s).list = { s.list with jobs := s.list.jobs ++ [.fill (fillJob e row c len v)] } := by
    rintro ⟨hs, hn, hh⟩
    rw [offerFill_joins rfl hs (by simpa using hn) (hh.imp_right fun hall => hall _ (List.mem_singleton.2 rfl))]
    rfl
  rcases offerFill_cases e row c len v s with ⟨hn, h⟩ | ⟨hn, h⟩
  · refine ⟨?_, ?_, fun _ => ?_, hjoins, fun hnil => absurd hnil (List.cons_ne_nil _ _), ?_⟩ <;> rw [h]
    · rw [enqueue_table]
      exact List.forall₂_same.2 fun e _ => ⟨e.fillLost, by rw [counted_none]⟩
    · exact fillCount_enqueue_le _ s
    · rw [enqueue_table, enqueue_attention, enqueue_counters]
      exact ⟨hstay, rfl, rfl⟩
    · rw [LineFrame, enqueue_eq]
  · refine ⟨?_, ?_, fun hspare => ?_, hjoins, fun hnil => absurd hnil (List.cons_ne_nil _ _), ?_⟩
    · rw [h]
      refine List.forall₂_map_right_iff.2 (List.forall₂_same.2 fun x _ => ?_)
      by_cases hk : x.key = e.key
      · exact ⟨true, by rw [if_pos hk, counted_none]⟩
      · exact ⟨x.fillLost, by rw [if_neg hk, counted_none]⟩
    · rw [h]
      exact Nat.le_add_right _ 1
    · rcases hspare with hnil | hroom
      · cases hnil
      · exact absurd hroom (by rw [List.length_singleton]; omega)
    · rw [h]
      rfl

end Sys2Proof.WorkProofs
end

section
/-! SUPPORT. The work of each operation of the Line Ring: the fill of a line, its retirement, a line given up, a lane's
slot bound, a row skipped (R55, R56, R59, R61, R62, R65, R91). -/

namespace Sys2Proof.WorkProofs

open Sys2Proof Sys2Proof.Machine Sys2Proof.AcquisitionProofs Sys2Proof.RunProofs Sys2Proof.PathProofs

/-! ### The fill of a line and its retirement -/

/-- One retirement in a lane's counts, as a filled row when `filled` says so (R61, R90). -/
def retiredCounts (filled : Bool) (c : LaneCounts) : LaneCounts :=
  { c with retired := c.retired + 1, filled := if filled then c.filled + 1 else c.filled }

/-- A change of a lane's counts in the entry that a line refers to, if it refers to one. -/
def lineCounting (l : Lane) (ref : Option RowRef) (f : LaneCounts → LaneCounts) : Counting :=
  fun k l' c => if ref = some (.entry k) ∧ l' = l then f c else c

theorem lineCounting_entry (k : Nat) (l : Lane) (f : LaneCounts → LaneCounts) :
    lineCounting l (some (.entry k)) f = countingOf k l f := by
  funext k' l' c
  simp only [lineCounting, countingOf, Option.some.injEq, RowRef.entry.injEq, eq_comm (a := k)]

theorem lineCounting_none {l : Lane} {ref : Option RowRef} (h : ∀ k, ref ≠ some (.entry k)) (f : LaneCounts → LaneCounts) :
    lineCounting l ref f = noCounting := by
  funext k l' c
  exact if_neg fun hk => h k hk.1

theorem offersFill_iff (e : Entry) (y1 y2 : Nat) : offersFill e y1 y2 ↔ y1 < y2 ∧ e.state ≠ .dropped := by
  rw [offersFill, entryLive, decide_eq_true_eq]

/-- The fill of the line offsets [y1, y2) is offered when there is one. -/
theorem work_fillLine (m : SteeringMap) (l : Lane) (i : Nat) (e : Entry) (y1 y2 : Nat) (s : State) :
    Work noCounting (fun _ => 0) (lineFill m (placedBy e l) e ((slotRecord s l i).row.getD 0) y1 y2) s
      (fillLine m l i e y1 y2 s) := by
  unfold lineFill
  by_cases h : offersFill e y1 y2
  · rw [fillLine_some h, if_pos ((offersFill_iff e y1 y2).1 h)]
    exact (work_setSlot l i _ s).trans (work_offerFill e _ _ _ _ _)
  · rw [fillLine_none h, if_neg (mt (offersFill_iff e y1 y2).2 h)]
    exact work_refl s

theorem lineFill_ne_nil {m : SteeringMap} {p : LanePlacement} {e : Entry} {row y1 y2 : Nat} :
    lineFill m p e row y1 y2 ≠ [] ↔ y1 < y2 ∧ e.state ≠ .dropped := by
  unfold lineFill
  split_ifs with h <;> simp [h]

/-- A fill of a line sets its fill-made flag alone. -/
theorem slotRecord_lineFilled (m : SteeringMap) (l : Lane) (i : Nat) (e : Entry) (y1 y2 : Nat) (s : State) :
    slotRecord (fillLine m l i e y1 y2 s) l i =
      { slotRecord s l i with
        fillMade :=
          (slotRecord s l i).fillMade ||
            decide (lineFill m (placedBy e l) e ((slotRecord s l i).row.getD 0) y1 y2 ≠ []) } := by
  rw [slotRecord_fillLine, decide_eq_decide.2 ((offersFill_iff e y1 y2).trans lineFill_ne_nil.symm)]

theorem work_retireLine (l : Lane) (i : Nat) (s : State) :
    Work (lineCounting l (slotRecord s l i).ref (retiredCounts (slotRecord s l i).fillMade)) (fun _ => 0) [] s
      (retireLine l i s) := by
  have hslot := work_setSlot l i (retiredRecord (slotRecord s l i)) s
  unfold retireLine
  dsimp only
  split
  next k hk =>
    rw [hk, lineCounting_entry]
    rw [retiredRecord, hk] at hslot
    exact hslot.after_quiet (work_updateCounts k l (retiredCounts (slotRecord s l i).fillMade) _)
  next hnone =>
    rw [lineCounting_none hnone]
    exact hslot

/-! ### A line given up (R62, R65) -/

/-- The counts of a line given up: one retired row, filled if it has had a fill or has one now, and a short line when
its slot is bound again. -/
def givenUpCounts (short filled : Bool) (c : LaneCounts) : LaneCounts :=
  { retiredCounts filled c with shortLines := if short then satInc c.shortLines else c.shortLines }

/-- What giving a line up counts. -/
def givesUp (m : SteeringMap) (s : State) (short : Bool) (l : Lane) (r : SlotRecord) : Counting :=
  lineCounting l r.ref (givenUpCounts short (r.fillMade || decide (leftFill m s l r ≠ [])))

theorem recordEntry_some {s : State} {r : SlotRecord} {e : Entry} (h : recordEntry s r = some e) :
    r.ref = some (.entry e.key) ∧ findEntry s e.key = some e := by
  unfold recordEntry at h
  split at h
  next k hk =>
    obtain rfl := findEntry_key h
    exact ⟨hk, h⟩
  next => cases h

/-- A line that refers to no entry of the table counts in none. -/
theorem lineCounting_absent {s : State} {r : SlotRecord} (h : recordEntry s r = none) (l : Lane)
    (f : LaneCounts → LaneCounts) {e : Entry} (he : e ∈ s.table.entries) (l' : Lane) (c : LaneCounts) :
    lineCounting l r.ref f e.key l' c = c := by
  refine if_neg fun ⟨hr, _⟩ => ?_
  rw [recordEntry, hr] at h
  have hfind : findEntry s e.key = none := h
  rw [findEntry, List.find?_eq_none] at hfind
  exact hfind e he (decide_eq_true rfl)

/-- A short line counted in an entry, when its slot is bound again (R62). -/
def shortCounted (short : Bool) (l : Lane) (k : Nat) (s : State) : State :=
  if short then updateEntry k (countShort l) s else s

theorem forceRetire_none {m : SteeringMap} {short : Bool} {l : Lane} {i : Nat} {s : State}
    (h : recordEntry s (slotRecord s l i) = none) : forceRetire m short l i s = retireLine l i s := by
  simp only [forceRetire, h]

theorem forceRetire_some {m : SteeringMap} {short : Bool} {l : Lane} {i : Nat} {s : State} {e : Entry}
    (h : recordEntry s (slotRecord s l i) = some e) :
    forceRetire m short l i s =
      retireLine l i
        (shortCounted short l e.key
          (fillLine m l i e (max (slotRecord s l i).fillMark (keptStart m (placedBy e l))) (keptEnd m (placedBy e l)) s)) := by
  simp only [forceRetire, h]
  rfl

theorem shortCounted_ring (short : Bool) (l : Lane) (k : Nat) (s : State) : (shortCounted short l k s).ring = s.ring := by
  unfold shortCounted
  split_ifs <;> rfl

theorem oneSlot_forceRetire (m : SteeringMap) (short : Bool) (l : Lane) (i : Nat) (s : State) :
    OneSlot l i s (forceRetire m short l i s) := by
  cases h : recordEntry s (slotRecord s l i) with
  | none =>
    rw [forceRetire_none h]
    exact oneSlot_retireLine l i s
  | some e =>
    rw [forceRetire_some h]
    exact ((oneSlot_fillLine m l i e _ _ s).trans (.of_ring (shortCounted_ring short l e.key _))).trans
      (oneSlot_retireLine l i _)

/-- A line given up is RETIRED, and its stamp is decided. -/
theorem slotRecord_forceRetire (m : SteeringMap) (short : Bool) (l : Lane) (i : Nat) (s : State) :
    ∃ made, slotRecord (forceRetire m short l i s) l i = { retiredRecord (slotRecord s l i) with fillMade := made } := by
  cases h : recordEntry s (slotRecord s l i) with
  | none =>
    rw [forceRetire_none h]
    exact ⟨_, slotRecord_retireLine l i s⟩
  | some e =>
    rw [forceRetire_some h, slotRecord_retireLine, slotRecord_of_ring (shortCounted_ring ..), slotRecord_lineFilled]
    exact ⟨_, rfl⟩

theorem leftFill_none {m : SteeringMap} {s : State} {l : Lane} {r : SlotRecord} (h : recordEntry s r = none) :
    leftFill m s l r = [] := by
  simp only [leftFill, h]

theorem leftFill_some {m : SteeringMap} {s : State} {l : Lane} {r : SlotRecord} {e : Entry} (h : recordEntry s r = some e) :
    leftFill m s l r =
      lineFill m (placedBy e l) e (r.row.getD 0) (max r.fillMark (keptStart m (placedBy e l))) (keptEnd m (placedBy e l)) := by
  simp only [leftFill, h]
  rfl

theorem work_forceRetire (m : SteeringMap) (short : Bool) (l : Lane) (i : Nat) (s : State) :
    Work (givesUp m s short l (slotRecord s l i)) (fun _ => 0) (leftFill m s l (slotRecord s l i)) s
      (forceRetire m short l i s) := by
  unfold givesUp
  cases hentry : recordEntry s (slotRecord s l i) with
  | none =>
    rw [forceRetire_none hentry]
    refine (work_retireLine l i s).congr (fun e he l' c => ?_) (fun _ _ => rfl) (leftFill_none hentry).symm
    rw [lineCounting_absent hentry _ _ he, lineCounting_absent hentry _ _ he]
  | some e =>
    obtain ⟨href, -⟩ := recordEntry_some hentry
    have hfill := work_fillLine m l i e (max (slotRecord s l i).fillMark (keptStart m (placedBy e l)))
      (keptEnd m (placedBy e l)) s
    have hrecord := slotRecord_lineFilled m l i e (max (slotRecord s l i).fillMark (keptStart m (placedBy e l)))
      (keptEnd m (placedBy e l)) s
    rw [← leftFill_some hentry] at hfill hrecord
    rw [forceRetire_some hentry]
    generalize fillLine m l i e (max (slotRecord s l i).fillMark (keptStart m (placedBy e l))) (keptEnd m (placedBy e l)) s = u
      at hfill hrecord ⊢
    have hretire := work_retireLine l i (shortCounted short l e.key u)
    rw [slotRecord_of_ring (shortCounted_ring ..), hrecord] at hretire
    cases short with
    | false => exact hfill.then_counts hretire
    | true =>
      have hshort := work_updateCounts e.key l (fun c => { c with shortLines := satInc c.shortLines }) u
      refine ((hfill.then_counts hshort).then_counts hretire).congr (fun x _ l' c => ?_) (fun _ _ => rfl) rfl
      rw [href, lineCounting_entry, lineCounting_entry]
      simp only [Counting.then, noCounting, countingOf]
      split_ifs <;> rfl

/-! ### One thing after another -/

/-- The counts of several things made one after another. -/
def Counting.each {α : Type} (ch : α → Counting) (order : List α) : Counting :=
  fun k l c => order.foldl (fun c x => ch x k l c) c

section
variable {α : Type} {f : α → State → State} {ch : α → Counting} {os : α → Nat → Nat} {fills : α → List Job}
  {P : α → State → Prop}

/-- Work done for each of several things, each of which leaves alone what the work for the others goes by. -/
theorem work_foldl {order : List α} (hnodup : order.Nodup)
    (hwork : ∀ x ∈ order, ∀ t, P x t → Work (ch x) (os x) (fills x) t (f x t))
    (hkeep : ∀ x ∈ order, ∀ y ∈ order, x ≠ y → ∀ t, P x t → P y t → P y (f x t)) {s : State} (hs : ∀ x ∈ order, P x s) :
    Work (.each ch order) (fun k => (order.map (os · k)).sum) (order.flatMap fills) s (order.foldl (fun t x => f x t) s) := by
  induction order generalizing s with
  | nil => exact work_refl s
  | cons x xs ih =>
    obtain ⟨hx, hxs⟩ := List.nodup_cons.1 hnodup
    have hfirst := hwork x (List.mem_cons_self ..) s (hs x (List.mem_cons_self ..))
    have hrest := ih hxs (fun y hy => hwork y (List.mem_cons_of_mem _ hy))
      (fun y hy z hz => hkeep y (List.mem_cons_of_mem _ hy) z (List.mem_cons_of_mem _ hz)) (s := f x s)
      (fun y hy => hkeep x (List.mem_cons_self ..) y (List.mem_cons_of_mem _ hy) (fun h => hx (h ▸ hy)) s
        (hs x (List.mem_cons_self ..)) (hs y (List.mem_cons_of_mem _ hy)))
    exact (hfirst.trans hrest).congr (fun _ _ _ _ => rfl) (fun _ _ => by rw [List.map_cons, List.sum_cons]) rfl

end

/-- Work done in an open order is work in some order. -/
theorem work_forEachOpenly {α : Type} {f : α → State → State} {ch : α → Counting} {os : α → Nat → Nat}
    {fills : α → List Job} {P : α → State → Prop} {offers : α → Bool} {xs : List α} (hnodup : xs.Nodup)
    (hwork : ∀ x ∈ xs, ∀ t, P x t → Work (ch x) (os x) (fills x) t (f x t))
    (hkeep : ∀ x ∈ xs, ∀ y ∈ xs, x ≠ y → ∀ t, P x t → P y t → P y (f x t)) {s : State}
    (hs : ∀ x ∈ xs, ∀ cs n, P x { s with choices := cs, choiceCount := n }) :
    ∃ order : List α, order.Perm xs ∧
      Work (.each ch order) (fun k => (order.map (os · k)).sum) (order.flatMap fills) s (forEachOpenly offers xs f s) := by
  obtain ⟨order, cs, n, hperm, heq⟩ := forEachOpenly_eq offers xs f s
  refine ⟨order, hperm, ?_⟩
  rw [heq]
  have hchoose : Work noCounting (fun _ => 0) [] s { s with choices := cs, choiceCount := n } :=
    work_of_same rfl rfl rfl rfl rfl
  exact hchoose.after_quiet (work_foldl (hperm.nodup_iff.2 hnodup) (fun x hx => hwork x (hperm.mem_iff.1 hx))
    (fun x hx y hy => hkeep x (hperm.mem_iff.1 hx) y (hperm.mem_iff.1 hy)) fun x hx => hs x (hperm.mem_iff.1 hx) cs n)

/-- Of things that each change the counts of their own lane alone, a lane's counts show its own. -/
theorem each_own {ch : Lane → Counting} (hown : ∀ x k l c, l ≠ x → ch x k l c = c) {order : List Lane}
    (hnodup : order.Nodup) (k : Nat) (l : Lane) (c : LaneCounts) :
    Counting.each ch order k l c = if l ∈ order then ch l k l c else c := by
  unfold Counting.each
  induction order generalizing c with
  | nil => rfl
  | cons x xs ih =>
    obtain ⟨hx, hxs⟩ := List.nodup_cons.1 hnodup
    rw [List.foldl_cons, ih hxs]
    by_cases hl : l = x
    · subst hl
      rw [if_neg hx, if_pos (List.mem_cons_self ..)]
    · rw [hown x k l c hl]
      simp only [List.mem_cons, hl, false_or]

theorem lineCounting_own (x : Lane) (ref : Option RowRef) (f : LaneCounts → LaneCounts) (k : Nat) (l : Lane) (c : LaneCounts)
    (h : l ≠ x) : lineCounting x ref f k l c = c := if_neg fun hk => h hk.2

/-! ### A lane's slot bound (R55, R56) -/

/-- The record of a slot bound at strobe k (R54, R55). -/
def boundRecord (s : State) (k lag : Nat) : SlotRecord :=
  { state := .opened, fillMark := 0, row := (bindingRow s k lag).1, ref := some (bindingRow s k lag).2,
    stamp := .unchecked, fillMade := false }

/-- An OPEN line of a slot given up. -/
def givenUp (m : SteeringMap) (slot : Nat) (l : Lane) (s : State) : State :=
  if (slotRecord s l slot).state = .opened then forceRetire m true l slot s else s

/-- In a lane out of step the new line is given up at once. -/
theorem bindLane_eq {m : SteeringMap} {l : Lane} {lm : LaneMap} (hlane : m.lanes.get l = some lm) (k slot : Nat) (s : State) :
    bindLane m k slot l s =
      if s.ring.step.get l = .outOfStep then
        forceRetire m false l slot (setSlot l slot (boundRecord (givenUp m slot l s) k lm.lag) (givenUp m slot l s))
      else setSlot l slot (boundRecord (givenUp m slot l s) k lm.lag) (givenUp m slot l s) := by
  have hstep : (givenUp m slot l s).ring.step = s.ring.step := by
    unfold givenUp
    split_ifs
    · exact (oneSlot_forceRetire m true l slot s).step
    · rfl
  have hdef : bindLane m k slot l s =
      let u := setSlot l slot (boundRecord (givenUp m slot l s) k lm.lag) (givenUp m slot l s)
      if u.ring.step.get l = .outOfStep then
        match recordEntry u (boundRecord (givenUp m slot l s) k lm.lag) with
        | none => retireLine l slot u
        | some e =>
          retireLine l slot
            (fillLine m l slot e (keptStart m (linePlacement m l (some e))) (keptEnd m (linePlacement m l (some e))) u)
      else u := by
    unfold bindLane
    rw [hlane]
    rfl
  rw [hdef]
  dsimp only
  rw [setSlot_step, hstep]
  generalize givenUp m slot l s = u
  split_ifs
  · have hrecord := slotRecord_setSlot_same u l slot (boundRecord u k lm.lag)
    cases hentry : recordEntry (setSlot l slot (boundRecord u k lm.lag) u) (boundRecord u k lm.lag) with
    | none => rw [forceRetire_none (by rw [hrecord, hentry])]
    | some e =>
      rw [forceRetire_some (by rw [hrecord, hentry]), hrecord, show (boundRecord u k lm.lag).fillMark = 0 from rfl,
        Nat.zero_max]
      rfl
  · rfl

/-! ### The same work from the same entries -/

section
variable {s t : State} (h : cores t = cores s)
include h

theorem recordEntry_none_cores {r : SlotRecord} (hs : recordEntry s r = none) : recordEntry t r = none := by
  have hcore := recordEntry_cores h r
  rw [hs, Option.map_none, Option.map_eq_none_iff] at hcore
  exact hcore

theorem recordEntry_some_cores {r : SlotRecord} {e : Entry} (hs : recordEntry s r = some e) :
    ∃ e', recordEntry t r = some e' ∧ core e' = core e := by
  have hcore := recordEntry_cores h r
  rw [hs, Option.map_some, Option.map_eq_some_iff] at hcore
  exact hcore

theorem lookupRow_none_cores {r : Nat} (hs : lookupRow s r = none) : lookupRow t r = none := by
  have hcore := lookupRow_cores h r
  rw [hs, Option.map_none, Option.map_eq_none_iff] at hcore
  exact hcore

theorem lookupRow_some_cores {r : Nat} {e : Entry} (hs : lookupRow s r = some e) :
    ∃ e', lookupRow t r = some e' ∧ core e' = core e := by
  have hcore := lookupRow_cores h r
  rw [hs, Option.map_some, Option.map_eq_some_iff] at hcore
  exact hcore

theorem leftFill_cores (m : SteeringMap) (l : Lane) (r : SlotRecord) : leftFill m t l r = leftFill m s l r := by
  cases hs : recordEntry s r with
  | none => rw [leftFill_none hs, leftFill_none (recordEntry_none_cores h hs)]
  | some e =>
    obtain ⟨e', ht, he⟩ := recordEntry_some_cores h hs
    rw [leftFill_some hs, leftFill_some ht]
    exact (congrArg (fun x => lineFill m (placedBy x l) x (r.row.getD 0) (max r.fillMark (keptStart m (placedBy x l)))
      (keptEnd m (placedBy x l))) he :)

theorem givesUp_cores (m : SteeringMap) (short : Bool) (l : Lane) (r : SlotRecord) :
    givesUp m t short l r = givesUp m s short l r := by
  rw [givesUp, givesUp, leftFill_cores h]

theorem bindingRow_cores (k lag : Nat) : bindingRow t k lag = bindingRow s k lag := by
  unfold bindingRow
  split_ifs
  · rfl
  · cases hs : lookupRow s (k - lag) with
    | none => rw [lookupRow_none_cores h hs]
    | some e =>
      obtain ⟨e', ht, he⟩ := lookupRow_some_cores h hs
      rw [ht]
      dsimp only
      rw [(core_eq he).1]

theorem boundRecord_cores (k lag : Nat) : boundRecord t k lag = boundRecord s k lag := by
  rw [boundRecord, boundRecord, bindingRow_cores h]

end

/-- What the binding of a slot counts in a lane. -/
def bindsCounting (m : SteeringMap) (s : State) (slot k lag : Nat) (l : Lane) : Counting :=
  Counting.then
    (if (slotRecord s l slot).state = .opened then givesUp m s true l (slotRecord s l slot) else noCounting)
    (if s.ring.step.get l = .outOfStep then givesUp m s false l (boundRecord s k lag) else noCounting)

/-- The fills that the binding of a slot offers in a lane, by the records it gives up. -/
def bindsFills (m : SteeringMap) (s : State) (slot k lag : Nat) (l : Lane) : List Job :=
  givenUpFill m s slot l ++ if s.ring.step.get l = .outOfStep then leftFill m s l (boundRecord s k lag) else []

theorem work_givenUp (m : SteeringMap) (slot : Nat) (l : Lane) (s : State) :
    Work (if (slotRecord s l slot).state = .opened then givesUp m s true l (slotRecord s l slot) else noCounting)
      (fun _ => 0) (givenUpFill m s slot l) s (givenUp m slot l s) := by
  unfold givenUpFill givenUp
  split_ifs
  · exact work_forceRetire m true l slot s
  · exact work_refl s

theorem work_bindLane {m : SteeringMap} {l : Lane} {lm : LaneMap} (hlane : m.lanes.get l = some lm) (k slot : Nat) (s : State) :
    Work (bindsCounting m s slot k lm.lag l) (fun _ => 0) (bindsFills m s slot k lm.lag l) s (bindLane m k slot l s) := by
  have hgive := work_givenUp m slot l s
  have hcores := hgive.cores
  rw [bindLane_eq hlane, boundRecord_cores hcores]
  have hset := work_setSlot l slot (boundRecord s k lm.lag) (givenUp m slot l s)
  have hforce := work_forceRetire m false l slot (setSlot l slot (boundRecord s k lm.lag) (givenUp m slot l s))
  rw [slotRecord_setSlot_same, givesUp_cores (hset.cores.trans hcores), leftFill_cores (hset.cores.trans hcores)] at hforce
  unfold bindsCounting bindsFills
  by_cases hout : s.ring.step.get l = .outOfStep
  · rw [if_pos hout, if_pos hout, if_pos hout]
    exact ((hgive.then_quiet hset).trans hforce).congr (fun _ _ _ _ => rfl) (fun _ _ => rfl) rfl
  · rw [if_neg hout, if_neg hout, if_neg hout, List.append_nil]
    exact hgive.then_quiet hset

/-! ### A row skipped (R91) -/

/-- What a skipped strobe counts in a lane. -/
def skipsCounting (m : SteeringMap) (s : State) (k : Nat) (l : Lane) : Counting :=
  (skippedEntry m k s l).elim noCounting fun e => countingOf e.key l (retiredCounts (entryLive e))

/-- The overspeed rows a skipped strobe counts in a lane. -/
def skipsOverspeed (m : SteeringMap) (s : State) (k : Nat) (l : Lane) (key : Nat) : Nat :=
  (skippedEntry m k s l).elim 0 fun e => if key = e.key then 1 else 0

/-- The lag of a lane. -/
def lagOf (m : SteeringMap) (l : Lane) : Nat := ((m.lanes.get l).map LaneMap.lag).getD 0

/-- The fill of the row of an entry that a lane passes over. -/
def passedFill (m : SteeringMap) (k : Nat) (l : Lane) (e : Entry) : List Job :=
  if e.state ≠ .dropped then
    [.fill
      (fillJob e (k - lagOf m l) ((placedBy e l).colStart * m.P) (keptWidth m.Lp (placedBy e l) * m.P) (placedBy e l).fill)]
  else []

theorem skippedFills_eq (m : SteeringMap) (s : State) (k : Nat) (l : Lane) :
    skippedFills m s k l = (skippedEntry m k s l).elim [] (passedFill m k l) := by
  unfold skippedFills skippedEntry passedFill lagOf
  cases hlane : m.lanes.get l with
  | none => rfl
  | some lm =>
    dsimp only [Option.map_some, Option.getD_some]
    by_cases hlag : k < lm.lag
    · rw [if_pos hlag]
      cases lookupRow s (k - lm.lag) with
      | none => rfl
      | some e => exact if_neg fun h => absurd h.1 (by omega)
    · rw [if_neg hlag]
      cases lookupRow s (k - lm.lag) with
      | none => rfl
      | some e =>
        dsimp only [Option.elim]
        by_cases hstate : e.state ≠ .dropped
        · rw [if_pos ⟨by omega, hstate⟩, if_pos hstate]
          rfl
        · rw [if_neg fun h => hstate h.2, if_neg hstate]

theorem skippedEntry_cores {s t : State} (h : cores t = cores s) (m : SteeringMap) (k : Nat) (l : Lane) :
    (skippedEntry m k t l).map core = (skippedEntry m k s l).map core := by
  unfold skippedEntry
  split
  · rfl
  · split_ifs
    · rfl
    · exact lookupRow_cores h _

/-- What a skipped strobe counts and offers in a lane is read off the cores of the entries. -/
theorem skips_cores {s t : State} (h : cores t = cores s) (m : SteeringMap) (k : Nat) (l : Lane) :
    skipsCounting m t k l = skipsCounting m s k l ∧ skipsOverspeed m t k l = skipsOverspeed m s k l ∧
      skippedFills m t k l = skippedFills m s k l := by
  have hcore := skippedEntry_cores h m k l
  rw [skipsCounting, skipsCounting, skippedFills_eq, skippedFills_eq]
  unfold skipsOverspeed
  cases hs : skippedEntry m k s l with
  | none =>
    rw [hs, Option.map_none, Option.map_eq_none_iff] at hcore
    rw [hcore]
    exact ⟨rfl, rfl, rfl⟩
  | some e =>
    rw [hs, Option.map_some, Option.map_eq_some_iff] at hcore
    obtain ⟨e', ht, he⟩ := hcore
    rw [ht]
    exact ⟨(congrArg (fun x => countingOf x.key l (retiredCounts (entryLive x))) he :),
      (congrArg (fun x key => if key = x.key then 1 else 0) he :), (congrArg (passedFill m k l) he :)⟩

theorem work_countSkipped (l : Lane) (filled : Bool) (e : Entry) (s : State) :
    Work (countingOf e.key l (retiredCounts filled)) (fun key => if key = e.key then 1 else 0) [] s
      (updateEntry e.key (countSkipped l filled) s) := by
  refine work_updateEntry (fun x => ?_) s
  have hcounted : counted (countingOf e.key l (retiredCounts filled)) (fun key => if key = e.key then 1 else 0) x =
      { counted (countingOf e.key l (retiredCounts filled)) (fun _ => 0) x with
        overspeed := satInc^[if x.key = e.key then 1 else 0] x.overspeed } := rfl
  rw [hcounted, counted_of]
  split_ifs <;> rfl

theorem work_skipLane (m : SteeringMap) (k : Nat) (l : Lane) (s : State) :
    Work (skipsCounting m s k l) (skipsOverspeed m s k l) (skippedFills m s k l) s (skipLane m k l s) := by
  rw [skippedFills_eq]
  unfold skipsCounting skipsOverspeed skipLane passedFill
  cases skippedEntry m k s l with
  | none => exact work_refl s
  | some e =>
    have hcount := work_countSkipped l (entryLive e) e s
    dsimp only [Option.elim]
    by_cases hlive : entryLive e = true
    · rw [if_pos hlive, if_pos (of_decide_eq_true hlive)]
      exact (hcount.trans (work_offerFill e _ _ _ _ _)).congr (fun _ _ _ _ => rfl) (fun _ _ => Nat.add_zero _) rfl
    · rw [if_neg hlive, if_neg (fun h => hlive (decide_eq_true h))]
      exact hcount

end Sys2Proof.WorkProofs
end

section
/-! SUPPORT and PROOFS. What the tests of the entries leave alone (R93, R96), the strobe of an advance at which nothing
else comes about, and the rows a skipped strobe retires: O23. -/

namespace Sys2Proof.WorkProofs

open Sys2Proof Sys2Proof.Machine Sys2Proof.AcquisitionProofs Sys2Proof.RunProofs Sys2Proof.PathProofs Sys2Proof.WebProofs

/-! ### The ends of entries -/

theorem reportEmpty_armed {s : State} (h : s.acq.state ≠ .draining) : reportEmpty s = s := if_neg fun hs => h hs.1

theorem reportEmpty_of_entries {s : State} (h : s.table.entries ≠ []) : reportEmpty s = s := if_neg fun hs => h hs.2

theorem reportEmpty_table (s : State) : (reportEmpty s).table = s.table := by
  unfold reportEmpty
  split_ifs
  · rw [enterDisarmed_eq]
  · rfl

/-- An entry that ends has an end row, and every entry with its key leaves the table. -/
theorem endMove_entries {s t : State} (h : EndMove s t) :
    ∃ e, findEntry s e.key = some e ∧ e.endRow ≠ none ∧
      t.table.entries = s.table.entries.filter fun x => decide (x.key ≠ e.key) := by
  have hend {m : SteeringMap} {e : Entry} (hr : allRetired m e = true) : e.endRow ≠ none := by
    intro h
    rw [allRetired, h] at hr
    cases hr
  cases h with
  | close hf _ hr _ =>
    refine ⟨_, hf, hend hr, ?_⟩
    rw [closeEntry, reportEmpty_table, removeEntry_entries, queueRecord_eq]
    rfl
  | free hf _ hr _ =>
    refine ⟨_, hf, hend hr, ?_⟩
    rw [freeEntry, reportEmpty_table, removeEntry_entries, removeJobs_table]

/-- While the bridge does not drain the end of an entry writes the table and the list alone. -/
theorem endMove_frame {s t : State} (h : EndMove s t) (hs : s.acq.state ≠ .draining) :
    t = { s with table := t.table, list := t.list } := by
  cases h with
  | @close e _ _ _ _ _ _ =>
    rw [closeEntry, reportEmpty_armed, removeEntry, queueRecord_eq]
    · rfl
    · rw [removeEntry, queueRecord_eq]
      exact hs
  | @free e _ _ _ _ _ _ =>
    rw [freeEntry, reportEmpty_armed, removeEntry, removeJobs_eq]
    rw [removeEntry, removeJobs_eq]
    exact hs

theorem endMove_length_lt {s t : State} (h : EndMove s t) : t.table.entries.length < s.table.entries.length := by
  obtain ⟨e, hf, -, ht⟩ := endMove_entries h
  rw [ht]
  exact List.length_filter_lt_length_iff_exists.2 ⟨e, findEntry_mem hf, by simp⟩

theorem find_filter_key {es : List Entry} {k j : Nat} {e : Entry}
    (h : (es.filter fun x => decide (x.key ≠ j)).find? (fun x => decide (x.key = k)) = some e) :
    es.find? (fun x => decide (x.key = k)) = some e := by
  have hk : e.key = k := of_decide_eq_true (List.find?_some h :)
  have hj : e.key ≠ j := of_decide_eq_true (List.mem_filter.1 (List.mem_of_find?_eq_some h)).2
  rw [List.find?_filter] at h
  refine Eq.trans (congrArg (fun p => es.find? p) (funext fun x => ?_)) h
  by_cases hx : x.key = k
  · have hxj : x.key ≠ j := fun h => hj (hk.trans (hx.symm.trans h))
    rw [decide_eq_true hx, decide_eq_true hxj, decide_eq_true ⟨rfl, rfl⟩]
  · rw [decide_eq_false hx]
    exact (decide_eq_false fun h => Bool.false_ne_true h.2).symm

/-- An entry found after the tests was found before them. -/
theorem endMoves_found {s t : State} (h : EndMoves s t) {k : Nat} {e : Entry} (ht : findEntry t k = some e) :
    findEntry s k = some e := by
  induction h with
  | refl => exact ht
  | tail _ hlast ih =>
    obtain ⟨x, -, -, hentries⟩ := endMove_entries hlast
    rw [findEntry, hentries] at ht
    exact ih (find_filter_key ht)

/-- An entry without an end row stays in the table. -/
theorem endMoves_stays {s t : State} (h : EndMoves s t) {k : Nat} {e : Entry} (hs : findEntry s k = some e)
    (hend : e.endRow = none) : findEntry t k = some e := by
  induction h with
  | refl => exact hs
  | tail _ hlast ih =>
    obtain ⟨x, hx, hxend, hentries⟩ := endMove_entries hlast
    have hkey : x.key ≠ k := by
      rintro rfl
      rw [hx] at ih
      exact hxend (Option.some.inj ih ▸ hend)
    rw [findEntry, hentries, List.find?_filter]
    refine Eq.trans (congrArg (fun p => List.find? p _) (funext fun y => ?_)) ih
    by_cases hy : y.key = k
    · simp [hy, Ne.symm hkey]
    · simp [hy]

theorem endMoves_sublist {s t : State} (h : EndMoves s t) : t.table.entries.Sublist s.table.entries := by
  induction h with
  | refl => exact List.Sublist.refl _
  | tail _ hlast ih =>
    obtain ⟨x, -, -, hentries⟩ := endMove_entries hlast
    rw [hentries]
    exact List.filter_sublist.trans ih

/-- While no entry leaves the table the tests change nothing. -/
theorem endMoves_same {s t : State} (h : EndMoves s t) (hlen : t.table.entries.length = s.table.entries.length) : t = s := by
  rcases Relation.ReflTransGen.cases_head h with rfl | ⟨u, hfirst, hrest⟩
  · rfl
  · have hle := (endMoves_sublist hrest).length_le
    have hlt := endMove_length_lt hfirst
    omega

theorem endMoves_frame {s t : State} (h : EndMoves s t) (hs : s.acq.state ≠ .draining) :
    t = { s with table := t.table, list := t.list } := by
  induction h with
  | refl => rfl
  | tail _ hlast ih =>
    have hstep := endMove_frame hlast (by rw [ih]; exact hs)
    rw [hstep, ih]

/-! ### Room and order -/

theorem roomFor_perm {s t : State} {xs ys : List Job} (h : RoomFor s xs) (hperm : ys.Perm xs) (hlist : t.list = s.list)
    (htable : t.table.entries = s.table.entries) : RoomFor t ys := by
  obtain ⟨hs, hn, hh⟩ := h
  refine ⟨listSettled_of_resolves hs hlist fun f h => by rw [htable]; exact h, ?_, ?_⟩
  · rw [fillCount, hlist, hperm.length_eq]
    exact hn
  · rw [hlist, htable]
    exact hh.imp_right fun hall f hf => hall f (hperm.mem_iff.1 hf)

theorem satInc_iterate {w : Nat} (n : Nat) {x : BitVec w} (h : x.toNat + n < 2 ^ w) : satInc^[n] x = x + BitVec.ofNat w n := by
  induction n with
  | zero => simp
  | succ n ih =>
    have hn : (BitVec.ofNat w n).toNat = n := by rw [BitVec.toNat_ofNat, Nat.mod_eq_of_lt (by omega)]
    have hsum : (x + BitVec.ofNat w n).toNat = x.toNat + n := by
      rw [BitVec.toNat_add, hn, Nat.mod_eq_of_lt (by omega)]
    have hbelow : x + BitVec.ofNat w n ≠ BitVec.allOnes w := by
      intro h0
      rw [h0, BitVec.toNat_allOnes] at hsum
      omega
    rw [Function.iterate_succ_apply', ih (by omega), satInc, if_neg hbelow, BitVec.add_assoc, BitVec.ofNat_add]
    rfl

theorem entry_unique {es : List Entry} (h : (es.map Entry.key).Nodup) {a b : Entry} (ha : a ∈ es) (hb : b ∈ es)
    (hk : a.key = b.key) : a = b := List.inj_on_of_nodup_map h ha hb hk

theorem findEntry_of_mem {s : State} (h : (s.table.entries.map Entry.key).Nodup) {e : Entry} (he : e ∈ s.table.entries) :
    findEntry s e.key = some e := by
  obtain ⟨as, bs, hsplit, hothers⟩ := split_at_key Entry.key h he
  rw [findEntry, hsplit]
  exact find_at_key Entry.key hothers

theorem allLanes_nodup : allLanes.Nodup := by decide

theorem lookupRow_mem {s : State} {r : Nat} {e : Entry} (h : lookupRow s r = some e) : e ∈ s.table.entries := by
  unfold lookupRow newestEntry at h
  split at h
  next x hx =>
    obtain rfl := Option.some.inj h
    exact List.mem_of_find?_eq_some hx
  next =>
    split at h
    next => cases h
    next x hx =>
      split_ifs at h
      obtain rfl := Option.some.inj h
      exact List.mem_of_getLast? hx

/-! ### The strobe of an advance (R25, R26) -/

/-- The state in which strobe k of an advance is issued or skipped. -/
def strobeTaken (m : SteeringMap) (new : PhasePair) (elapsed : Nat) (s : State) : State :=
  strobeDue m (advanced (observed new elapsed s))

theorem spacingPasses_iff (m : SteeringMap) (s : State) : spacingPasses m s = true ↔ SpacingPasses m s s.clock := by
  unfold spacingPasses SpacingPasses
  split
  next h => simp [h]
  next t h => simp [h]

theorem watchOf_nothing {m : SteeringMap} {s t : State} (h : NothingWatched s m t.strobe.nextStrobe.toNat)
    (ht : t.tracker = s.tracker) : watchOf m t = .nothing := by
  obtain ⟨hsearch, hlocked⟩ := h
  unfold watchOf
  rw [ht]
  dsimp only
  cases hstate : s.tracker.state with
  | idle => rfl
  | search =>
    refine if_neg fun ⟨hfault, hstart⟩ => ?_
    rcases hsearch hstate with hf | hno
    · rw [hf] at hfault
      cases hfault
    · cases hst : s.tracker.searchStart with
      | none =>
        rw [hst] at hstart
        cases hstart
      | some st =>
        rw [hst] at hstart
        exact hno st hst (of_decide_eq_true hstart)
  | locked =>
    obtain ⟨htrack, hfixed⟩ := hlocked (.inl hstate)
    cases hmode : m.mode with
    | track =>
      dsimp only
      split
      next e f _ hf => exact if_neg (Nat.not_le.2 (htrack hmode f hf))
      next => rfl
    | fixed =>
      dsimp only
      split
      next => rfl
      next e he => exact if_neg (hfixed hmode e he)
  | coasting =>
    obtain ⟨htrack, -⟩ := hlocked (.inr hstate)
    cases hmode : m.mode with
    | track =>
      dsimp only
      split
      next e f _ hf => exact if_neg (Nat.not_le.2 (htrack hmode f hf))
      next => rfl
    | fixed => rfl

theorem confirmDue_strobeTaken {new : PhasePair} {elapsed : Nat} {m : SteeringMap} {s : State} (h : AtNewGround s m)
    (hconfirm : NoConfirm s) : confirmDue (strobeTaken m new elapsed s) = false := by
  refine eq_false_of_ne_true fun hc => ?_
  obtain ⟨q, hq, hpoint⟩ := (confirmDue_iff _).1 hc
  exact hconfirm q hq (hpoint.trans (highWater_succ h))

/-- With nothing else coming about, an advance at Q is its strobe. -/
theorem exec_strobe {new : PhasePair} {elapsed : Nat} {m : SteeringMap} {s : State} (h : AtNewGround s m)
    (hcount : CountOf s new true) (hdue : m.Q ≤ s.strobe.phase + 65536) (hconfirm : NoConfirm s)
    (hwatch : NothingWatched s m (s.strobe.nextStrobe + 1).toNat) :
    exec (.encoderTransition new elapsed) s =
      .next (issueOrSkip m s.strobe.nextStrobe.toNat (strobeTaken m new elapsed s)) := by
  have hwatched : watchOf m (strobeTaken m new elapsed s) = .nothing :=
    watchOf_nothing (s := s) (t := strobeTaken m new elapsed s) hwatch rfl
  have hparts : dueParts m s.strobe.nextStrobe.toNat (strobeTaken m new elapsed s) = [.strobe s.strobe.nextStrobe.toNat] := by
    rw [dueParts, if_neg (ne_true_of_eq_false (confirmDue_strobeTaken h hconfirm)), if_pos hwatched]
  have hstep : highWaterAdvance m (advanced (observed new elapsed s)) =
      (freeOrder (dueParts m s.strobe.nextStrobe.toNat (strobeTaken m new elapsed s)) (strobeTaken m new elapsed s)).1.foldl
        (fun t p => actPart m p t)
        (freeOrder (dueParts m s.strobe.nextStrobe.toNat (strobeTaken m new elapsed s)) (strobeTaken m new elapsed s)).2 :=
    if_neg (Nat.not_lt.2 hdue)
  rw [exec_newGround h hcount, hstep, hparts]
  rfl

/-- A strobe of an armed bridge that passes the spacing test is issued, and the tests of the entries follow. -/
theorem issueOrSkip_issued {m : SteeringMap} {k : Nat} {s : State} (ha : s.acq.state ≠ .disarmed)
    (h : SpacingPasses m s s.clock) : issueOrSkip m k s = closeTests (bindStrobe m s.strobe.issueIndex k (issued s)) := by
  have harmed : armed s = true := by simpa [armed] using ha
  rw [issueOrSkip, if_pos harmed, if_pos ((spacingPasses_iff m s).2 h), issueStrobe_eq]

/-- The state in which a strobe skips its rows: counted, and OVERSPEED raised. -/
def skippedAt (s : State) : State := raise .overspeed (bump .skippedStrobes s)

theorem issueOrSkip_skipped {m : SteeringMap} {k : Nat} {s : State} (ha : s.acq.state ≠ .disarmed)
    (h : ¬SpacingPasses m s s.clock) : issueOrSkip m k s = closeTests (skipRows m k (skippedAt s)) := by
  have harmed : armed s = true := by simpa [armed] using ha
  rw [issueOrSkip, if_pos harmed, if_neg (mt (spacingPasses_iff m s).1 h)]
  rfl

/-! ### The rows of a skipped strobe (R91) -/

theorem work_skipRows (m : SteeringMap) (k : Nat) (s : State) :
    ∃ order : List Lane, order.Perm allLanes ∧
      Work (.each (skipsCounting m s k) order) (fun key => (order.map (skipsOverspeed m s k · key)).sum)
        (order.flatMap (skippedFills m s k)) s (skipRows m k s) := by
  refine work_forEachOpenly (P := fun _ t => cores t = cores s) allLanes_nodup (fun l _ t ht => ?_)
    (fun l _ _ _ _ t ht _ => ?_) fun _ _ _ _ => rfl
  · have hwork := work_skipLane m k l t
    obtain ⟨hcounts, hrows, hfills⟩ := skips_cores ht m k l
    rw [hcounts, hfills] at hwork
    exact hwork.congr (fun _ _ _ _ => rfl) (fun _ _ => congrFun hrows _) rfl
  · exact (work_skipLane m k l t).cores.trans ht

theorem skipLane_ring (m : SteeringMap) (k : Nat) (l : Lane) (s : State) : (skipLane m k l s).ring = s.ring := by
  unfold skipLane
  split
  next => rfl
  next e _ =>
    dsimp only
    split_ifs
    · rw [offerFill_ring]
      rfl
    · rfl

theorem skipRows_ring (m : SteeringMap) (k : Nat) (s : State) : (skipRows m k s).ring = s.ring := by
  obtain ⟨order, cs, n, -, heq⟩ := forEachOpenly_eq (fun l => (skippedEntry m k s l).any entryLive) allLanes (skipLane m k) s
  have hfold (ls : List Lane) (t : State) : (ls.foldl (fun t l => skipLane m k l t) t).ring = t.ring := by
    induction ls generalizing t with
    | nil => rfl
    | cons l ls ih => rw [List.foldl_cons, ih, skipLane_ring]
  rw [skipRows, heq, hfold]

/-- The entry whose row a lane passes over is the one that owns it. -/
theorem skipsRowOf_iff {m : SteeringMap} {s : State} {k : Nat} {e : Entry} {l : Lane} :
    skipsRowOf m s k e l = true ↔ skippedEntry m k s l = some e := by
  unfold skipsRowOf skippedEntry
  cases m.lanes.get l with
  | none => simp
  | some lm =>
    by_cases hlag : k < lm.lag
    · simp [hlag]
    · simp [hlag, Nat.not_lt.1 hlag]

section
variable {m : SteeringMap} {s : State} {k : Nat} {e : Entry} (hkeys : (s.table.entries.map Entry.key).Nodup)
  (he : e ∈ s.table.entries)
include hkeys he

theorem skippedEntry_key (l : Lane) {x : Entry} (hx : skippedEntry m k s l = some x) : e.key = x.key ↔ e = x := by
  refine ⟨entry_unique hkeys he ?_, fun h => h ▸ rfl⟩
  unfold skippedEntry at hx
  split at hx
  · cases hx
  · split_ifs at hx
    exact lookupRow_mem hx

theorem skipsCounting_eq (l : Lane) (c : LaneCounts) :
    skipsCounting m s k l e.key l c = if skipsRowOf m s k e l then retiredCounts (entryLive e) c else c := by
  unfold skipsCounting
  by_cases hrow : skipsRowOf m s k e l = true
  · rw [if_pos hrow, skipsRowOf_iff.1 hrow]
    exact if_pos ⟨rfl, rfl⟩
  · rw [if_neg hrow]
    cases hx : skippedEntry m k s l with
    | none => rfl
    | some x =>
      refine if_neg fun ⟨hk, _⟩ => hrow (skipsRowOf_iff.2 ?_)
      rw [hx, (skippedEntry_key hkeys he l hx).1 hk]

theorem skipsOverspeed_eq (l : Lane) : skipsOverspeed m s k l e.key = if skipsRowOf m s k e l then 1 else 0 := by
  unfold skipsOverspeed
  by_cases hrow : skipsRowOf m s k e l = true
  · rw [if_pos hrow, skipsRowOf_iff.1 hrow]
    exact if_pos rfl
  · rw [if_neg hrow]
    cases hx : skippedEntry m k s l with
    | none => rfl
    | some x =>
      refine if_neg fun hk => hrow (skipsRowOf_iff.2 ?_)
      rw [hx, (skippedEntry_key hkeys he l hx).1 hk]

theorem skipsOverspeed_sum {order : List Lane} (hperm : order.Perm allLanes) :
    (order.map (skipsOverspeed m s k · e.key)).sum = allLanes.countP (skipsRowOf m s k e) := by
  rw [← hperm.countP_eq]
  have heach : (fun l => skipsOverspeed m s k l e.key) = fun l => if skipsRowOf m s k e l then 1 else 0 :=
    funext fun l => skipsOverspeed_eq hkeys he l
  rw [heach]
  clear hperm
  induction order with
  | nil => rfl
  | cons l ls ih =>
    rw [List.map_cons, List.sum_cons, ih, List.countP_cons]
    exact Nat.add_comm _ _

end

theorem skipsCounting_own (m : SteeringMap) (s : State) (k : Nat) (x : Lane) (key : Nat) (l : Lane) (c : LaneCounts)
    (h : l ≠ x) : skipsCounting m s k x key l c = c := by
  unfold skipsCounting
  cases skippedEntry m k s x with
  | none => rfl
  | some e => exact if_neg fun hk => h hk.2

theorem exists_of_mem_right {α β : Type} {R : α → β → Prop} {xs : List α} {ys : List β} (h : List.Forall₂ R xs ys) {y : β}
    (hy : y ∈ ys) : ∃ x ∈ xs, R x y := by
  obtain ⟨n, hn, rfl⟩ := List.getElem_of_mem hy
  obtain ⟨hlen, hget⟩ := List.forall₂_iff_get.1 h
  exact ⟨_, List.get_mem xs ⟨n, hlen ▸ hn⟩, hget n (hlen ▸ hn) hn⟩

/-- Settles O23: each lane counts in its own row's entry, and the tests that follow take entries away and change none. -/
theorem skippedRowsRetire : Obligations.SkippedRowsRetire := by
  intro new elapsed m s hnew hcount hdue hspacing hconfirm hwatch hkeys hbounded
  have hstate := hnew.2.1
  have hstep := exec_strobe (elapsed := elapsed) hnew hcount hdue hconfirm hwatch
  rw [issueOrSkip_skipped (s := strobeTaken m new elapsed s) hstate hspacing] at hstep
  obtain ⟨u, hu⟩ : ∃ u, u = skippedAt (strobeTaken m new elapsed s) := ⟨_, rfl⟩
  obtain ⟨order, hperm, hwork⟩ := work_skipRows m s.strobe.nextStrobe.toNat u
  have hends := closeTests_ends (skipRows m s.strobe.nextStrobe.toNat u)
  have htable : u.table = s.table := by rw [hu]; rfl
  have hlist : u.list = s.list := by rw [hu]; rfl
  have hcores : cores u = cores s := by rw [cores, htable]; rfl
  rw [← hu] at hstep
  refine ⟨_, hstep, fun e' he' => ?_, fun e he hend => ?_, fun hdraining => ?_, fun fills hfills hroom hlen => ?_⟩
  · obtain ⟨e, he, htally⟩ := exists_of_mem_right hwork.entries ((endMoves_sublist hends).subset he')
    rw [htable] at he
    obtain ⟨hkey, hst, hfirst, hendRow, -⟩ := core_eq htally.core
    refine ⟨e, he, hkey, hst, hfirst, hendRow, fun l => ?_, ?_⟩
    · have hown := each_own (skipsCounting_own m u s.strobe.nextStrobe.toNat) (hperm.nodup_iff.2 allLanes_nodup) e.key l
        (e.counts.get l)
      rw [htally.counts, hown, if_pos (hperm.mem_iff.2 (mem_allLanes l)), (skips_cores hcores m _ l).1,
        skipsCounting_eq hkeys he]
      by_cases hdropped : e.state = .dropped <;> simp [retiredCounts, entryLive, hdropped]
    · have hsum : (order.map (skipsOverspeed m u s.strobe.nextStrobe.toNat · e.key)).sum =
          allLanes.countP (skipsRowOf m s s.strobe.nextStrobe.toNat e) := by
        rw [← skipsOverspeed_sum hkeys he hperm]
        exact congrArg List.sum (List.map_congr_left fun l _ => congrFun (skips_cores hcores m _ l).2.1 _)
      have hcount : allLanes.countP (skipsRowOf m s s.strobe.nextStrobe.toNat e) ≤ 8 := List.countP_le_length
      have hsmall := hbounded e he
      rw [htally.overspeed, hsum, satInc_iterate]
      omega
  · have hfound : findEntry u e.key = some e := by
      rw [findEntry, htable]
      exact findEntry_of_mem hkeys he
    obtain ⟨e', he', htally⟩ := hwork.isSome hfound
    obtain ⟨hkey, -, -, hendRow, -⟩ := core_eq htally.core
    exact ⟨e', findEntry_mem (endMoves_stays hends he' (hendRow.trans hend)), hkey⟩
  · have hring : (skipRows m s.strobe.nextStrobe.toNat u).ring = s.ring := by rw [skipRows_ring, hu]; rfl
    have hacq : (skipRows m s.strobe.nextStrobe.toNat u).acq = s.acq := by
      rw [hwork.frame, hu]
      rfl
    rw [endMoves_frame hends (by rw [hacq]; exact hdraining)]
    exact congrArg LineRing.slots hring
  · have hsame := endMoves_same hends (hlen.trans (by rw [hwork.length, htable]))
    rw [hsame]
    have hjobs : (order.flatMap (skippedFills m u s.strobe.nextStrobe.toNat)).Perm fills := by
      have hsame : skippedFills m u s.strobe.nextStrobe.toNat = skippedFills m s s.strobe.nextStrobe.toNat :=
        funext fun l => (skips_cores hcores m _ l).2.2
      rw [hfills, hsame]
      exact hperm.flatMap_right _
    have hroom' := roomFor_perm (t := u) hroom hjobs hlist (by rw [htable])
    exact ⟨_, by rw [hwork.joins hroom', hlist], hjobs⟩

end Sys2Proof.WorkProofs
end

section
/-! SUPPORT and PROOFS. The slots and the lines of an issued strobe (R52 to R56, R62): O21 and O22. -/

namespace Sys2Proof.WorkProofs

open Sys2Proof Sys2Proof.Machine Sys2Proof.AcquisitionProofs Sys2Proof.RunProofs Sys2Proof.PathProofs Sys2Proof.WebProofs

/-! ### The rows that entries own (R54, R82) -/

theorem lookupRow_owns {s : State} {r : Nat} {e : Entry} (h : lookupRow s r = some e) : OwnsRow s e r := by
  unfold lookupRow newestEntry at h
  split at h
  next x hx =>
    obtain rfl := Option.some.inj h
    have htest := List.find?_some hx
    rw [Bool.and_eq_true, decide_eq_true_eq] at htest
    obtain ⟨hfirst, hany⟩ := htest
    cases hend : x.endRow with
    | none =>
      rw [hend] at hany
      cases hany
    | some y =>
      rw [hend] at hany
      exact .inl ⟨List.mem_of_find?_eq_some hx, hfirst, y, hend, of_decide_eq_true hany⟩
  next =>
    split at h
    next => cases h
    next x hx =>
      split_ifs at h with hopen
      obtain rfl := Option.some.inj h
      exact .inr ⟨hx, hopen⟩

theorem lookupRow_none_owns {s : State} {r : Nat} (h : lookupRow s r = none) (e : Entry) : ¬OwnsRow s e r := by
  unfold lookupRow newestEntry at h
  split at h
  next => cases h
  next hnone =>
    rintro (⟨hmem, hfirst, y, hend, hbelow⟩ | ⟨hlast, hopen⟩)
    · have hnot := List.find?_eq_none.1 hnone e hmem
      simp [hfirst, hend, hbelow] at hnot
    · rw [hlast] at h
      dsimp only at h
      rw [if_pos hopen] at h
      cases h

/-! ### One lane's slot (R55, R56) -/

section
variable (m : SteeringMap) (k slot : Nat) (l : Lane) (s : State)

theorem oneSlot_givenUp : OneSlot l slot s (givenUp m slot l s) := by
  unfold givenUp
  split_ifs
  · exact oneSlot_forceRetire m true l slot s
  · exact .refl s

theorem bindLane_absent {m : SteeringMap} {l : Lane} (h : m.lanes.get l = none) (k slot : Nat) (s : State) :
    bindLane m k slot l s = s := by
  unfold bindLane
  rw [h]

theorem oneSlot_bindLane : OneSlot l slot s (bindLane m k slot l s) := by
  cases hlane : m.lanes.get l with
  | none =>
    rw [bindLane_absent hlane]
    exact .refl s
  | some lm =>
    have hset := (oneSlot_givenUp m slot l s).trans
      (oneSlot_setSlot l slot (boundRecord (givenUp m slot l s) k lm.lag) (givenUp m slot l s))
    rw [bindLane_eq hlane]
    split_ifs
    · exact hset.trans (oneSlot_forceRetire m false l slot _)
    · exact hset

theorem bindLane_cores : cores (bindLane m k slot l s) = cores s := by
  cases hlane : m.lanes.get l with
  | none => rw [bindLane_absent hlane]
  | some lm => exact (work_bindLane hlane k slot s).cores

end

section
variable {m : SteeringMap} {l : Lane} {lm : LaneMap} (hlane : m.lanes.get l = some lm) (k slot : Nat) {s : State}
include hlane

theorem slotRecord_bindLane (h : s.ring.step.get l ≠ .outOfStep) :
    slotRecord (bindLane m k slot l s) l slot = boundRecord s k lm.lag := by
  rw [bindLane_eq hlane, if_neg h, slotRecord_setSlot_same, boundRecord_cores (work_givenUp m slot l s).cores]

theorem slotRecord_bindLane_outOfStep (h : s.ring.step.get l = .outOfStep) :
    ∃ made, slotRecord (bindLane m k slot l s) l slot =
      { retiredRecord (boundRecord s k lm.lag) with fillMade := made } := by
  rw [bindLane_eq hlane, if_pos h, boundRecord_cores (work_givenUp m slot l s).cores]
  have hretired := slotRecord_forceRetire m false l slot
    (setSlot l slot (boundRecord s k lm.lag) (givenUp m slot l s))
  rw [slotRecord_setSlot_same] at hretired
  exact hretired

end

/-! ### The lanes of a strobe one after another (R55) -/

/-- What the binding of a strobe goes by in a lane is as it was. -/
def Untouched (s : State) (l : Lane) (t : State) : Prop :=
  cores t = cores s ∧ t.ring.slots.get l = s.ring.slots.get l ∧ t.ring.step = s.ring.step

/-- What the binding of a slot at strobe k counts in a lane, if it is enabled. -/
def bindCounting (m : SteeringMap) (s : State) (slot k : Nat) (l : Lane) : Counting :=
  (m.lanes.get l).elim noCounting fun lm => bindsCounting m s slot k lm.lag l

/-- The fills that the binding of a slot at strobe k offers in a lane, if it is enabled. -/
def bindFills (m : SteeringMap) (s : State) (slot k : Nat) (l : Lane) : List Job :=
  (m.lanes.get l).elim [] fun lm => bindsFills m s slot k lm.lag l

theorem work_bindLane_untouched {m : SteeringMap} {s t : State} {l : Lane} (h : Untouched s l t) (k slot : Nat) :
    Work (bindCounting m s slot k l) (fun _ => 0) (bindFills m s slot k l) t (bindLane m k slot l t) := by
  obtain ⟨hcores, hslots, hstep⟩ := h
  unfold bindCounting bindFills
  cases hlane : m.lanes.get l with
  | none =>
    rw [bindLane_absent hlane]
    exact work_refl t
  | some lm =>
    have hwork := work_bindLane hlane k slot t
    have hrecord := slotRecord_of_lane hslots slot
    unfold bindsCounting bindsFills givenUpFill at *
    rw [hrecord, hstep, boundRecord_cores hcores] at hwork
    simp only [givesUp_cores hcores, leftFill_cores hcores] at hwork
    exact hwork

theorem bindLane_untouched {m : SteeringMap} {s t : State} {k slot : Nat} {x l : Lane} (hne : x ≠ l) (h : Untouched s l t) :
    Untouched s l (bindLane m k slot x t) := by
  obtain ⟨hcores, hslots, hstep⟩ := h
  have hone := oneSlot_bindLane m k slot x t
  exact ⟨(bindLane_cores m k slot x t).trans hcores, (hone.lanes l hne.symm).trans hslots, hone.step.trans hstep⟩

/-- The state in which the lanes of an issued strobe are bound. -/
def boundAt (m : SteeringMap) (i : BitVec 48) (s : State) : State :=
  { s with ring := { s.ring with bindings := slotPut (i.toNat % m.S) i s.ring.bindings } }

section
variable (m : SteeringMap) (i : BitVec 48) (k : Nat) (s : State)

theorem boundLanes_nodup : (boundLanes s).Nodup := allLanes_nodup.filter _

theorem mem_boundLanes (l : Lane) : l ∈ boundLanes s ↔ s.ring.step.get l ≠ .off := by
  rw [boundLanes, List.mem_filter, decide_eq_true_eq]
  exact and_iff_right (mem_allLanes l)

theorem work_bindStrobe :
    ∃ order : List Lane, order.Perm (boundLanes s) ∧
      Work (.each (bindCounting m s (i.toNat % m.S) k) order) (fun _ => 0)
        (order.flatMap (bindFills m s (i.toNat % m.S) k)) s (bindStrobe m i k s) := by
  obtain ⟨order, hperm, hwork⟩ :=
    work_forEachOpenly (P := Untouched s) (ch := bindCounting m s (i.toNat % m.S) k) (os := fun _ _ => 0)
      (fills := bindFills m s (i.toNat % m.S) k) (f := bindLane m k (i.toNat % m.S)) (s := boundAt m i s)
      (offers := bindOffers m k (i.toNat % m.S) (boundAt m i s)) (boundLanes_nodup s)
      (fun l _ t ht => work_bindLane_untouched ht k _) (fun x _ y _ hxy t _ ht => bindLane_untouched hxy ht)
      fun l _ _ _ => ⟨rfl, rfl, rfl⟩
  have hbound : Work noCounting (fun _ => 0) [] s (boundAt m i s) := work_of_same rfl rfl rfl rfl rfl
  exact ⟨order, hperm, (hbound.after_quiet hwork).congr (fun _ _ _ _ => rfl) (fun _ _ => by simp) rfl⟩

theorem foldl_bindLane_ring (slot : Nat) (order : List Lane) (t : State) :
    (order.foldl (fun t l => bindLane m k slot l t) t).ring.step = t.ring.step ∧
      (order.foldl (fun t l => bindLane m k slot l t) t).ring.bindings = t.ring.bindings ∧
      ∀ l ∉ order, Untouched t l (order.foldl (fun t l => bindLane m k slot l t) t) := by
  induction order generalizing t with
  | nil => exact ⟨rfl, rfl, fun _ _ => ⟨rfl, rfl, rfl⟩⟩
  | cons x xs ih =>
    obtain ⟨hstep, hbindings, hothers⟩ := ih (bindLane m k slot x t)
    have hone := oneSlot_bindLane m k slot x t
    refine ⟨hstep.trans hone.step, hbindings.trans hone.bindings, fun l hl => ?_⟩
    obtain ⟨hx, hxs⟩ := not_or.1 (mt List.mem_cons.2 hl)
    obtain ⟨hcores, hslots, hsteps⟩ := hothers l hxs
    have hfirst : Untouched t l (bindLane m k slot x t) := bindLane_untouched (Ne.symm hx) ⟨rfl, rfl, rfl⟩
    obtain ⟨hcores', hslots', hsteps'⟩ := hfirst
    exact ⟨hcores.trans hcores', hslots.trans hslots', hsteps.trans hsteps'⟩

/-- The ring after an issued strobe: its binding, and in each lane that is not OFF what binding that lane's slot
leaves. -/
theorem bindStrobe_ring :
    (bindStrobe m i k s).ring.step = s.ring.step ∧
      (bindStrobe m i k s).ring.bindings = slotPut (i.toNat % m.S) i s.ring.bindings ∧
      (∀ l, s.ring.step.get l = .off → (bindStrobe m i k s).ring.slots.get l = s.ring.slots.get l) ∧
      ∀ l, s.ring.step.get l ≠ .off →
        ∃ t, Untouched s l t ∧ (bindStrobe m i k s).ring.slots.get l = (bindLane m k (i.toNat % m.S) l t).ring.slots.get l := by
  obtain ⟨order, cs, n, hperm, heq⟩ := forEachOpenly_eq (bindOffers m k (i.toNat % m.S) (boundAt m i s)) (boundLanes s)
    (bindLane m k (i.toNat % m.S)) (boundAt m i s)
  have hstrobe : bindStrobe m i k s =
      order.foldl (fun t l => bindLane m k (i.toNat % m.S) l t) { boundAt m i s with choices := cs, choiceCount := n } := heq
  have hmem (l : Lane) : l ∈ order ↔ s.ring.step.get l ≠ .off := (hperm.mem_iff).trans (mem_boundLanes s l)
  obtain ⟨hstep, hbindings, hothers⟩ := foldl_bindLane_ring m k (i.toNat % m.S) order
    { boundAt m i s with choices := cs, choiceCount := n }
  rw [hstrobe]
  refine ⟨hstep, hbindings, fun l hl => ?_, fun l hl => ?_⟩
  · obtain ⟨-, hslots, -⟩ := hothers l (fun h => (hmem l).1 h hl)
    exact hslots
  · obtain ⟨as, bs, hsplit⟩ := List.append_of_mem ((hmem l).2 hl)
    have hnodup : order.Nodup := hperm.nodup_iff.2 (boundLanes_nodup s)
    rw [hsplit, List.nodup_append] at hnodup
    obtain ⟨-, hnodup', hapart⟩ := hnodup
    have has : l ∉ as := fun h => hapart l h l (List.mem_cons_self ..) rfl
    obtain ⟨-, -, hbefore⟩ := foldl_bindLane_ring m k (i.toNat % m.S) as
      { boundAt m i s with choices := cs, choiceCount := n }
    refine ⟨_, hbefore l has, ?_⟩
    rw [hsplit, List.foldl_append, List.foldl_cons]
    obtain ⟨-, -, hafter⟩ := foldl_bindLane_ring m k (i.toNat % m.S) bs
      (bindLane m k (i.toNat % m.S) l
        (as.foldl (fun t l => bindLane m k (i.toNat % m.S) l t) { boundAt m i s with choices := cs, choiceCount := n }))
    exact (hafter l (List.nodup_cons.1 hnodup').1).2.1

end

theorem exec_issued {new : PhasePair} {elapsed : Nat} {m : SteeringMap} {s : State} (h : AtNewGround s m)
    (hcount : CountOf s new true) (hdue : m.Q ≤ s.strobe.phase + 65536) (hspacing : SpacingPasses m s (s.clock + elapsed))
    (hconfirm : NoConfirm s) (hwatch : NothingWatched s m (s.strobe.nextStrobe + 1).toNat) :
    exec (.encoderTransition new elapsed) s =
      .next
        (closeTests
          (bindStrobe m s.strobe.issueIndex s.strobe.nextStrobe.toNat (issued (strobeTaken m new elapsed s)))) := by
  rw [exec_strobe h hcount hdue hconfirm hwatch]
  exact congrArg Host.Outcome.next (issueOrSkip_issued (s := strobeTaken m new elapsed s) h.2.1 hspacing)

/-- Settles O21: every lane is bound once, and binding it leaves the record of its row. -/
theorem issuedStrobeBindsSlots : Obligations.IssuedStrobeBindsSlots := by
  intro new elapsed m s hnew hcount hdraining hdue hspacing hconfirm hwatch
  obtain ⟨u, hu⟩ : ∃ u, u = issued (strobeTaken m new elapsed s) := ⟨_, rfl⟩
  have hstep := exec_issued hnew hcount hdue hspacing hconfirm hwatch
  rw [← hu] at hstep
  have hring : u.ring = s.ring := by rw [hu]; rfl
  have hcores : cores u = cores s := by rw [hu]; rfl
  obtain ⟨order, -, hwork⟩ := work_bindStrobe m s.strobe.issueIndex s.strobe.nextStrobe.toNat u
  obtain ⟨hsteps, hbindings, hoff, hlanes⟩ := bindStrobe_ring m s.strobe.issueIndex s.strobe.nextStrobe.toNat u
  have hacq : (bindStrobe m s.strobe.issueIndex s.strobe.nextStrobe.toNat u).acq = s.acq := by
    rw [hwork.frame, hu]
    rfl
  have hframe := endMoves_frame (closeTests_ends (bindStrobe m s.strobe.issueIndex s.strobe.nextStrobe.toNat u))
    (by rw [hacq]; exact hdraining)
  have hkept : (closeTests (bindStrobe m s.strobe.issueIndex s.strobe.nextStrobe.toNat u)).ring =
      (bindStrobe m s.strobe.issueIndex s.strobe.nextStrobe.toNat u).ring := by rw [hframe]
  refine ⟨_, hstep, ?_, ?_, fun l hl => ?_, fun l lm hlane hin => ?_⟩
  · rw [hkept, hbindings, slotFind_slotPut_same]
  · rw [hkept, hsteps, hring]
  · rw [hkept, hoff l (by rw [hring]; exact hl), hring]
  · obtain ⟨t, ⟨htcores, -, htstep⟩, hslots⟩ := hlanes l (by rw [hring, hin]; exact StepState.noConfusion)
    have hbound : slotRecord (closeTests (bindStrobe m s.strobe.issueIndex s.strobe.nextStrobe.toNat u)) l
        (s.strobe.issueIndex.toNat % m.S) = boundRecord s s.strobe.nextStrobe.toNat lm.lag := by
      rw [slotRecord_of_ring hkept, slotRecord_of_lane hslots, slotRecord_bindLane hlane,
        boundRecord_cores (htcores.trans hcores)]
      rw [htstep, hring, hin]
      exact StepState.noConfusion
    refine ⟨_, _, hbound, fun hlag => ?_, fun hlag => ?_⟩
    · rw [bindingRow, if_pos hlag]
      exact ⟨rfl, rfl⟩
    · rw [bindingRow, if_neg (Nat.not_lt.2 hlag)]
      cases hlookup : lookupRow s (s.strobe.nextStrobe.toNat - lm.lag) with
      | none => exact ⟨rfl, fun _ h => RowRef.noConfusion h, fun _ => lookupRow_none_owns hlookup⟩
      | some e =>
        exact ⟨rfl, fun _ h => ⟨e, lookupRow_owns hlookup, RowRef.entry.inj h⟩, fun h => RowRef.noConfusion h⟩

/-! ### The counts and the fills of an issued strobe (R56, R62, R104) -/

theorem bindCounting_own (m : SteeringMap) (s : State) (slot k : Nat) (x : Lane) (key : Nat) (l : Lane) (c : LaneCounts)
    (h : l ≠ x) : bindCounting m s slot k x key l c = c := by
  unfold bindCounting
  cases m.lanes.get x with
  | none => rfl
  | some lm =>
    dsimp only [Option.elim, bindsCounting, Counting.then]
    split_ifs <;> simp only [givesUp, noCounting, lineCounting_own x _ _ _ _ _ h]

/-- The fill of the new line of a lane out of step, by the record it is bound to. -/
theorem leftFill_boundRecord {m : SteeringMap} {s : State} (hkeys : (s.table.entries.map Entry.key).Nodup) (k : Nat)
    {l : Lane} (lm : LaneMap) (h : s.ring.step.get l = .outOfStep) :
    leftFill m s l (boundRecord s k lm.lag) = newLineFill m s k l lm := by
  by_cases hlag : k < lm.lag
  · have hnone : recordEntry s (boundRecord s k lm.lag) = none := by
      simp only [boundRecord, bindingRow, if_pos hlag, recordEntry]
    rw [leftFill_none hnone, newLineFill]
    split
    · exact (if_neg fun hl => absurd hl.2 (Nat.not_le.2 hlag)).symm
    · rfl
  · cases hlookup : lookupRow s (k - lm.lag) with
    | none =>
      have hnone : recordEntry s (boundRecord s k lm.lag) = none := by
        simp only [boundRecord, bindingRow, if_neg hlag, hlookup, recordEntry]
      rw [leftFill_none hnone, newLineFill, hlookup]
    | some e =>
      have hentry : recordEntry s (boundRecord s k lm.lag) = some e := by
        simp only [boundRecord, bindingRow, if_neg hlag, hlookup, recordEntry]
        exact findEntry_of_mem hkeys (lookupRow_mem hlookup)
      have hrow : (boundRecord s k lm.lag).row.getD 0 = k - lm.lag := by
        simp only [boundRecord, bindingRow, if_neg hlag, hlookup, Option.getD_some]
      have hmark : (boundRecord s k lm.lag).fillMark = 0 := rfl
      rw [leftFill_some hentry, newLineFill, hlookup, hrow, hmark, Nat.zero_max]
      exact (if_pos ⟨h, Nat.not_lt.1 hlag⟩).symm

theorem bindFills_eq {m : SteeringMap} {s : State} (hkeys : (s.table.entries.map Entry.key).Nodup) (slot k : Nat) {l : Lane}
    (h : s.ring.step.get l ≠ .off) : bindFills m s slot k l = bindingFills m s slot k l := by
  unfold bindFills bindingFills
  cases m.lanes.get l with
  | none => rfl
  | some lm =>
    dsimp only [Option.elim]
    rw [if_neg h, bindsFills]
    by_cases hout : s.ring.step.get l = .outOfStep
    · rw [if_pos hout, leftFill_boundRecord hkeys k lm hout]
    · rw [if_neg hout, newLineFill]
      split
      · rw [if_neg fun hl => hout hl.1]
      · rfl

theorem bindFills_untouched {m : SteeringMap} {s t : State} {l : Lane} (h : Untouched s l t) (slot k : Nat) :
    bindFills m t slot k l = bindFills m s slot k l := by
  obtain ⟨hcores, hslots, hstep⟩ := h
  unfold bindFills
  cases m.lanes.get l with
  | none => rfl
  | some lm =>
    dsimp only [Option.elim]
    rw [bindsFills, bindsFills, givenUpFill, givenUpFill, slotRecord_of_lane hslots slot, hstep, boundRecord_cores hcores,
      leftFill_cores hcores, leftFill_cores hcores]

theorem flatMap_filter_of_nil {α β : Type} {p : α → Bool} {g : α → List β} (xs : List α) (h : ∀ x ∈ xs, p x = false → g x = []) :
    (xs.filter p).flatMap g = xs.flatMap g := by
  induction xs with
  | nil => rfl
  | cons x xs ih =>
    have hrest := ih fun y hy => h y (List.mem_cons_of_mem _ hy)
    cases hp : p x with
    | true => rw [List.filter_cons_of_pos hp, List.flatMap_cons, List.flatMap_cons, hrest]
    | false =>
      rw [List.filter_cons_of_neg (ne_true_of_eq_false hp), List.flatMap_cons, hrest, h x (List.mem_cons_self ..) hp,
        List.nil_append]

/-- The fills of the lanes that are bound are those of all lanes: a lane that is OFF has none. -/
theorem bindFills_perm {m : SteeringMap} {s : State} (hkeys : (s.table.entries.map Entry.key).Nodup) (slot k : Nat)
    {order : List Lane} (hperm : order.Perm (boundLanes s)) :
    (order.flatMap (bindFills m s slot k)).Perm (allLanes.flatMap (bindingFills m s slot k)) := by
  have hsame : (boundLanes s).flatMap (bindFills m s slot k) = (boundLanes s).flatMap (bindingFills m s slot k) :=
    List.flatMap_congr fun l hl => bindFills_eq hkeys slot k ((mem_boundLanes s l).1 hl)
  have hall : (boundLanes s).flatMap (bindingFills m s slot k) = allLanes.flatMap (bindingFills m s slot k) := by
    refine flatMap_filter_of_nil allLanes fun l _ hoff => ?_
    have hl : s.ring.step.get l = .off := not_not.1 (of_decide_eq_false hoff)
    unfold bindingFills
    split
    · rw [if_pos hl]
    · rfl
  rw [← hall, ← hsame]
  exact hperm.flatMap_right _

theorem placedBy_some {e : Entry} {l : Lane} {p : LanePlacement} (h : e.placement.get l = some p) : placedBy e l = p := by
  rw [placedBy, h, Option.getD_some]

/-- Settles O22: each lane counts in its own line's entry, and the tests that follow take entries away and change none. -/
theorem rebindingGivesLinesUp : Obligations.RebindingGivesLinesUp := by
  intro new elapsed m s hnew hcount hdraining hdue hspacing hconfirm hwatch
  obtain ⟨u, hu⟩ : ∃ u, u = issued (strobeTaken m new elapsed s) := ⟨_, rfl⟩
  have hstep := exec_issued hnew hcount hdue hspacing hconfirm hwatch
  rw [← hu] at hstep
  have hring : u.ring = s.ring := by rw [hu]; rfl
  have htable : u.table = s.table := by rw [hu]; rfl
  have hlist : u.list = s.list := by rw [hu]; rfl
  have hacq : u.acq = s.acq := by rw [hu]; rfl
  clear hu
  have hcores : cores u = cores s := by rw [cores, htable]; rfl
  obtain ⟨order, hperm, hwork⟩ := work_bindStrobe m s.strobe.issueIndex s.strobe.nextStrobe.toNat u
  obtain ⟨-, -, -, hlanes⟩ := bindStrobe_ring m s.strobe.issueIndex s.strobe.nextStrobe.toNat u
  generalize bindStrobe m s.strobe.issueIndex s.strobe.nextStrobe.toNat u = v at hstep hwork hlanes
  have hends := closeTests_ends v
  have hfound (k : Nat) : findEntry u k = findEntry s k := by rw [findEntry, htable]; rfl
  have hmem (l : Lane) : l ∈ order ↔ s.ring.step.get l ≠ .off := by
    rw [hperm.mem_iff, mem_boundLanes, hring]
  -- the counts of a bound lane are those its own slot's binding makes
  have hown {l : Lane} {lm : LaneMap} {k : Nat} {e e' : Entry} (hlane : m.lanes.get l = some lm)
      (hl : s.ring.step.get l ≠ .off) (he : findEntry s k = some e) (he' : findEntry (closeTests v) k = some e') :
      e'.counts.get l =
        bindsCounting m u (s.strobe.issueIndex.toNat % m.S) s.strobe.nextStrobe.toNat lm.lag l k l (e.counts.get l) := by
    have htally := hwork.entry ((hfound k).trans he) (endMoves_found hends he')
    rw [htally.counts, findEntry_key he,
      each_own (bindCounting_own m u _ _) (hperm.nodup_iff.2 (boundLanes_nodup u)), if_pos ((hmem l).2 hl), bindCounting, hlane]
    rfl
  have hframe := endMoves_frame hends (by rw [hwork.frame, hacq]; exact hdraining)
  have hkept : (closeTests v).ring = v.ring := by rw [hframe]
  -- the new line of a lane out of step has been given up at once
  have hretired {l : Lane} {lm : LaneMap} {slot : Nat} (hlane : m.lanes.get l = some lm)
      (hslot : slot = s.strobe.issueIndex.toNat % m.S) (hout : s.ring.step.get l = .outOfStep) :
      ∃ made, slotRecord (closeTests v) l slot =
        { retiredRecord (boundRecord s s.strobe.nextStrobe.toNat lm.lag) with fillMade := made } := by
    obtain ⟨t, ⟨htcores, -, htstep⟩, hslots⟩ := hlanes l (by rw [hring, hout]; exact StepState.noConfusion)
    obtain ⟨made, hmade⟩ := slotRecord_bindLane_outOfStep hlane s.strobe.nextStrobe.toNat slot
      (s := t) (by rw [htstep, hring, hout])
    refine ⟨made, ?_⟩
    rw [slotRecord_of_ring hkept, hslot, slotRecord_of_lane hslots, ← hslot, hmade, boundRecord_cores (htcores.trans hcores)]
  refine ⟨_, hstep, fun l lm slot hlane hslot => ⟨fun k e e' p hin hopen href he hp he' => ?given,
    fun hout hclosed => ⟨?retired, ?skipped, ?counts⟩⟩, fun fills hfills hroom hkeys hlen => ?fills⟩
  case given =>
    subst hslot
    have hrecord : slotRecord u l (s.strobe.issueIndex.toNat % m.S) = slotRecord s l (s.strobe.issueIndex.toNat % m.S) :=
      slotRecord_of_ring hring l _
    have hentry : recordEntry s (slotRecord s l (s.strobe.issueIndex.toNat % m.S)) = some e := by
      rw [recordEntry, href]
      exact he
    have hfill : leftFill m s l (slotRecord s l (s.strobe.issueIndex.toNat % m.S)) ≠ [] ↔
        e.state ≠ .dropped ∧
          max (slotRecord s l (s.strobe.issueIndex.toNat % m.S)).fillMark (p.trimL * m.P) < m.Lp * m.P - p.trimR * m.P := by
      rw [leftFill_some hentry, lineFill_ne_nil, placedBy_some hp, and_comm]
      rfl
    rw [hown hlane (by rw [hin]; exact StepState.noConfusion) he he', bindsCounting, hrecord, if_pos hopen, hring, hin,
      if_neg StepState.noConfusion, givesUp_cores hcores]
    refine (if_pos ⟨href, rfl⟩).trans ?_
    simp only [givenUpCounts, retiredCounts, if_true, Bool.or_eq_true, decide_eq_true_eq, hfill]
  case retired =>
    obtain ⟨made, hmade⟩ := hretired hlane hslot hout
    rw [hmade]
    rfl
  case skipped =>
    obtain ⟨made, hmade⟩ := hretired hlane hslot hout
    rw [hmade]
    rfl
  case counts =>
    subst hslot
    intro e e' p hlag hlookup hkeys hp he'
    have hrecord : slotRecord u l (s.strobe.issueIndex.toNat % m.S) = slotRecord s l (s.strobe.issueIndex.toNat % m.S) :=
      slotRecord_of_ring hring l _
    have href : (boundRecord s s.strobe.nextStrobe.toNat lm.lag).ref = some (.entry e.key) := by
      simp only [boundRecord, bindingRow, if_neg (Nat.not_lt.2 hlag), hlookup]
    have hfill : leftFill m s l (boundRecord s s.strobe.nextStrobe.toNat lm.lag) ≠ [] ↔
        e.state ≠ .dropped ∧ p.trimL * m.P < m.Lp * m.P - p.trimR * m.P := by
      rw [leftFill_boundRecord hkeys _ lm hout, newLineFill, hlookup]
      dsimp only
      rw [if_pos ⟨hout, hlag⟩, lineFill_ne_nil, placedBy_some hp, and_comm]
    rw [hown hlane (by rw [hout]; exact StepState.noConfusion) (findEntry_of_mem hkeys (lookupRow_mem hlookup)) he',
      bindsCounting, hrecord, if_neg hclosed, hring, hout, if_pos rfl, givesUp_cores hcores, boundRecord_cores hcores]
    refine (if_pos ⟨href, rfl⟩).trans ?_
    have hmade : (boundRecord s s.strobe.nextStrobe.toNat lm.lag).fillMade = false := rfl
    simp only [givenUpCounts, retiredCounts, noCounting, hmade, Bool.false_or, decide_eq_true_eq, hfill, Bool.false_eq_true,
      if_false]
  case fills =>
    have hsame := endMoves_same hends (hlen.trans (by rw [hwork.length, htable]))
    have hjobs : (order.flatMap (bindFills m u (s.strobe.issueIndex.toNat % m.S) s.strobe.nextStrobe.toNat)).Perm fills := by
      have hlanesSame : bindFills m u (s.strobe.issueIndex.toNat % m.S) s.strobe.nextStrobe.toNat =
          bindFills m s (s.strobe.issueIndex.toNat % m.S) s.strobe.nextStrobe.toNat :=
        funext fun l => bindFills_untouched (m := m) ⟨hcores, by rw [hring], by rw [hring]⟩ _ _
      have hbound : boundLanes u = boundLanes s := by rw [boundLanes, hring]; rfl
      rw [hfills, hlanesSame]
      exact bindFills_perm hkeys _ _ (hbound ▸ hperm)
    have hroom' := roomFor_perm (t := u) hroom hjobs hlist (by rw [htable])
    rw [hsame]
    exact ⟨_, by rw [hwork.joins hroom', hlist], hjobs⟩

end Sys2Proof.WorkProofs
end

section
/-! SUPPORT and PROOFS. Boundary decisions in an armed bridge (R47, R83, R143): the strobe of an advance whatever comes
before it (O20), and the judging of a mark (O27). -/

namespace Sys2Proof.DecisionProofs

open Sys2Proof Sys2Proof.Machine Sys2Proof.AcquisitionProofs Sys2Proof.RunProofs Sys2Proof.PathProofs Sys2Proof.WebProofs
  Sys2Proof.WorkProofs

/-! ### A bridge whose run goes on -/

/-- The bridge is armed, and in DRAINING its table is not empty. -/
def Driven (s : State) : Prop := s.acq.state ≠ .disarmed ∧ (s.acq.state = .draining → s.table.entries ≠ [])

theorem reportEmpty_driven {s : State} (h : Driven s) : reportEmpty s = s := if_neg fun hs => h.2 hs.1 hs.2

theorem driven_of_same {s t : State} (h : Driven s) (hacq : t.acq.state = s.acq.state)
    (htable : t.table.entries = [] → s.table.entries = []) : Driven t :=
  ⟨by rw [hacq]; exact h.1, fun hd he => h.2 (hacq ▸ hd) (htable he)⟩

theorem endNewest_entries_nil {row : Nat} {k : Kind} {s : State} (h : (endNewest row k s).table.entries = []) :
    s.table.entries = [] := by
  unfold endNewest at h
  split at h
  next => exact h
  next => exact List.map_eq_nil_iff.1 h

/-- The opening rule in the words of R143. -/
theorem openingRule_eq (a : Acquisition) :
    ((openingRule a.state a.request).1 = true ↔ opensRepeat a) ∧
      acqAfterDecision a = { a with
        state := (openingRule a.state a.request).2.1
        request := (openingRule a.state a.request).2.2 } := by
  obtain ⟨st, rq, line⟩ := a
  constructor
  · cases st <;> cases rq <;> simp [openingRule, opensRepeat]
  · cases st <;> cases rq <;> simp [openingRule, acqAfterDecision]

theorem acqAfterDecision_driven {s t : State} (h : Driven s) (hacq : t.acq = acqAfterDecision s.acq)
    (htable : t.table.entries = [] → s.table.entries = []) : Driven t := by
  obtain ⟨ha, hd⟩ := h
  rw [Driven, hacq]
  refine ⟨?_, fun hdrain he => ?_⟩
  · simp only [acqAfterDecision]
    split_ifs <;> simp [ha]
  · simp only [acqAfterDecision] at hdrain
    split_ifs at hdrain
    exact hd hdrain (htable he)

/-! ### A boundary decision (R47) -/

/-- The state after a decision but for the repeat that it may open: the next window, the acquisition state and the
newest entry's end. -/
def decided (b : Nat) (k : Kind) (n : SteeringMap) (s : State) : State :=
  endNewest b k
    { setWindow n b { s with maps := { live := some n, staged := none } } with acq := acqAfterDecision s.acq }

theorem decided_acq (b : Nat) (k : Kind) (n : SteeringMap) (s : State) : (decided b k n s).acq = acqAfterDecision s.acq :=
  endNewest_acq ..

theorem cutOver_live_eq {s : State} {m : SteeringMap} (hm : s.maps.live = some m) :
    cutOver s = { s with maps := { live := some (s.maps.staged.getD m), staged := none } } := by
  unfold cutOver
  cases hst : s.maps.staged with
  | none =>
    have hmaps : ({ live := some m, staged := none } : MapStore) = s.maps := by rw [← hm, ← hst]
    exact congrArg (fun x => { s with maps := x }) hmaps.symm
  | some n => rfl

/-- A decision of a bridge whose run goes on. -/
theorem decideBoundary_driven {s : State} {m : SteeringMap} (hm : s.maps.live = some m) (h : Driven s) (b : Nat) (k : Kind) :
    decideBoundary b k s =
      if (openingRule s.acq.state s.acq.request).1 then
        openRepeat b k (s.maps.staged.getD m) (decided b k (s.maps.staged.getD m) s)
      else decided b k (s.maps.staged.getD m) s := by
  have hruled : setAcq (openingRule s.acq.state s.acq.request).2.1 (openingRule s.acq.state s.acq.request).2.2
      (setWindow (s.maps.staged.getD m) b { s with maps := { live := some (s.maps.staged.getD m), staged := none } }) =
      { setWindow (s.maps.staged.getD m) b { s with maps := { live := some (s.maps.staged.getD m), staged := none } } with
        acq := acqAfterDecision s.acq } := by
    rw [(openingRule_eq s.acq).2]
    rfl
  have hdecided : Driven (decided b k (s.maps.staged.getD m) s) :=
    acqAfterDecision_driven h (decided_acq ..) endNewest_entries_nil
  have hdef : decideBoundary b k s =
      reportEmpty
        (if (openingRule s.acq.state s.acq.request).1 then
          openRepeat b k (s.maps.staged.getD m) (decided b k (s.maps.staged.getD m) s)
        else decided b k (s.maps.staged.getD m) s) := by
    unfold decideBoundary
    rw [cutOver_live_eq hm]
    dsimp only
    rw [hruled]
    rfl
  rw [hdef]
  split_ifs
  · refine reportEmpty_driven (driven_of_same hdecided ?_ fun he => ?_)
    · rw [openRepeat_eq]
    · unfold openRepeat at he
      dsimp only at he
      split_ifs at he
      · exact absurd he (List.append_ne_nil_of_right_ne_nil _ (List.cons_ne_nil _ _))
      · exact he
  · exact reportEmpty_driven hdecided

/-- A decision keeps a run going. -/
theorem decideBoundary_keeps {s : State} {m : SteeringMap} (hm : s.maps.live = some m) (h : Driven s) (b : Nat) (k : Kind) :
    Driven (decideBoundary b k s) := by
  have hdecided : Driven (decided b k (s.maps.staged.getD m) s) :=
    acqAfterDecision_driven h (decided_acq ..) endNewest_entries_nil
  rw [decideBoundary_driven hm h]
  split_ifs
  · refine driven_of_same hdecided ?_ fun he => ?_
    · rw [openRepeat_eq]
    · unfold openRepeat at he
      dsimp only at he
      split_ifs at he
      · exact absurd he (List.append_ne_nil_of_right_ne_nil _ (List.cons_ne_nil _ _))
      · exact he
  · exact hdecided

theorem judgeMark_keeps {s : State} {m : SteeringMap} (hm : s.maps.live = some m) (h : Driven s) (b : Nat) :
    Driven (judgeMark b s) := by
  unfold judgeMark
  split
  · exact h
  · exact decideBoundary_keeps (s := endSearch s) hm h b .mark
  all_goals
    split_ifs
    · exact decideBoundary_keeps (s := relock s) hm h b .mark
    · exact h

theorem endQualification_keeps {s : State} {m n : SteeringMap} (hm : s.maps.live = some m) (h : Driven s) :
    Driven (endQualification n s) := by
  unfold endQualification
  split
  next => exact h
  next q _ =>
    dsimp only
    split_ifs
    · exact judgeMark_keeps (s := dropQualification s) hm h _
    · exact h

theorem lostDecision_keeps {s : State} (h : Driven s) (e : Nat) : Driven (lostDecision e s) := by
  have hended : Driven (endNewest e .flywheel s) := driven_of_same h (by rw [endNewest_acq]) endNewest_entries_nil
  unfold lostDecision
  dsimp only
  rw [reportEmpty_driven]
  · split_ifs <;> exact hended
  · split_ifs <;> exact hended

theorem actOnWatch_keeps {s : State} {m n : SteeringMap} (hm : s.maps.live = some m) (h : Driven s) :
    Driven (actOnWatch n s) := by
  unfold actOnWatch
  split
  · exact h
  · exact h
  · exact decideBoundary_keeps (s := { s with tracker := { s.tracker with state := .coasting, coast := s.tracker.coast + 1 } }) hm h _ _
  · exact lostDecision_keeps h _
  · exact decideBoundary_keeps hm h _ _

theorem actPart_keeps {m n : SteeringMap} {p : AdvancePart} (hp : p = .confirm ∨ p = .watch) {s : State}
    (hm : s.maps.live = some m) (h : Driven s) : Driven (actPart n p s) := by
  rcases hp with rfl | rfl
  · unfold actPart
    dsimp only
    split_ifs
    · exact endQualification_keeps hm h
    · exact h
  · exact actOnWatch_keeps hm h

theorem foldl_actPart_keeps {n : SteeringMap} {ps : List AdvancePart} (hps : ∀ p ∈ ps, p = .confirm ∨ p = .watch)
    {s : State} (hm : s.maps.live ≠ none) (h : Driven s) : Driven (ps.foldl (fun t p => actPart n p t) s) := by
  induction ps generalizing s with
  | nil => exact h
  | cons p ps ih =>
    obtain ⟨m, hlive⟩ := Option.ne_none_iff_exists'.1 hm
    have hp := hps p (List.mem_cons_self ..)
    exact ih (fun q hq => hps q (List.mem_cons_of_mem _ hq)) ((actPart_moves hp s).live hm) (actPart_keeps hp hlive h)

/-! ### The strobe of an advance (R24 to R29) -/

theorem pendingCause_raise (c : Cause) (s : State) : pendingCause c (raise c s) = true := by
  cases c <;> simp [pendingCause, causeSet, causeBit]

theorem pendingCause_of_causes {s t : State} (h : CausesKept s t) {c : Cause} (hs : pendingCause c s = true) :
    pendingCause c t = true := by
  unfold pendingCause CausesKept at *
  rw [← h, BitVec.getLsbD_and, Bool.and_eq_true] at hs
  exact hs.2

/-- Moves of a run take no cause back. -/
theorem pendingCause_kept {s t : State} (h : RunMoves s t) {c : Cause} (hs : pendingCause c s = true) :
    pendingCause c t = true := pendingCause_of_causes h.runFrame.causes hs

/-- Settles O20: what comes before the strobe keeps the run going and the spacing test as it was, and what comes after
leaves the strobe's numbers alone. -/
theorem strobeFallsDue : Obligations.StrobeFallsDue := by
  intro new elapsed m s hnew hcount hdraining hdue
  obtain ⟨hawake, hstate, hm, hat, hlimit⟩ := id hnew
  obtain ⟨order, cs, n, hperm, heq⟩ := highWaterAdvance_due (m := m) (s := advanced (observed new elapsed s)) hdue
  obtain ⟨xs, ys, rfl, hkinds⟩ := dueParts_split hperm
  rw [List.foldl_append, List.foldl_cons] at heq
  obtain ⟨u, hu⟩ : ∃ u : State, u = { strobeTaken m new elapsed s with choices := cs, choiceCount := n } := ⟨_, rfl⟩
  have hxs (p : AdvancePart) (hp : p ∈ xs) : p = .confirm ∨ p = .watch := hkinds p (List.mem_append_left _ hp)
  have hys (p : AdvancePart) (hp : p ∈ ys) : p = .confirm ∨ p = .watch := hkinds p (List.mem_append_right _ hp)
  have hulive : u.maps.live ≠ none := by
    have hmaps : u.maps = s.maps := by rw [hu]; rfl
    rw [hmaps, hm]
    exact Option.some_ne_none m
  have hudriven : Driven u := by
    rw [hu]
    exact ⟨hstate, hdraining⟩
  have hbefore := foldl_actPart_moves (m := m) hxs u
  have hdriven := foldl_actPart_keeps (n := m) hxs hulive hudriven
  have hlive := hbefore.live hulive
  have hstrobe := hbefore.strobe
  have hclock := hbefore.clock
  have hencoder := hbefore.encoder
  have hskipped := hbefore.skippedStrobes
  have hstep := exec_newGround hnew hcount elapsed
  rw [heq, show ({ strobeDue m (advanced (observed new elapsed s)) with choices := cs, choiceCount := n } : State) = u from
    hu.symm] at hstep
  generalize xs.foldl (fun t p => actPart m p t) u = v at hbefore hdriven hlive hstrobe hclock hencoder hskipped hstep
  have hspacing : spacingPasses m v = true ↔ SpacingPasses m s (s.clock + elapsed) := by
    rw [spacingPasses_iff, SpacingPasses, SpacingPasses, hstrobe, hclock, hu]
    rfl
  have hafter (w : State) := foldl_actPart_moves (m := m) hys w
  have hpath := issueOrSkip_path m s.strobe.nextStrobe.toNat hlive
  change exec _ s =
    .next (ys.foldl (fun t p => actPart m p t) (issueOrSkip m s.strobe.nextStrobe.toNat v)) at hstep
  refine ⟨_, hstep, ?encoder, fun hpass => ?issued, fun hfail => ?skipped⟩
  case encoder =>
    rw [(hafter _).encoder]
    rcases hpath with ⟨ha, -⟩ | ⟨-, -, h⟩ | ⟨-, -, h⟩
    · exact absurd ha hdriven.1
    · rw [h.encoder, issued, hencoder, hu]
      rfl
    · rw [h.encoder, bump_encoder, hencoder, hu]
      rfl
  case issued =>
    rcases hpath with ⟨ha, -⟩ | ⟨-, -, h⟩ | ⟨-, hno, -⟩
    · exact absurd ha hdriven.1
    · rw [(hafter _).strobe, h.strobe, (hafter _).skippedStrobes, h.skippedStrobes]
      refine ⟨?_, hskipped.trans (by rw [hu]; rfl)⟩
      rw [issued, hstrobe, hclock, hu]
      rfl
    · rw [hspacing.2 hpass] at hno
      cases hno
  case skipped =>
    rcases hpath with ⟨ha, -⟩ | ⟨-, hyes, -⟩ | ⟨-, -, h⟩
    · exact absurd ha hdriven.1
    · exact absurd (hspacing.1 hyes) hfail
    · rw [(hafter _).strobe, h.strobe, (hafter _).skippedStrobes, h.skippedStrobes]
      refine ⟨?_, ?_, ?_⟩
      · rw [bump_strobe, hstrobe, hu]
        rfl
      · exact congrArg satInc (hskipped.trans (by rw [hu]; rfl))
      · have hrows := issueOrSkip_skipped (k := s.strobe.nextStrobe.toNat) hdriven.1
          fun h => hfail (hspacing.1 ((spacingPasses_iff m v).2 h))
        have hrunning : Running (skippedAt v) := ⟨hlive, .inl hdriven.1⟩
        have hmoves := (skipRows_moves hrunning m s.strobe.nextStrobe.toNat).run.trans (closeTests_moves _)
        rw [hrows]
        refine pendingCause_kept (hmoves.trans (hafter _)) ?_
        exact pendingCause_raise .overspeed (bump .skippedStrobes v)

/-! ### What a decision leaves (R41, R83, R84) -/

/-- The entries with the newest ended at a row with a kind, unless it has an end (R83). -/
def endedWith (k : Kind) (b : Nat) (es : List Entry) : List Entry := es.dropLast ++ (es.getLast?.map (endEntry b k)).toList

theorem endedWith_length (k : Kind) (b : Nat) (es : List Entry) : (endedWith k b es).length = es.length := by
  rcases List.eq_nil_or_concat es with rfl | ⟨init, e, rfl⟩
  · rfl
  · simp [endedWith]

theorem endNewest_eq {s : State} (hkeys : (s.table.entries.map Entry.key).Nodup) (b : Nat) (k : Kind) :
    endNewest b k s = { s with table := { s.table with entries := endedWith k b s.table.entries } } := by
  rcases List.eq_nil_or_concat s.table.entries with hnil | ⟨init, e, hsplit⟩
  · have hsame : endedWith k b s.table.entries = s.table.entries := by rw [hnil]; rfl
    have hnone : newestEntry s = none := by rw [newestEntry, hnil]; rfl
    rw [hsame, endNewest, hnone]
  · rw [List.concat_eq_append] at hsplit
    have hended : endedWith k b s.table.entries = init ++ [endEntry b k e] := by simp [endedWith, hsplit]
    have hlast : newestEntry s = some e := by rw [newestEntry, hsplit, List.getLast?_concat]
    have hothers : ∀ x ∈ init, x.key ≠ e.key := by
      intro x hx hk
      rw [hsplit, List.map_append, List.nodup_append] at hkeys
      exact hkeys.2.2 x.key (List.mem_map_of_mem hx) e.key (by simp) hk
    have hmap : s.table.entries.map (fun x => if x.key = e.key then endEntry b k x else x) = init ++ [endEntry b k e] := by
      rw [hsplit, List.map_append, List.map_singleton, if_pos rfl]
      refine congrArg (· ++ _) ((List.map_congr_left fun x hx => if_neg (hothers x hx)).trans (List.map_id' _))
    rw [hended, endNewest, hlast]
    exact congrArg (fun es => { s with table := { s.table with entries := es } }) hmap

theorem decided_eq {s : State} (hkeys : (s.table.entries.map Entry.key).Nodup) (b : Nat) (k : Kind) (n : SteeringMap) :
    decided b k n s =
      { setWindow n b s with
        maps := { live := some n, staged := none }
        acq := acqAfterDecision s.acq
        table := { s.table with entries := endedWith k b s.table.entries } } :=
  endNewest_eq (s := { setWindow n b { s with maps := { live := some n, staged := none } } with
    acq := acqAfterDecision s.acq }) hkeys b k

theorem openRepeat_room {s : State} (h : s.table.entries.length < 4) (row : Nat) (k : Kind) (m : SteeringMap) :
    openRepeat row k m s =
      { s with table :=
          { s.table with
            nextKey := s.table.nextKey + 1
            entries := s.table.entries ++ [newEntry s.table.nextKey row k s.table.nextSeq m]
            nextSeq := s.table.nextSeq + 1 } } :=
  if_pos h

theorem openRepeat_full {s : State} (h : 4 ≤ s.table.entries.length) (row : Nat) (k : Kind) (m : SteeringMap) :
    openRepeat row k m s = countDrop { s with table := { s.table with nextSeq := s.table.nextSeq + 1 } } :=
  if_neg (Nat.not_lt.2 h)

theorem newEntry_placement (key row : Nat) (k : Kind) (seq : BitVec 32) (m : SteeringMap) (l : Lane) :
    (newEntry key row k seq m).placement.get l = lanePlacement m l := by
  unfold newEntry placementSet
  rw [Lanes.get_map]
  rfl

theorem causeSet_repeatDropped : causeSet .repeatDropped = 2 := by decide

/-- What a mark's decision leaves of everything but the tracker and the maps. -/
theorem markDecided {s : State} {m n : SteeringMap} (hm : s.maps.live = some m) (hn : n = s.maps.staged.getD m)
    (h : Driven s) (hkeys : (s.table.entries.map Entry.key).Nodup) (b : Nat) (hmode : n.mode = .track) :
    ∃ t, decideBoundary b .mark s = t ∧
      t.tracker =
        { s.tracker with
          expected := some (b + n.N)
          halfWidth := some n.W
          decisionPoint := some (b + n.N + n.W + n.h + 1 - n.M) } ∧
      t.maps = { live := some n, staged := none } ∧ t.acq = acqAfterDecision s.acq ∧
      t.list = s.list ∧ t.encoder = s.encoder ∧ t.strobe = s.strobe ∧ t.ring = s.ring ∧
      (opensRepeat s.acq → s.table.entries.length < 4 →
        t.table =
            { s.table with
              nextKey := s.table.nextKey + 1
              entries := endedAt b s.table.entries ++ [newEntry s.table.nextKey b .mark s.table.nextSeq n]
              nextSeq := s.table.nextSeq + 1 } ∧
          t.counters = s.counters ∧ t.attention = s.attention) ∧
      (opensRepeat s.acq → 4 ≤ s.table.entries.length →
        t.table =
            { s.table with
              entries := endedAt b s.table.entries
              nextSeq := s.table.nextSeq + 1
              droppedBefore := satInc s.table.droppedBefore } ∧
          t.counters = { s.counters with droppedRepeats := satInc s.counters.droppedRepeats } ∧
          t.attention = { s.attention with causes := s.attention.causes ||| 2 }) ∧
      (¬opensRepeat s.acq →
        t.table = { s.table with entries := endedAt b s.table.entries } ∧
          t.counters = s.counters ∧ t.attention = s.attention) := by
  have hwindow : (setWindow n b s).tracker =
      { s.tracker with
        expected := some (b + n.N)
        halfWidth := some n.W
        decisionPoint := some (b + n.N + n.W + n.h + 1 - n.M) } := by
    rw [setWindow, hmode]
  have hlength : (endedWith .mark b s.table.entries).length = s.table.entries.length := endedWith_length ..
  have hopens := (openingRule_eq s.acq).1
  refine ⟨_, decideBoundary_driven hm h b .mark, ?_⟩
  rw [← hn, decided_eq hkeys]
  by_cases ho : opensRepeat s.acq
  · rw [if_pos (hopens.2 ho)]
    by_cases hroom : s.table.entries.length < 4
    · rw [openRepeat_room (hlength.trans_lt hroom)]
      exact ⟨hwindow, rfl, rfl, rfl, rfl, rfl, rfl, fun _ _ => ⟨rfl, rfl, rfl⟩, fun _ hfull => absurd hroom (Nat.not_lt.2 hfull),
        fun hno => absurd ho hno⟩
    · rw [openRepeat_full (hlength.symm ▸ Nat.not_lt.1 hroom)]
      refine ⟨hwindow, rfl, rfl, rfl, rfl, rfl, rfl, fun _ h => absurd h hroom, fun _ _ => ⟨rfl, rfl, ?_⟩,
        fun hno => absurd ho hno⟩
      rw [countDrop, raise, causeSet_repeatDropped]
      rfl
  · rw [if_neg (mt hopens.1 ho)]
    exact ⟨hwindow, rfl, rfl, rfl, rfl, rfl, rfl, fun h => absurd h ho, fun h => absurd h ho, fun _ => ⟨rfl, rfl, rfl⟩⟩

/-! ### The judging of a mark (R36, R39, R42) -/

theorem inWindow_iff (t : Tracker) (b : Nat) : inWindow t b = true ↔ InWindow t b := by
  unfold inWindow InWindow
  split
  next e w he hw => simp [he, hw]
  next hno =>
    refine ⟨fun h => Bool.noConfusion h, ?_⟩
    rintro ⟨e, w, he, hw, -⟩
    exact absurd hw (hno e w he)

section
variable {s : State} {m n : SteeringMap} (hm : s.maps.live = some m) (hn : n = s.maps.staged.getD m) (h : Driven s)
  (hkeys : (s.table.entries.map Entry.key).Nodup) (hmode : n.mode = .track)
include hm hn h hkeys hmode

/-- A mark that is accepted decides its boundary in the tracker it leaves locked. -/
theorem markJudged_accepted {tr : Tracker} {b : Nat} (hlocked : tr.state = .locked) (hcoast : tr.coast = 0)
    (hlevel : tr.markLevel = s.tracker.markLevel) (hqualification : tr.qualification = none)
    (hstart : tr.searchStart = if s.tracker.state = .search then none else s.tracker.searchStart)
    (hfault : tr.searchFault = if s.tracker.state = .search then false else s.tracker.searchFault)
    (hin : s.tracker.state = .locked ∨ s.tracker.state = .coasting → InWindow s.tracker b) :
    MarkJudged n b s (decideBoundary b .mark { s with tracker := tr }) := by
  obtain ⟨t, ht, htracker, hmaps, hacq, hlist, hencoder, hstrobe, hring, hroom, hfull, hnone⟩ :=
    markDecided (s := { s with tracker := tr }) hm hn h hkeys b hmode
  rw [ht]
  refine ⟨fun _ => ⟨?_, hmaps, hacq, hlist, hencoder, hstrobe, hring, fun hopens hlen => ?_, hfull, hnone⟩,
    fun hstate hout => absurd (hin hstate) hout⟩
  · rw [htracker, ← hlocked, ← hcoast, ← hlevel, ← hqualification, ← hstart, ← hfault]
  · obtain ⟨htable, hcounters, hattention⟩ := hroom hopens hlen
    refine ⟨newEntry s.table.nextKey b .mark s.table.nextSeq n, ?_, rfl, rfl, rfl, rfl, rfl, rfl, rfl, rfl,
      newEntry_placement _ _ _ _ _, fun l => Lanes.get_every _ l, ?_, ?_, hcounters, hattention⟩ <;> rw [htable]

theorem judgeMark_judged (hqualification : s.tracker.qualification = none) (b : Nat) : MarkJudged n b s (judgeMark b s) := by
  have hwindow (hstate : s.tracker.state = .locked ∨ s.tracker.state = .coasting) :
      MarkJudged n b s (if inWindow s.tracker b then decideBoundary b .mark (relock s) else bump .strayMarks s) := by
    have hnot : s.tracker.state ≠ .search := by rcases hstate with h | h <;> simp [h]
    split_ifs with hin
    · exact markJudged_accepted hm hn h hkeys hmode rfl rfl rfl hqualification (if_neg hnot).symm (if_neg hnot).symm
        fun _ => (inWindow_iff _ _).1 hin
    · exact ⟨fun hjudged => absurd ((inWindow_iff _ _).2 (hjudged.resolve_left hnot).2) hin, fun _ _ => rfl⟩
  unfold judgeMark
  split
  next hidle =>
    constructor <;> simp [hidle]
  next hsearch =>
    exact markJudged_accepted hm hn h hkeys hmode rfl rfl rfl hqualification (if_pos hsearch).symm (if_pos hsearch).symm
      fun hstate => by simp [hsearch] at hstate
  next hlocked => exact hwindow (.inl hlocked)
  next hcoasting => exact hwindow (.inr hcoasting)

end

/-- A qualification that ends with the input asserted is judged. -/
theorem endQualification_confirms {m : SteeringMap} {s : State} {q : Qualification} {level : Bool}
    (hq : s.tracker.qualification = some q) (hlevel : s.tracker.markLevel = some level)
    (h : level = true ↔ m.activeLow = false) : endQualification m s = judgeMark (q.edge + m.M) (dropQualification s) := by
  have hasserted : assertedLevel m level = true := by cases level <;> simp_all [assertedLevel]
  rw [endQualification, hq]
  dsimp only
  rw [show (dropQualification s).tracker.markLevel = some level from hlevel, Option.any_some, if_pos hasserted]

/-- Settles O27: at its edge or at its confirm point a mark is judged in the state whose qualification has ended. -/
theorem markIsJudged : Obligations.MarkIsJudged := by
  intro m n s hawake hm hn hmode hmodeM hstate hdraining hat hkeys
  refine ⟨fun level hold hassert hh hq htracker => ?edge, fun new elapsed q level hnew hcount hbelow hq hconfirm hlevel hassert =>
    ?confirm⟩
  case edge =>
    have hedge : exec (.markEdge level) s =
        .next (judgeMark (s.strobe.nextStrobe.toNat + m.M) { s with tracker := { s.tracker with markLevel := some level } }) := by
      rw [exec_markEdge hawake, observeMark_edge hm hold hassert, actOnEdge,
        if_pos ⟨htracker, hmodeM, (atHighWater_iff _).2 ⟨hstate, hat⟩⟩]
      simp only [acceptEdge, hq, if_pos hh]
      rw [endQualification_confirms (q := { edge := s.strobe.nextStrobe.toNat, confirm := s.encoder.highWater.toNat + m.h })
        rfl rfl hassert]
      refine congrArg (fun x => Host.Outcome.next (judgeMark (s.strobe.nextStrobe.toNat + m.M) x)) ?_
      rw [dropQualification, ← hq]
    exact ⟨_, hedge, judgeMark_judged (s := { s with tracker := { s.tracker with markLevel := some level } }) hm hn
      ⟨hstate, hdraining⟩ hkeys hmode hq _⟩
  case confirm =>
    obtain ⟨u, hu⟩ : ∃ u, u = ({ advanced (observed new elapsed s) with
      strobe := { (observed new elapsed s).strobe with phase := s.strobe.phase + 65536 } } : State) := ⟨_, rfl⟩
    have hstep : exec (.encoderTransition new elapsed) s = .next (actPart m .confirm u) := by
      rw [exec_newGround hnew hcount, highWaterAdvance_below (s := advanced (observed new elapsed s)) hbelow, hu]
      rfl
    have hdue : confirmDue u = true := by
      rw [confirmDue_iff, hu]
      exact ⟨q, hq, hconfirm.trans (highWater_succ hnew).symm⟩
    have hlive : u.maps.live = some m := by rw [hu]; exact hm
    have hjudged : actPart m .confirm u = judgeMark (q.edge + m.M) (dropQualification u) := by
      rw [actPart, if_pos hdue, hlive, Option.getD_some, endQualification_confirms (q := q) (level := level) _ _ hassert]
      · rw [hu]; exact hq
      · rw [hu]; exact hlevel
    rw [hjudged] at hstep
    refine ⟨_, hstep, ?_⟩
    have hmark := judgeMark_judged (s := dropQualification u) (m := m) (n := n) hlive (by rw [hu]; exact hn)
      (by rw [hu]; exact ⟨hstate, hdraining⟩) (by rw [hu]; exact hkeys) hmode rfl (q.edge + m.M)
    rw [hu] at hmark ⊢
    exact hmark

end Sys2Proof.DecisionProofs
end

section
/-! SUPPORT and PROOFS. A strobe and what the next-strobe number sets off at the same advance, in either order: O28. -/

namespace Sys2Proof.DecisionProofs

open Sys2Proof Sys2Proof.Machine Sys2Proof.AcquisitionProofs Sys2Proof.RunProofs Sys2Proof.PathProofs Sys2Proof.WebProofs
  Sys2Proof.WorkProofs

/-! ### What a strobe leaves of the table -/

/-- The keys of the entries. -/
def keysOf (s : State) : List Nat := s.table.entries.map Entry.key

/-- Between s and t at most a strobe came about: the tracker, the maps and the acquisition state stand, entries leave
the table with all their rows retired only, and each lane of an entry retires at most j rows. -/
structure Kept (j : Nat) (s t : State) : Prop where
  tracker : t.tracker = s.tracker
  maps : t.maps = s.maps
  acq : t.acq = s.acq
  nextStrobe : t.strobe.nextStrobe = s.strobe.nextStrobe
  nextSeq : t.table.nextSeq = s.table.nextSeq
  nextKey : t.table.nextKey = s.table.nextKey
  rejected : t.counters.rejectedMarks = s.counters.rejectedMarks
  causes : CausesKept s t
  keys : (keysOf t).Sublist (keysOf s)
  found : ∀ k e', findEntry t k = some e' →
    ∃ e, findEntry s k = some e ∧ WorkProofs.core e' = WorkProofs.core e ∧
      ∀ l, (e'.counts.get l).retired.toNat ≤ (e.counts.get l).retired.toNat + j
  stays : ∀ k e, findEntry s k = some e →
    (e.endRow = none ∨ ∃ n l, s.maps.live = some n ∧ (n.lanes.get l).isSome ∧
      (e.counts.get l).retired.toNat + j < rowCount e) →
    (findEntry t k).isSome

theorem Kept.refl (s : State) : Kept 0 s s :=
  ⟨rfl, rfl, rfl, rfl, rfl, rfl, rfl, .refl s, List.Sublist.refl _, fun _ e he => ⟨e, he, rfl, fun _ => Nat.le_refl _⟩,
    fun _ _ he _ => by rw [he]; rfl⟩

/-! ### Retirements of a strobe -/

/-- Counts by which a lane retires at most two rows. -/
def AtMostTwo (ch : Counting) : Prop := ∀ k l c, (ch k l c).retired.toNat ≤ c.retired.toNat + 2

theorem retired_succ_le (c : BitVec 32) : (c + 1).toNat ≤ c.toNat + 1 := by
  have h : (1 : BitVec 32).toNat = 1 := rfl
  rw [BitVec.toNat_add, h]
  exact Nat.mod_le _ _

theorem givesUp_retired (m : SteeringMap) (s : State) (short : Bool) (l : Lane) (r : SlotRecord) (k : Nat) (l' : Lane)
    (c : LaneCounts) : (givesUp m s short l r k l' c).retired.toNat ≤ c.retired.toNat + 1 := by
  unfold givesUp lineCounting
  split_ifs
  · exact retired_succ_le c.retired
  · exact Nat.le_succ _

theorem bindCounting_retired (m : SteeringMap) (s : State) (slot k : Nat) (l : Lane) : AtMostTwo (bindCounting m s slot k l) := by
  intro key l' c
  unfold bindCounting
  cases m.lanes.get l with
  | none => exact Nat.le_add_right _ _
  | some lm =>
    have hfirst (r : SlotRecord) (c : LaneCounts) (p : Prop) [Decidable p] :
        ((if p then givesUp m s true l r else noCounting) key l' c).retired.toNat ≤ c.retired.toNat + 1 := by
      split_ifs
      · exact givesUp_retired m s true l r key l' c
      · exact Nat.le_succ _
    have hsecond (r : SlotRecord) (c : LaneCounts) (p : Prop) [Decidable p] :
        ((if p then givesUp m s false l r else noCounting) key l' c).retired.toNat ≤ c.retired.toNat + 1 := by
      split_ifs
      · exact givesUp_retired m s false l r key l' c
      · exact Nat.le_succ _
    exact (hsecond _ _ _).trans (Nat.succ_le_succ (hfirst _ _ _))

theorem skipsCounting_retired (m : SteeringMap) (s : State) (k : Nat) (l : Lane) : AtMostTwo (skipsCounting m s k l) := by
  intro key l' c
  unfold skipsCounting
  cases skippedEntry m k s l with
  | none => exact Nat.le_add_right _ _
  | some e =>
    dsimp only [Option.elim, countingOf]
    split_ifs
    · exact (retired_succ_le c.retired).trans (Nat.le_succ _)
    · exact Nat.le_add_right _ _

theorem each_retired {ch : Lane → Counting} (hown : ∀ x k l c, l ≠ x → ch x k l c = c) (htwo : ∀ l, AtMostTwo (ch l))
    {order : List Lane} (hnodup : order.Nodup) : AtMostTwo (.each ch order) := by
  intro k l c
  rw [each_own hown hnodup]
  split_ifs
  · exact htwo l k l c
  · exact Nat.le_add_right _ _

/-- The strobe of an armed bridge is work by which each lane retires at most two rows, and the tests of the entries. -/
theorem issueOrSkip_work (m : SteeringMap) (k : Nat) {s : State} (ha : s.acq.state ≠ .disarmed) :
    ∃ u v ch os fills, Work ch os fills u v ∧ AtMostTwo ch ∧ issueOrSkip m k s = closeTests v ∧
      u = { s with strobe := u.strobe, attention := u.attention, counters := u.counters } ∧
      u.strobe.nextStrobe = s.strobe.nextStrobe ∧ u.counters.rejectedMarks = s.counters.rejectedMarks := by
  by_cases hspacing : SpacingPasses m s s.clock
  · obtain ⟨order, hperm, hwork⟩ := work_bindStrobe m s.strobe.issueIndex k (issued s)
    exact ⟨issued s, _, _, _, _, hwork,
      each_retired (bindCounting_own m _ _ k) (bindCounting_retired m _ _ k) (hperm.nodup_iff.2 (boundLanes_nodup _)),
      issueOrSkip_issued ha hspacing, rfl, rfl, rfl⟩
  · obtain ⟨order, hperm, hwork⟩ := work_skipRows m k (skippedAt s)
    exact ⟨skippedAt s, _, _, _, _, hwork,
      each_retired (skipsCounting_own m _ k) (skipsCounting_retired m _ k) (hperm.nodup_iff.2 allLanes_nodup),
      issueOrSkip_skipped ha hspacing, rfl, rfl, rfl⟩

/-! ### Entries that the tests leave (R93) -/

theorem endMove_retired {s t : State} (h : EndMove s t) :
    ∃ e m, findEntry s e.key = some e ∧ s.maps.live = some m ∧ allRetired m e = true ∧
      t.table.entries = s.table.entries.filter fun x => decide (x.key ≠ e.key) := by
  cases h with
  | close hf hm hr _ =>
    refine ⟨_, _, hf, hm, hr, ?_⟩
    rw [closeEntry, reportEmpty_table, removeEntry_entries, queueRecord_eq]
    rfl
  | free hf hm hr _ =>
    refine ⟨_, _, hf, hm, hr, ?_⟩
    rw [freeEntry, reportEmpty_table, removeEntry_entries, removeJobs_table]

theorem find_filter_other {es : List Entry} {k j : Nat} (h : k ≠ j) :
    (es.filter fun x => decide (x.key ≠ j)).find? (fun x => decide (x.key = k)) = es.find? fun x => decide (x.key = k) := by
  rw [List.find?_filter]
  refine congrArg (fun p => es.find? p) (funext fun x => ?_)
  by_cases hx : x.key = k
  · have hxj : x.key ≠ j := fun hj => h (hx.symm.trans hj)
    rw [decide_eq_true hx, decide_eq_true hxj, decide_eq_true ⟨rfl, rfl⟩]
  · rw [decide_eq_false hx]
    exact decide_eq_false fun h => Bool.false_ne_true h.2

/-- An entry that has rows to retire stays in the table. -/
theorem endMoves_unretired {s t : State} (h : EndMoves s t) (hd : s.acq.state ≠ .draining) {m : SteeringMap}
    (hm : s.maps.live = some m) {k : Nat} {e : Entry} (hs : findEntry s k = some e) (hr : allRetired m e = false) :
    findEntry t k = some e := by
  induction h with
  | refl => exact hs
  | @tail u v hmoves hlast ih =>
    obtain ⟨x, n, hx, hn, hxr, hentries⟩ := endMove_retired hlast
    have hkey : k ≠ x.key := by
      rintro rfl
      rw [hx] at ih
      rw [endMoves_frame hmoves hd] at hn
      rw [Option.some.inj ih, Option.some.inj (hn.symm.trans hm), hr] at hxr
      cases hxr
    rw [findEntry, hentries, find_filter_other hkey]
    exact ih

theorem endMove_numbers {s t : State} (h : EndMove s t) :
    t.table.nextSeq = s.table.nextSeq ∧ t.table.nextKey = s.table.nextKey := by
  cases h with
  | close _ _ _ _ =>
    rw [closeEntry, reportEmpty_table, removeEntry, queueRecord_eq]
    exact ⟨rfl, rfl⟩
  | free _ _ _ _ =>
    rw [freeEntry, reportEmpty_table, removeEntry, removeJobs_eq]
    exact ⟨rfl, rfl⟩

theorem endMoves_numbers {s t : State} (h : EndMoves s t) :
    t.table.nextSeq = s.table.nextSeq ∧ t.table.nextKey = s.table.nextKey := by
  induction h with
  | refl => exact ⟨rfl, rfl⟩
  | tail _ hlast ih =>
    obtain ⟨hseq, hkey⟩ := endMove_numbers hlast
    exact ⟨hseq.trans ih.1, hkey.trans ih.2⟩

theorem work_keys {ch : Counting} {os : Nat → Nat} {fills : List Job} {s t : State} (h : Work ch os fills s t) :
    keysOf t = keysOf s := by
  have hcore (u : State) : keysOf u = (cores u).map Entry.key := by
    rw [keysOf, cores, List.map_map]
    rfl
  rw [hcore, hcore, h.cores]

/-- What a strobe of a bridge that is armed and does not drain leaves. -/
theorem issueOrSkip_kept (m : SteeringMap) (k : Nat) {s : State} (ha : s.acq.state ≠ .disarmed) (hd : s.acq.state ≠ .draining)
    (hlive : s.maps.live ≠ none) : Kept 2 s (issueOrSkip m k s) := by
  obtain ⟨u, v, ch, os, fills, hwork, htwo, heq, hu, hnext, hrejected⟩ := issueOrSkip_work m k ha
  have hends := closeTests_ends v
  have hvd : v.acq.state ≠ .draining := by rw [hwork.frame, hu]; exact hd
  have hframe := endMoves_frame hends hvd
  have hnumbers := endMoves_numbers hends
  have hline := hwork.frame
  have htable : u.table = s.table := by rw [hu]
  have hfind (k : Nat) : findEntry u k = findEntry s k := by rw [findEntry, htable]; rfl
  have hcauses : CausesKept s (issueOrSkip m k s) := by
    rcases issueOrSkip_path m k hlive with ⟨h, -⟩ | ⟨-, -, h⟩ | ⟨-, -, h⟩
    · exact absurd h ha
    · exact h.runFrame.causes
    · exact h.runFrame.causes
  rw [heq] at hcauses ⊢
  refine ⟨by rw [hframe, hline, hu], by rw [hframe, hline, hu], by rw [hframe, hline, hu], ?_, ?_, ?_, ?_, hcauses, ?_, ?_, ?_⟩
  · rw [hframe, hline]
    exact hnext
  · rw [hnumbers.1, hline, hu]
  · rw [hnumbers.2, hline, hu]
  · rw [hframe, hline]
    exact hrejected
  · have hkeys : keysOf v = keysOf s := by rw [work_keys hwork, keysOf, htable]; rfl
    rw [← hkeys]
    exact (endMoves_sublist hends).map Entry.key
  · intro k e' he'
    have hv := endMoves_found hends he'
    have hrel := hwork.found k
    rw [hv] at hrel
    cases hs : findEntry u k with
    | none =>
      rw [hs] at hrel
      cases hrel
    | some e =>
      have htally := hwork.entry hs hv
      exact ⟨e, (hfind k).symm.trans hs, htally.core, fun l => by rw [htally.counts]; exact htwo ..⟩
  · intro k e he hwhy
    obtain ⟨e', hv, htally⟩ := hwork.isSome ((hfind k).trans he)
    obtain ⟨-, -, hfirst, hend, -⟩ := core_eq htally.core
    rcases hwhy with hnone | ⟨n, l, hn, hl, hrows⟩
    · rw [endMoves_stays hends hv (hend.trans hnone)]
      rfl
    · have hcount : (e'.counts.get l).retired.toNat ≤ (e.counts.get l).retired.toNat + 2 := by
        rw [htally.counts]
        exact htwo ..
      have hrowCount : rowCount e' = rowCount e := by rw [rowCount, rowCount, hend, hfirst]
      have hunretired : allRetired n e' = false := by
        refine eq_false_of_ne_true fun hall => ?_
        rw [allRetired, Bool.and_eq_true, List.all_eq_true] at hall
        have hlane := hall.2 l (mem_allLanes l)
        rw [Bool.or_eq_true, decide_eq_true_eq, hrowCount] at hlane
        rcases hlane with hnone | heq
        · rw [Option.isNone_iff_eq_none] at hnone
          rw [hnone] at hl
          cases hl
        · omega
      have hvlive : v.maps.live = some n := by rw [hline, hu]; exact hn
      rw [endMoves_unretired hends hvd hvlive hv hunretired]
      rfl

/-! ### The newest entry (R83, R86) -/

theorem sublist_concat {init : List Nat} {k : Nat} {ks : List Nat} (h : ks.Sublist (init ++ [k])) (hk : k ∈ ks)
    (hnodup : (init ++ [k]).Nodup) : ∃ init', ks = init' ++ [k] := by
  obtain ⟨xs, ys, rfl, hxs, hys⟩ := List.sublist_append_iff.1 h
  have hnot : k ∉ xs := fun hx =>
    (List.nodup_append.1 hnodup).2.2 k (hxs.subset hx) k (List.mem_singleton.2 rfl) rfl
  rcases List.sublist_singleton.1 hys with rfl | rfl
  · rw [List.append_nil] at hk
    exact absurd hk hnot
  · exact ⟨xs, rfl⟩

theorem findEntry_last {s : State} (hkeys : (keysOf s).Nodup) {e : Entry} (h : s.table.entries.getLast? = some e) :
    findEntry s e.key = some e := findEntry_of_mem hkeys (List.mem_of_getLast? h)

/-- The newest entry of s is the newest of t, if it is still there. -/
theorem last_of_sublist {s t : State} (hsub : (keysOf t).Sublist (keysOf s)) (hkeys : (keysOf s).Nodup) {e e' : Entry}
    (hlast : s.table.entries.getLast? = some e) (he' : findEntry t e.key = some e') :
    t.table.entries.getLast? = some e' := by
  obtain ⟨init, hinit⟩ := List.getLast?_eq_some_iff.1 hlast
  have hsplit : keysOf s = init.map Entry.key ++ [e.key] := by rw [keysOf, hinit, List.map_append, List.map_singleton]
  have hkey : e'.key = e.key := findEntry_key he'
  have hmem : e.key ∈ keysOf t := hkey ▸ List.mem_map_of_mem (findEntry_mem he')
  rw [hsplit] at hsub hkeys
  obtain ⟨init', hinit'⟩ := sublist_concat hsub hmem hkeys
  have hnodup : (keysOf t).Nodup := hsub.nodup hkeys
  rcases List.eq_nil_or_concat t.table.entries with hnil | ⟨rest, x, hx⟩
  · rw [keysOf, hnil] at hmem
    cases hmem
  · rw [List.concat_eq_append] at hx
    have hxkey : x.key = e.key := by
      have h := hinit'
      rw [keysOf, hx, List.map_append, List.map_singleton] at h
      exact List.singleton_inj.1 (List.append_inj_right' h rfl)
    have hxlast : t.table.entries.getLast? = some x := by rw [hx, List.getLast?_concat]
    have hfound := findEntry_last hnodup hxlast
    rw [hxkey, he'] at hfound
    rw [hxlast, ← hfound]

theorem endedWith_keys (k : Kind) (b : Nat) (es : List Entry) : (endedWith k b es).map Entry.key = es.map Entry.key := by
  rcases List.eq_nil_or_concat es with rfl | ⟨init, e, rfl⟩
  · rfl
  · simp [endedWith, (bookkeeping_endEntry b k).key]

/-- Between a and d the newest entry was ended and at most one entry was created. -/
structure Ended (k : Kind) (b : Nat) (a d : State) : Prop where
  entries : ∃ extra, d.table.entries = endedWith k b a.table.entries ++ extra ∧ (∀ x ∈ extra, x.key = a.table.nextKey) ∧
    extra.length ≤ 1

section
variable {k : Kind} {b : Nat} {a d : State} (h : Ended k b a d)
include h

theorem ended_last (hapart : KeysApart a) {e : Entry} (hlast : a.table.entries.getLast? = some e) : findEntry d e.key = some (endEntry b k e) := by
  obtain ⟨extra, hentries, -, -⟩ := h.entries
  obtain ⟨init, hinit⟩ := List.getLast?_eq_some_iff.1 hlast
  have hended : endedWith k b a.table.entries = init ++ [endEntry b k e] := by simp [endedWith, hinit]
  have hkey : (endEntry b k e).key = e.key := (bookkeeping_endEntry b k).key e
  have hothers : ∀ x ∈ init ++ ([] : List Entry), x.key ≠ (endEntry b k e).key := by
    intro x hx hk
    rw [List.append_nil] at hx
    have hnodup := hapart.1
    rw [hinit, List.map_append, List.nodup_append] at hnodup
    exact hnodup.2.2 x.key (List.mem_map_of_mem hx) e.key (by simp) (hk.trans hkey)
  have hfind := find_at_key Entry.key (x := endEntry b k e) (bs := []) hothers
  rw [hkey] at hfind
  rw [findEntry, hentries, List.find?_append, hended, hfind]
  rfl

theorem ended_absent {key : Nat} (hnone : findEntry a key = none) (hkey : key < a.table.nextKey) : findEntry d key = none := by
  obtain ⟨extra, hentries, hextra, -⟩ := h.entries
  rw [findEntry, List.find?_eq_none]
  intro x hx hk
  rw [decide_eq_true_eq] at hk
  rw [hentries, List.mem_append] at hx
  rcases hx with hx | hx
  · have hmem : key ∈ a.table.entries.map Entry.key := by
      rw [← endedWith_keys k b, ← hk]
      exact List.mem_map_of_mem hx
    obtain ⟨y, hy, hyk⟩ := List.mem_map.1 hmem
    exact List.find?_eq_none.1 hnone y hy (decide_eq_true hyk)
  · exact absurd ((hextra x hx).symm.trans hk).symm (Nat.ne_of_lt hkey)

end

theorem kept_apart {j : Nat} {s t : State} (h : Kept j s t) (hapart : KeysApart s) : KeysApart t := by
  obtain ⟨hnodup, hbelow⟩ := hapart
  refine ⟨h.keys.nodup hnodup, fun e he => ?_⟩
  obtain ⟨x, hx, hk⟩ := List.mem_map.1 (h.keys.subset (List.mem_map_of_mem he))
  rw [h.nextKey, ← hk]
  exact hbelow x hx

theorem kind_endEntry (k : Kind) (b : Nat) {e x : Entry} (hend : x.endRow = e.endRow) (hkind : x.endKind = e.endKind) :
    ((endEntry b k x).endRow, (endEntry b k x).endKind) =
      if e.endRow = none then (some b, some (.decided k)) else (e.endRow, e.endKind) := by
  unfold endEntry
  rw [hend]
  split_ifs
  · rfl
  · rw [hend, hkind]

theorem core_endKind {e e' : Entry} (h : WorkProofs.core e' = WorkProofs.core e) : e'.endKind = e.endKind :=
  (congrArg Entry.endKind h :)

/-- A decision among a strobe's retirements ends the newest entry there was. -/
theorem newestEnded {k : Kind} {b i j : Nat} {n : SteeringMap} {s a d t : State} (hbefore : Kept i s a) (h : Ended k b a d)
    (hafter : Kept j d t) (hij : i + j = 2) (hapart : KeysApart s) (hlive : d.maps.live = some n) :
    NewestEnded k b n s t := by
  intro e hlast
  have hfound := findEntry_last hapart.1 hlast
  have hbelow : e.key < a.table.nextKey := by
    rw [hbefore.nextKey]
    exact hapart.2 e (List.mem_of_getLast? hlast)
  have hended {x : Entry} (hx : findEntry a e.key = some x) :
      findEntry d e.key = some (endEntry b k x) ∧ WorkProofs.core x = WorkProofs.core e ∧
        ∀ l, (x.counts.get l).retired.toNat ≤ (e.counts.get l).retired.toNat + i := by
    obtain ⟨y, hy, hcore, hrows⟩ := hbefore.found _ _ hx
    obtain rfl := Option.some.inj (hy.symm.trans hfound)
    have hxlast := ended_last h (kept_apart hbefore hapart) (last_of_sublist hbefore.keys hapart.1 hlast hx)
    rw [findEntry_key hx] at hxlast
    exact ⟨hxlast, hcore, hrows⟩
  constructor
  · intro e' he'
    obtain ⟨y, hy, hcore, -⟩ := hafter.found _ _ he'
    cases hx : findEntry a e.key with
    | none =>
      rw [ended_absent h hx hbelow] at hy
      cases hy
    | some x =>
      obtain ⟨hd, hxcore, -⟩ := hended hx
      obtain rfl := Option.some.inj (hy.symm.trans hd)
      obtain ⟨-, -, -, hend, -⟩ := core_eq hcore
      obtain ⟨-, -, -, hxend, -⟩ := core_eq hxcore
      rw [hend, core_endKind hcore]
      exact kind_endEntry k b hxend (core_endKind hxcore)
  · rintro hnone ⟨l, hl, hrows⟩
    obtain ⟨x, hx⟩ := Option.isSome_iff_exists.1 (hbefore.stays _ _ hfound (.inl hnone))
    obtain ⟨hd, hxcore, hxrows⟩ := hended hx
    obtain ⟨-, -, hfirst, hxend, -⟩ := core_eq hxcore
    refine hafter.stays _ _ hd (.inr ⟨n, l, hlive, hl, ?_⟩)
    have hxnone : x.endRow = none := hxend.trans hnone
    have hcounts : (endEntry b k x).counts = x.counts := by rw [endEntry, if_pos hxnone]
    have hrowCount : rowCount (endEntry b k x) = b - e.firstRow := by
      rw [endEntry, if_pos hxnone, rowCount]
      exact congrArg (b - ·) hfirst
    have hlane := hxrows l
    rw [hcounts, hrowCount]
    omega

/-! ### A decision and what it leaves of the table -/

theorem keysOf_ended {k : Kind} {b : Nat} {a d : State} {extra : List Entry}
    (h : d.table.entries = endedWith k b a.table.entries ++ extra) : keysOf d = keysOf a ++ extra.map Entry.key := by
  rw [keysOf, h, List.map_append, endedWith_keys]
  rfl

/-- A decision of an armed bridge that does not drain, in whatever tracker it is made. -/
structure Decision (k : Kind) (b : Nat) (n : SteeringMap) (tr : Tracker) (a d : State) : Prop where
  ended : Ended k b a d
  maps : d.maps = { live := some n, staged := none }
  acq : d.acq = acqAfterDecision a.acq
  tracker : d.tracker = (setWindow n b { a with tracker := tr }).tracker
  none : ¬opensRepeat a.acq → keysOf d = keysOf a ∧ d.table.nextSeq = a.table.nextSeq
  opens : opensRepeat a.acq →
    d.table.nextSeq = a.table.nextSeq + 1 ∧
      (a.table.entries.length < 4 →
        d.table.entries.getLast? = some (newEntry a.table.nextKey b k a.table.nextSeq n) ∧ (keysOf d).Nodup)

theorem openRepeat_frame (b : Nat) (k : Kind) (n : SteeringMap) (s : State) :
    (openRepeat b k n s).maps = s.maps ∧ (openRepeat b k n s).acq = s.acq ∧ (openRepeat b k n s).tracker = s.tracker := by
  rw [openRepeat_eq]
  exact ⟨rfl, rfl, rfl⟩

theorem decideBoundary_decision {a : State} {m : SteeringMap} (hm : a.maps.live = some m) (h : Driven a) (hapart : KeysApart a)
    (b : Nat) (k : Kind) (tr : Tracker) :
    Decision k b (a.maps.staged.getD m) tr a (decideBoundary b k { a with tracker := tr }) := by
  have hdecided := decided_eq (s := { a with tracker := tr }) hapart.1 b k (a.maps.staged.getD m)
  have hlength : (endedWith k b a.table.entries).length = a.table.entries.length := endedWith_length ..
  have hopens := (openingRule_eq a.acq).1
  rw [decideBoundary_driven (s := { a with tracker := tr }) hm h]
  by_cases ho : opensRepeat a.acq
  · rw [if_pos (hopens.2 ho), hdecided]
    obtain ⟨hmaps, hacq, htracker⟩ := openRepeat_frame b k (a.maps.staged.getD m)
      { setWindow (a.maps.staged.getD m) b { a with tracker := tr } with
        maps := { live := some (a.maps.staged.getD m), staged := none }
        acq := acqAfterDecision a.acq
        table := { a.table with entries := endedWith k b a.table.entries } }
    by_cases hroom : a.table.entries.length < 4
    · have hcreated := openRepeat_room (s := { setWindow (a.maps.staged.getD m) b { a with tracker := tr } with
        maps := { live := some (a.maps.staged.getD m), staged := none }
        acq := acqAfterDecision a.acq
        table := { a.table with entries := endedWith k b a.table.entries } }) (hlength.trans_lt hroom) b k
        (a.maps.staged.getD m)
      refine ⟨⟨[newEntry a.table.nextKey b k a.table.nextSeq (a.maps.staged.getD m)], ?_, ?_, Nat.le_refl 1⟩, hmaps, hacq,
        htracker, fun hno => absurd ho hno, fun _ => ⟨?_, fun _ => ⟨?_, ?_⟩⟩⟩
      · exact congrArg (fun s : State => s.table.entries) hcreated
      · exact fun x hx => by rw [List.mem_singleton.1 hx]; rfl
      · exact congrArg (fun s : State => s.table.nextSeq) hcreated
      · refine (congrArg (fun s : State => s.table.entries.getLast?) hcreated).trans ?_
        exact List.getLast?_concat
      · rw [keysOf_ended (congrArg (fun s : State => s.table.entries) hcreated), List.map_singleton, List.nodup_append]
        refine ⟨hapart.1, List.nodup_singleton _, fun x hx y hy => ?_⟩
        obtain ⟨e, he, rfl⟩ := List.mem_map.1 hx
        rw [List.mem_singleton.1 hy]
        exact Nat.ne_of_lt (hapart.2 e he)
    · have hdropped := openRepeat_full (s := { setWindow (a.maps.staged.getD m) b { a with tracker := tr } with
        maps := { live := some (a.maps.staged.getD m), staged := none }
        acq := acqAfterDecision a.acq
        table := { a.table with entries := endedWith k b a.table.entries } }) (hlength.symm ▸ Nat.not_lt.1 hroom) b k
        (a.maps.staged.getD m)
      refine ⟨⟨[], ?_, fun _ hx => absurd hx List.not_mem_nil, Nat.zero_le 1⟩, hmaps, hacq, htracker, fun hno => absurd ho hno,
        fun _ => ⟨?_, fun hlt => absurd hlt hroom⟩⟩
      · exact (congrArg (fun s : State => s.table.entries) hdropped).trans (List.append_nil _).symm
      · exact congrArg (fun s : State => s.table.nextSeq) hdropped
  · rw [if_neg (mt hopens.1 ho), hdecided]
    exact ⟨⟨[], (List.append_nil _).symm, fun _ hx => absurd hx List.not_mem_nil, Nat.zero_le 1⟩, rfl, rfl, rfl,
      fun _ => ⟨endedWith_keys .., rfl⟩, fun hopen => absurd hopen ho⟩

theorem kept_noneOpened {i j : Nat} {s a d t : State} (hbefore : Kept i s a) (hafter : Kept j d t)
    (hkeys : keysOf d = keysOf a) (hseq : d.table.nextSeq = a.table.nextSeq) : NoneOpened s t := by
  refine ⟨hafter.nextSeq.trans (hseq.trans hbefore.nextSeq), fun e' he' => ?_⟩
  have hmem : e'.key ∈ keysOf d := hafter.keys.subset (List.mem_map_of_mem he')
  rw [hkeys] at hmem
  obtain ⟨e, he, hk⟩ := List.mem_map.1 (hbefore.keys.subset hmem)
  exact ⟨e, he, hk⟩

/-- A decision beside a strobe, in either order. -/
theorem boundaryDecided {k : Kind} {b i j : Nat} {n : SteeringMap} {tr : Tracker} {s a d t : State} (hbefore : Kept i s a)
    (h : Decision k b n tr a d) (hafter : Kept j d t) (hij : i + j = 2) (hapart : KeysApart s) :
    BoundaryDecided k b n s t := by
  have hacq : a.acq = s.acq := hbefore.acq
  refine ⟨newestEnded hbefore h.ended hafter hij hapart (by rw [h.maps]), ?_, fun hno => ?_, fun hopens => ⟨?_, fun hroom => ?_⟩⟩
  · rw [hafter.acq, h.acq, hacq]
  · obtain ⟨hkeys, hseq⟩ := h.none (hacq ▸ hno)
    exact kept_noneOpened hbefore hafter hkeys hseq
  · rw [hafter.nextSeq, (h.opens (hacq ▸ hopens)).1, hbefore.nextSeq]
  · have hlength : a.table.entries.length ≤ s.table.entries.length := by
      have hle := hbefore.keys.length_le
      rwa [keysOf, keysOf, List.length_map, List.length_map] at hle
    obtain ⟨hlast, hnodup⟩ := (h.opens (hacq ▸ hopens)).2 (by omega)
    have hfound := findEntry_last hnodup hlast
    obtain ⟨e', he'⟩ := Option.isSome_iff_exists.1 (hafter.stays _ _ hfound (.inl rfl))
    obtain ⟨y, hy, hcore, -⟩ := hafter.found _ _ he'
    obtain rfl := Option.some.inj (hy.symm.trans hfound)
    refine ⟨e', last_of_sublist hafter.keys hnodup hlast he', (congrArg Entry.seq hcore :).trans hbefore.nextSeq,
      (congrArg Entry.state hcore :), (congrArg Entry.firstRow hcore :), (congrArg Entry.endRow hcore :),
      (congrArg Entry.startKind hcore :), (congrArg Entry.endKind hcore :), (congrArg Entry.generation hcore :), fun l => ?_⟩
    have hplacement : e'.placement = (newEntry a.table.nextKey b k a.table.nextSeq n).placement :=
      (congrArg Entry.placement hcore :)
    rw [hplacement, newEntry_placement]

/-! ### The parts of an advance with nothing to confirm -/

theorem decideBoundary_acq {s : State} {m : SteeringMap} (hm : s.maps.live = some m) (h : Driven s) (b : Nat) (k : Kind) :
    (decideBoundary b k s).acq = acqAfterDecision s.acq := by
  rw [decideBoundary_driven hm h]
  split_ifs
  · rw [(openRepeat_frame ..).2.1, decided_acq]
  · rw [decided_acq]

theorem acqAfterDecision_notDraining {a : Acquisition} (h : a.state ≠ .draining) : (acqAfterDecision a).state ≠ .draining := by
  simp only [acqAfterDecision]
  split_ifs <;> simp [h]

theorem lostDecision_eq {s : State} (h : Driven s) (e : Nat) :
    lostDecision e s =
      { endNewest e .flywheel s with
        attention := (raise .markFault s).attention
        counters := if s.tracker.qualification.isSome then bumpCounters .rejectedMarks s.counters else s.counters
        tracker :=
          { s.tracker with
            state := .search
            qualification := none
            expected := none
            halfWidth := none
            decisionPoint := none
            coast := 0
            searchStart := some s.strobe.nextStrobe.toNat
            searchFault := false } } := by
  obtain ⟨table, htable, hnil⟩ : ∃ table, endNewest e .flywheel s = { s with table := table } ∧
      (table.entries = [] → s.table.entries = []) := by
    refine ⟨(endNewest e .flywheel s).table, ?_, endNewest_entries_nil⟩
    unfold endNewest
    split <;> rfl
  have hdriven (t : State) (hacq : t.acq = s.acq) (ht : t.table = table) : reportEmpty t = t :=
    reportEmpty_driven (driven_of_same h (by rw [hacq]) (by rw [ht]; exact hnil))
  unfold lostDecision
  rw [htable]
  dsimp only
  cases hq : s.tracker.qualification with
  | none =>
    simp only [raise_tracker, hq, Option.isSome_none, Bool.false_eq_true, if_false]
    exact hdriven _ rfl rfl
  | some q =>
    simp only [raise_tracker, hq, Option.isSome_some, if_true]
    exact hdriven _ rfl rfl

theorem actOnWatch_notDraining {s : State} {m n : SteeringMap} (hm : s.maps.live = some m) (h : Driven s)
    (hd : s.acq.state ≠ .draining) : (actOnWatch n s).acq.state ≠ .draining := by
  unfold actOnWatch
  split
  · exact hd
  · exact hd
  · rw [flywheelDecision, decideBoundary_acq (s := { s with tracker := { s.tracker with state := .coasting, coast := s.tracker.coast + 1 } }) hm h]
    exact acqAfterDecision_notDraining hd
  · rw [lostDecision_eq h]
    rw [endNewest_acq]
    exact hd
  · rw [decideBoundary_acq hm h]
    exact acqAfterDecision_notDraining hd

/-- With nothing to confirm, what the next-strobe number sets off comes beside the strobe, before it or after it. -/
theorem exec_watched {new : PhasePair} {elapsed : Nat} {m : SteeringMap} {s : State} (hnew : AtNewGround s m)
    (hcount : CountOf s new true) (hd : s.acq.state ≠ .draining) (hdue : m.Q ≤ s.strobe.phase + 65536) (hconfirm : NoConfirm s)
    (hwatch : watchOf m (strobeTaken m new elapsed s) ≠ .nothing) :
    ∃ cs c a t i j, exec (.encoderTransition new elapsed) s = .next t ∧
      Kept i { strobeTaken m new elapsed s with choices := cs, choiceCount := c } a ∧ Kept j (actOnWatch m a) t ∧ i + j = 2 := by
  obtain ⟨-, hstate, hm, -, -⟩ := id hnew
  have hdue' := highWaterAdvance_due (m := m) (s := advanced (observed new elapsed s)) hdue
  obtain ⟨order, cs, c, hperm, heq⟩ := hdue'
  obtain ⟨u, hu⟩ : ∃ u : State, u = { strobeTaken m new elapsed s with choices := cs, choiceCount := c } := ⟨_, rfl⟩
  have hparts : dueParts m s.strobe.nextStrobe.toNat (strobeTaken m new elapsed s) =
      [.watch, .strobe s.strobe.nextStrobe.toNat] := by
    rw [dueParts, if_neg (ne_true_of_eq_false (confirmDue_strobeTaken hnew hconfirm)), if_neg hwatch]
  have hstep := exec_newGround hnew hcount elapsed
  rw [heq, show ({ strobeDue m (advanced (observed new elapsed s)) with choices := cs, choiceCount := c } : State) = u from
    hu.symm] at hstep
  have hulive : u.maps.live = some m := by rw [hu]; exact hm
  have hudriven : Driven u := by
    rw [hu]
    exact ⟨hstate, fun h => absurd h hd⟩
  have hud : u.acq.state ≠ .draining := by rw [hu]; exact hd
  have hnone : u.maps.live ≠ none := by rw [hulive]; exact Option.some_ne_none m
  rcases List.perm_pair.1 (hperm.trans (.of_eq hparts)) with horder | horder <;> rw [horder] at hstep
  · have hafter : RunMoves u (actOnWatch m u) := actOnWatch_moves m u
    have hkept := issueOrSkip_kept m s.strobe.nextStrobe.toNat (actOnWatch_keeps (n := m) hulive hudriven).1
      (actOnWatch_notDraining (n := m) hulive hudriven hud) (hafter.live hnone)
    have hacts : actPart m .watch u = actOnWatch m u := by rw [actPart, hulive, Option.getD_some]
    rw [List.foldl_cons, List.foldl_cons, List.foldl_nil, hacts] at hstep
    exact ⟨cs, c, u, _, 0, 2, hstep, hu ▸ .refl u, hkept, rfl⟩
  · have hkept := issueOrSkip_kept m s.strobe.nextStrobe.toNat hudriven.1 hud hnone
    have hacts : actPart m .watch (issueOrSkip m s.strobe.nextStrobe.toNat u) =
        actOnWatch m (issueOrSkip m s.strobe.nextStrobe.toNat u) := by
      rw [actPart, hkept.maps, hulive, Option.getD_some]
    have hstrobe : actPart m (.strobe s.strobe.nextStrobe.toNat) u = issueOrSkip m s.strobe.nextStrobe.toNat u := rfl
    rw [List.foldl_cons, List.foldl_cons, List.foldl_nil, hstrobe, hacts] at hstep
    exact ⟨cs, c, _, _, 2, 0, hstep, hu ▸ hkept, .refl _, rfl⟩

/-! ### The decisions of R40, R43, R44 and R46 -/

theorem watchOf_same {m : SteeringMap} {s t : State} (htracker : t.tracker = s.tracker)
    (hnext : t.strobe.nextStrobe = s.strobe.nextStrobe) : watchOf m t = watchOf m s := by
  rw [watchOf, watchOf, htracker, hnext]

section
variable {m : SteeringMap} {s : State}

theorem watchOf_decisionPoint {e f : Nat} (hmode : m.mode = .track)
    (hstate : s.tracker.state = .locked ∨ s.tracker.state = .coasting) (he : s.tracker.expected = some e)
    (hf : s.tracker.decisionPoint = some f) (hreached : f ≤ s.strobe.nextStrobe.toNat) :
    watchOf m s = if s.tracker.coast < 8 then .flywheel e else .lost e := by
  rcases hstate with hst | hst <;> 
    simp only [watchOf, hst, hmode, he, hf, if_pos hreached, Config.coastLimit] <;> rfl

theorem watchOf_fixed {e : Nat} (hmode : m.mode = .fixed) (hstate : s.tracker.state = .locked)
    (he : s.tracker.expected = some e) (hreached : s.strobe.nextStrobe.toNat = e - m.M) : watchOf m s = .fixed e := by
  simp only [watchOf, hstate, hmode, he, if_pos hreached]

theorem watchOf_searchFault {f : Nat} (hstate : s.tracker.state = .search) (hfault : s.tracker.searchFault = false)
    (hf : s.tracker.searchStart = some f) (hreached : s.strobe.nextStrobe.toNat = f + 4 * m.N) :
    watchOf m s = .searchFault := by
  have hdue : s.tracker.searchFault = false ∧
      s.tracker.searchStart.any (fun st => decide (s.strobe.nextStrobe.toNat = st + 4 * m.N)) = true := by
    rw [hf]
    exact ⟨hfault, decide_eq_true hreached⟩
  simp only [watchOf, hstate]
  exact if_pos hdue

end

theorem setWindow_tracker (n : SteeringMap) (b : Nat) (s : State) :
    (setWindow n b s).tracker =
      { s.tracker with
        expected := some (b + n.N)
        halfWidth := some n.W
        decisionPoint :=
          some (match n.mode with
            | .track => b + n.N + n.W + n.h + 1 - n.M
            | .fixed => b + n.N - n.M) } := rfl

theorem newestEnded_of_table {k : Kind} {b : Nat} {n : SteeringMap} {s u t : State} (h : u.table = s.table)
    (hended : NewestEnded k b n u t) : NewestEnded k b n s t := by
  rw [NewestEnded, ← h]
  exact hended

theorem noneOpened_of_table {s u t : State} (h : u.table = s.table) (hnone : NoneOpened u t) : NoneOpened s t := by
  rw [NoneOpened, ← h]
  exact hnone

theorem boundaryDecided_of_same {k : Kind} {b : Nat} {n : SteeringMap} {s u t : State} (h : u.table = s.table)
    (hacq : u.acq = s.acq) (hdecided : BoundaryDecided k b n u t) : BoundaryDecided k b n s t := by
  obtain ⟨hended, ht, hnone, hopens⟩ := hdecided
  rw [hacq] at ht hnone hopens
  rw [h] at hopens
  exact ⟨newestEnded_of_table h hended, ht, fun hno => noneOpened_of_table h (hnone hno), hopens⟩

theorem endNewest_kept (b : Nat) (k : Kind) (s : State) :
    (endNewest b k s).maps = s.maps ∧ (endNewest b k s).acq = s.acq ∧ (endNewest b k s).table.nextSeq = s.table.nextSeq := by
  refine ⟨?_, endNewest_acq b k s, ?_⟩ <;> unfold endNewest <;> split <;> rfl

/-- Settles O28: whatever the order, the part that the next-strobe number sets off finds what the strobe has kept, and
what it leaves is kept by the strobe. -/
theorem nextStrobeSetsOffDecisions : Obligations.NextStrobeSetsOffDecisions := by
  intro new elapsed m l s e f hnew hcount hd hdue hconfirm hl hmode hapart
  obtain ⟨-, hstate, hm, -, -⟩ := id hnew
  obtain ⟨t, hstep⟩ : ∃ t, exec (.encoderTransition new elapsed) s = .next t := ⟨_, exec_newGround hnew hcount elapsed⟩
  -- a decision that is set off is made in a state a, after a strobe or before one
  have hset (hwatch : watchOf m (strobeTaken m new elapsed s) ≠ .nothing) :
      ∃ u a i j, u.table = s.table ∧ u.acq = s.acq ∧ Kept i u a ∧ Kept j (actOnWatch m a) t ∧ i + j = 2 ∧
        a.tracker = s.tracker ∧ a.maps = s.maps ∧ a.acq = s.acq ∧ a.strobe.nextStrobe = s.strobe.nextStrobe + 1 ∧
        a.counters.rejectedMarks = s.counters.rejectedMarks ∧ Driven a ∧ KeysApart a ∧ KeysApart u := by
    obtain ⟨cs, c, a, t', i, j, hstep', hbefore, hafter, hij⟩ := exec_watched hnew hcount hd hdue hconfirm hwatch
    obtain rfl := Host.Outcome.next.inj (hstep.symm.trans hstep')
    have hacq : a.acq = s.acq := hbefore.acq
    exact ⟨{ strobeTaken m new elapsed s with choices := cs, choiceCount := c }, a, i, j, rfl, rfl, hbefore, hafter, hij, hbefore.tracker, hbefore.maps, hacq, hbefore.nextStrobe,
      hbefore.rejected, ⟨hacq ▸ hstate, fun h => absurd (hacq ▸ h) hd⟩, kept_apart hbefore hapart, hapart⟩
  refine ⟨t, hstep, fun htrack hlocked he hf hreached => ?track, fun hfixed hlocked he hreached => ?fixed,
    fun hsearch hfault hf hreached => ?search⟩
  case track =>
    have hwatch : watchOf m (strobeTaken m new elapsed s) = if s.tracker.coast < 8 then .flywheel e else .lost e :=
      watchOf_decisionPoint (s := strobeTaken m new elapsed s) htrack hlocked he hf hreached
    obtain ⟨u, a, i, j, hutable, huacq, hbefore, hafter, hij, htracker, hmaps, hacq, hnext, hrejected, hdriven, haapart, huapart⟩ :=
      hset (by rw [hwatch]; split_ifs <;> exact Watch.noConfusion)
    have hsame : watchOf m a = watchOf m (strobeTaken m new elapsed s) :=
      watchOf_same (t := a) (s := strobeTaken m new elapsed s) htracker hnext
    have hlive : a.maps.live = some m := by rw [hmaps]; exact hm
    have hn : a.maps.staged.getD m = l := by rw [hmaps, hl]
    refine ⟨fun hcoast => ?flywheel, fun hcoast => ?lost⟩
    case flywheel =>
      have hdecision := decideBoundary_decision hlive hdriven haapart e .flywheel
        { a.tracker with state := .coasting, coast := a.tracker.coast + 1 }
      have hacts : actOnWatch m a = decideBoundary e .flywheel
          { a with tracker := { a.tracker with state := .coasting, coast := a.tracker.coast + 1 } } := by
        rw [actOnWatch, hsame, hwatch, if_pos hcoast]
        rfl
      rw [hn] at hdecision
      rw [hacts] at hafter
      refine ⟨?_, hafter.maps.trans hdecision.maps,
        boundaryDecided_of_same hutable huacq (boundaryDecided hbefore hdecision hafter hij huapart)⟩
      rw [hafter.tracker, hdecision.tracker, setWindow_tracker, hmode, htrack, htracker]
    case lost =>
      have hacts : actOnWatch m a = lostDecision e a := by
        rw [actOnWatch, hsame, hwatch, if_neg (by omega)]
      obtain ⟨hkeptMaps, hkeptAcq, hseq⟩ := endNewest_kept e .flywheel a
      have hended : Ended .flywheel e a (lostDecision e a) := by
        refine ⟨[], ?_, fun _ hx => absurd hx List.not_mem_nil, Nat.zero_le 1⟩
        rw [lostDecision_eq hdriven, List.append_nil, endNewest_eq haapart.1]
      have hkeys : keysOf (lostDecision e a) = keysOf a := by
        rw [keysOf, lostDecision_eq hdriven, endNewest_eq haapart.1]
        exact endedWith_keys ..
      have hlostMaps : (lostDecision e a).maps = s.maps := by rw [lostDecision_eq hdriven]; exact hkeptMaps.trans hmaps
      rw [hacts] at hafter
      refine ⟨?_, hafter.maps.trans hlostMaps, ?_, ?_, ?_, ?_, ?_⟩
      · rw [hafter.tracker, lostDecision_eq hdriven, htracker, hnext]
      · rw [hafter.acq, lostDecision_eq hdriven]
        exact hkeptAcq.trans hacq
      · refine pendingCause_of_causes hafter.causes ?_
        rw [lostDecision_eq hdriven]
        exact pendingCause_raise .markFault a
      · exact newestEnded_of_table hutable (newestEnded hbefore hended hafter hij huapart (by rw [hlostMaps]; exact hm))
      · refine noneOpened_of_table hutable (kept_noneOpened hbefore hafter hkeys ?_)
        rw [lostDecision_eq hdriven]
        exact hseq
      · rw [hafter.rejected, lostDecision_eq hdriven, htracker, ← hrejected]
        split_ifs <;> rfl
  case fixed =>
    have hwatch : watchOf m (strobeTaken m new elapsed s) = .fixed e :=
      watchOf_fixed (s := strobeTaken m new elapsed s) hfixed hlocked he hreached
    obtain ⟨u, a, i, j, hutable, huacq, hbefore, hafter, hij, htracker, hmaps, hacq, hnext, hrejected, hdriven, haapart, huapart⟩ :=
      hset (by rw [hwatch]; exact Watch.noConfusion)
    have hsame : watchOf m a = watchOf m (strobeTaken m new elapsed s) :=
      watchOf_same (t := a) (s := strobeTaken m new elapsed s) htracker hnext
    have hlive : a.maps.live = some m := by rw [hmaps]; exact hm
    have hn : a.maps.staged.getD m = l := by rw [hmaps, hl]
    have hdecision := decideBoundary_decision hlive hdriven haapart e .fixed a.tracker
    have hacts : actOnWatch m a = decideBoundary e .fixed { a with tracker := a.tracker } := by
      rw [actOnWatch, hsame, hwatch]
    rw [hn] at hdecision
    rw [hacts] at hafter
    refine ⟨?_, hafter.maps.trans hdecision.maps,
      boundaryDecided_of_same hutable huacq (boundaryDecided hbefore hdecision hafter hij huapart)⟩
    rw [hafter.tracker, hdecision.tracker, setWindow_tracker, hmode, hfixed, htracker]
  case search =>
    have hwatch : watchOf m (strobeTaken m new elapsed s) = .searchFault :=
      watchOf_searchFault (s := strobeTaken m new elapsed s) hsearch hfault hf hreached
    obtain ⟨u, a, i, j, hutable, huacq, hbefore, hafter, hij, htracker, hmaps, hacq, hnext, hrejected, hdriven, haapart, huapart⟩ :=
      hset (by rw [hwatch]; exact Watch.noConfusion)
    have hsame : watchOf m a = watchOf m (strobeTaken m new elapsed s) :=
      watchOf_same (t := a) (s := strobeTaken m new elapsed s) htracker hnext
    have hacts : actOnWatch m a = searchFaultOccurs a := by rw [actOnWatch, hsame, hwatch]
    rw [hacts] at hafter
    refine ⟨?_, ?_, hafter.maps.trans hmaps, hafter.acq.trans hacq,
      noneOpened_of_table hutable (kept_noneOpened hbefore hafter rfl rfl)⟩
    · rw [hafter.tracker, ← htracker]
      rfl
    · exact pendingCause_of_causes hafter.causes
        (pendingCause_raise .markFault { a with tracker := { a.tracker with searchFault := true } })

end Sys2Proof.DecisionProofs
end

section
/-! SUPPORT and PROOFS. A piece of an OPEN line whose stamp is decided (R58 to R61, R73, R90): O10, O11 and O12. -/

namespace Sys2Proof.PieceProofs

open Sys2Proof Sys2Proof.Machine Sys2Proof.AcquisitionProofs Sys2Proof.RunProofs Sys2Proof.PathProofs Sys2Proof.GrantProofs
  Sys2Proof.WorkProofs

/-! ### The line after a piece -/

/-- A piece accounted against a line but for its stamp and the disposal of its new bytes. -/
def lined (m : SteeringMap) (l : Lane) (slot x n : Nat) (s : State) : State :=
  markRaised m l slot (markAfter m (slotRecord s l slot).fillMark x n) (gapAccounted m l slot x n s)

section
variable {m : SteeringMap} {l : Lane} {slot x : Nat} {s : State}

theorem markRaised_disposal {f : State → State}
    (hf : (∃ k, f = bump k) ∨ (∃ w, f = enterOutlet w) ∨ f = id) (mark : Nat) :
    markRaised m l slot mark (f s) = f (markRaised m l slot mark s) := by
  have hretire : ∀ u, retireLine l slot (f u) = f (retireLine l slot u) := by
    intro u
    rcases hf with ⟨k, rfl⟩ | ⟨w, rfl⟩ | rfl
    · unfold retireLine
      dsimp only
      rw [slotRecord_of_ring (show (bump k u).ring = u.ring from rfl)]
      split <;> rfl
    · unfold retireLine
      dsimp only
      rw [slotRecord_of_ring (show (enterOutlet w u).ring = u.ring from rfl)]
      split <;> rfl
    · rfl
  have hset : setSlot l slot { slotRecord (f s) l slot with fillMark := mark } (f s) =
      f (setSlot l slot { slotRecord s l slot with fillMark := mark } s) := by
    rcases hf with ⟨k, rfl⟩ | ⟨w, rfl⟩ | rfl <;> rfl
  unfold markRaised
  dsimp only
  rw [hset, hretire]
  split_ifs <;> rfl

theorem disposeRun_absorbed {e : Option Entry} (h : ∀ y, e = some y → y.state = .dropped) (m : SteeringMap) (l : Lane)
    (row x : Nat) (bytes : List Byte) (lo hi : Nat) :
    disposeRun m l row e x bytes lo hi = bump .absorbedWrites := by
  funext t
  cases e with
  | none => rfl
  | some y => simp only [disposeRun, h y rfl]

/-- The write that a run of new kept bytes becomes, if it becomes one (R60, R72). -/
def runWrite (m : SteeringMap) (l : Lane) (row : Nat) (e : Entry) (x : Nat) (bytes : List Byte) (lo hi : Nat) : Option OutTxn :=
  if lo < hi then place m (placedBy e l) e row lo ((bytes.drop (lo - x)).take (hi - lo)) else none

theorem disposeRun_opened {e : Entry} (h : e.state = .opened) (m : SteeringMap) (l : Lane) (row x : Nat) (bytes : List Byte)
    (lo hi : Nat) :
    disposeRun m l row (some e) x bytes lo hi = (runWrite m l row e x bytes lo hi).elim id enterOutlet := by
  funext t
  simp only [disposeRun, h, runWrite]
  by_cases hlt : lo < hi
  · rw [if_pos hlt, if_pos hlt]
    change (match place m (placedBy e l) e row lo ((bytes.drop (lo - x)).take (hi - lo)) with
      | some w => enterOutlet w t
      | none => t) = _
    cases place m (placedBy e l) e row lo ((bytes.drop (lo - x)).take (hi - lo)) <;> rfl
  · rw [if_neg hlt, if_neg hlt]
    rfl

theorem disposeRun_cases (m : SteeringMap) (l : Lane) (row : Nat) (e : Option Entry) (x : Nat) (bytes : List Byte)
    (lo hi : Nat) :
    (∃ k, disposeRun m l row e x bytes lo hi = bump k) ∨ (∃ w, disposeRun m l row e x bytes lo hi = enterOutlet w) ∨
      disposeRun m l row e x bytes lo hi = id := by
  cases e with
  | none => exact .inl ⟨_, disposeRun_absorbed (fun _ h => by cases h) ..⟩
  | some y =>
    cases hstate : y.state with
    | opening => exact .inr (.inr (funext fun t => by simp only [disposeRun, hstate, id_eq]))
    | dropped => exact .inl ⟨_, disposeRun_absorbed (fun _ h => Option.some.inj h ▸ hstate) ..⟩
    | opened =>
      rw [disposeRun_opened hstate]
      cases runWrite m l row y x bytes lo hi with
      | none => exact .inr (.inr rfl)
      | some w => exact .inr (.inl ⟨w, rfl⟩)

theorem accountOpen_decided {bytes : List Byte} (h : (slotRecord s l slot).stamp ≠ .unchecked) :
    accountOpen m l slot x bytes s = runDisposed m l slot x bytes s (lined m l slot x bytes.length s) := by
  have hstamp : (slotRecord (gapAccounted m l slot x bytes.length s) l slot).stamp = (slotRecord s l slot).stamp := by
    obtain ⟨made, hmade⟩ := slotRecord_gapAccounted m l slot x bytes.length s
    rw [hmade]
  rw [accountOpen_else (s2 := gapAccounted m l slot x bytes.length s) (stampPiece_decided (by rw [hstamp]; exact h)).symm rfl
    fun hthird => h hthird.1]
  exact markRaised_disposal (disposeRun_cases ..) _

/-- The fill of the gap that a piece passes over. -/
def gapFill (m : SteeringMap) (l : Lane) (x : Nat) (r : SlotRecord) (e : Entry) : List Job :=
  lineFill m (placedBy e l) e (r.row.getD 0) (max r.fillMark (keptStart m (placedBy e l))) (min x (keptEnd m (placedBy e l)))

theorem gapAccounted_some {e : Entry} (h : recordEntry s (slotRecord s l slot) = some e) (n : Nat) :
    gapAccounted m l slot x n s =
      updateEntry e.key
        (countPiece l (min x (keptEnd m (placedBy e l)) - max (slotRecord s l slot).fillMark (keptStart m (placedBy e l)))
          (rewriteBytes (slotRecord s l slot).fillMark x n))
        (fillLine m l slot e (max (slotRecord s l slot).fillMark (keptStart m (placedBy e l)))
          (min x (keptEnd m (placedBy e l))) s) := by
  simp only [gapAccounted, h]
  rfl

theorem gapAccounted_none (h : recordEntry s (slotRecord s l slot) = none) (n : Nat) : gapAccounted m l slot x n s = s := by
  simp only [gapAccounted, h]

theorem slotRecord_gapFilled {e : Entry} (h : recordEntry s (slotRecord s l slot) = some e) (n : Nat) :
    slotRecord (gapAccounted m l slot x n s) l slot =
      { slotRecord s l slot with
        fillMade := (slotRecord s l slot).fillMade || decide (gapFill m l x (slotRecord s l slot) e ≠ []) } := by
  rw [gapAccounted_some h]
  exact slotRecord_lineFilled m l slot e _ _ s

/-- The gap and rewrite bytes of a piece in a lane's counts (R58, R59). -/
def pieceCounts (gap rewrite : Nat) (c : LaneCounts) : LaneCounts :=
  { c with gap := satAdd c.gap gap, discarded := satAdd c.discarded rewrite }

theorem gapFill_ne_nil {r : SlotRecord} {e : Entry} :
    gapFill m l x r e ≠ [] ↔
      entryLive e = true ∧ 0 < min x (keptEnd m (placedBy e l)) - max r.fillMark (keptStart m (placedBy e l)) := by
  rw [gapFill, lineFill_ne_nil, Nat.sub_pos_iff_lt, entryLive, decide_eq_true_eq, and_comm]

/-- A piece's counts, and the retirement of a line that it ends (R61, R90). -/
theorem countsAfter_eq (r : SlotRecord) (e : Entry) (n : Nat) (c : LaneCounts) :
    countsAfter m (placedBy e l) r (entryLive e) x n c =
      (if markAfter m r.fillMark x n = lineBytes m then retiredCounts (r.fillMade || decide (gapFill m l x r e ≠ [])) else id)
        (pieceCounts (min x (keptEnd m (placedBy e l)) - max r.fillMark (keptStart m (placedBy e l)))
          (rewriteBytes r.fillMark x n) c) := by
  have hmark : markAfter m r.fillMark x n = lineBytes m ↔ max r.fillMark (min (x + n) (m.Lp * m.P)) = m.Lp * m.P := Iff.rfl
  have hfill : gapFill m l x r e ≠ [] ↔ entryLive e = true ∧
      0 < min x (m.Lp * m.P - (placedBy e l).trimR * m.P) - max r.fillMark ((placedBy e l).trimL * m.P) := gapFill_ne_nil
  unfold countsAfter
  dsimp only
  by_cases hends : max r.fillMark (min (x + n) (m.Lp * m.P)) = m.Lp * m.P
  · rw [if_pos (hmark.2 hends), if_pos hends]
    simp only [hends, true_and, retiredCounts, pieceCounts, Bool.or_eq_true, decide_eq_true_eq, hfill]
    rfl
  · rw [if_neg (mt hmark.1 hends), if_neg hends, if_neg fun h => hends h.1]
    rfl

/-- A piece's gap and rewrite bytes are counted in its entry, and the fill of the gap is offered (R58, R59). -/
theorem work_gapAccounted {e : Entry} (h : recordEntry s (slotRecord s l slot) = some e) (n : Nat) :
    Work
      (countingOf e.key l
        (pieceCounts (min x (keptEnd m (placedBy e l)) - max (slotRecord s l slot).fillMark (keptStart m (placedBy e l)))
          (rewriteBytes (slotRecord s l slot).fillMark x n)))
      (fun _ => 0) (gapFill m l x (slotRecord s l slot) e) s (gapAccounted m l slot x n s) := by
  rw [gapAccounted_some h]
  exact (work_fillLine m l slot e _ _ s).then_counts (work_updateCounts e.key l (pieceCounts _ _) _)

/-- The line of a slot whose mark is raised retires at its end (R61). -/
theorem work_markRaised (m : SteeringMap) (l : Lane) (slot mark : Nat) (s : State) :
    Work
      (lineCounting l (slotRecord s l slot).ref
        (if mark = lineBytes m then retiredCounts (slotRecord s l slot).fillMade else id))
      (fun _ => 0) [] s (markRaised m l slot mark s) := by
  have hset := work_setSlot l slot { slotRecord s l slot with fillMark := mark } s
  unfold markRaised
  dsimp only
  by_cases hends : mark = lineBytes m
  · rw [if_pos hends, if_pos hends]
    have hretire := work_retireLine l slot (setSlot l slot { slotRecord s l slot with fillMark := mark } s)
    rw [slotRecord_setSlot_same] at hretire
    exact hset.after_quiet hretire
  · rw [if_neg hends, if_neg hends]
    exact hset.congr (fun _ _ _ _ => by rw [lineCounting, id, ite_self]; rfl) (fun _ _ => rfl) rfl

/-- A piece of an entry's line counts what R58 to R61 and R90 say, and offers the fill of its gap. -/
theorem work_lined {e : Entry} (h : recordEntry s (slotRecord s l slot) = some e) (n : Nat) :
    Work (countingOf e.key l (countsAfter m (placedBy e l) (slotRecord s l slot) (entryLive e) x n)) (fun _ => 0)
      (gapFill m l x (slotRecord s l slot) e) s (lined m l slot x n s) := by
  obtain ⟨href, -⟩ := recordEntry_some h
  have hraised := work_markRaised m l slot (markAfter m (slotRecord s l slot).fillMark x n) (gapAccounted m l slot x n s)
  rw [slotRecord_gapFilled (m := m) (x := x) h n] at hraised
  refine ((work_gapAccounted h n).then_counts hraised).congr (fun y _ l' c => ?_) (fun _ _ => rfl) rfl
  dsimp only
  rw [href, lineCounting_entry]
  simp only [Counting.then, countingOf]
  by_cases hy : y.key = e.key ∧ l' = l
  · simp only [if_pos hy]
    rw [countsAfter_eq]
  · simp only [if_neg hy]

theorem oneSlot_lined (m : SteeringMap) (l : Lane) (slot x n : Nat) (s : State) : OneSlot l slot s (lined m l slot x n s) :=
  (oneSlot_gapAccounted m l slot x n s).trans (oneSlot_markRaised m l slot _ _)

/-- The record of a line after a piece, but for its fill-made flag. -/
theorem slotRecord_lined (hstamp : (slotRecord s l slot).stamp ≠ .unchecked) (n : Nat) :
    slotRecord (lined m l slot x n s) l slot =
      { lineAfter m (slotRecord s l slot) x n with
        fillMade := (slotRecord (gapAccounted m l slot x n s) l slot).fillMade } := by
  obtain ⟨made, hmade⟩ := slotRecord_gapAccounted m l slot x n s
  have hmark : markAfter m (slotRecord s l slot).fillMark x n = lineBytes m ↔
      max (slotRecord s l slot).fillMark (min (x + n) (m.Lp * m.P)) = m.Lp * m.P := Iff.rfl
  rw [lined, slotRecord_markRaised, hmade]
  unfold lineAfter
  by_cases hends : max (slotRecord s l slot).fillMark (min (x + n) (m.Lp * m.P)) = m.Lp * m.P
  · rw [if_pos (hmark.2 hends), if_pos hends, retiredRecord, if_neg hstamp]
    rfl
  · rw [if_neg (mt hmark.1 hends), if_neg hends]
    rfl

end

/-! ### Tests that end nothing -/

/-- The tests find each entry by its key: they end nothing while none so found has retired all its rows. -/
theorem closeTests_of_found {m : SteeringMap} {s : State} (hm : s.maps.live = some m)
    (h : ∀ k e, findEntry s k = some e → allRetired m e = false) : closeTests s = s := by
  unfold closeTests
  generalize s.table.entries.map Entry.key = ks
  have htest (k : Nat) : testEntry k s = s := by
    unfold testEntry
    split
    next e n he hn =>
      obtain rfl := Option.some.inj (hm.symm.trans hn)
      rw [if_neg (ne_true_of_eq_false (h k e he))]
    next => rfl
  induction ks with
  | nil => rfl
  | cons k ks ih => rw [List.foldl_cons, htest, ih]

/-- An entry without an end row has rows to retire, and so has one of which no lane's retirements change. -/
theorem allRetired_counted {m : SteeringMap} {e : Entry} {ch : Counting} (he : allRetired m e = false)
    (h : e.endRow = none ∨ ∀ l, (ch e.key l (e.counts.get l)).retired = (e.counts.get l).retired) (lost : Bool) (os : Nat → Nat) :
    allRetired m { counted ch os e with fillLost := lost } = false := by
  rcases h with hend | hsame
  · simp [allRetired, counted, hend]
  · rw [← he]
    simp only [allRetired, counted, Lanes.get_ofFn, hsame]
    rfl

/-- Work that retires no row of a complete entry is followed by no end. -/
theorem work_none_ends {m : SteeringMap} {s t : State} {ch : Counting} {os : Nat → Nat} {fills : List Job}
    (h : Work ch os fills s t) (hnone : NoneComplete m s)
    (hch : ∀ k e, findEntry s k = some e →
      e.endRow = none ∨ ∀ l, (ch e.key l (e.counts.get l)).retired = (e.counts.get l).retired) :
    ∀ k e, findEntry t k = some e → allRetired m e = false := by
  intro k e' he'
  have hrel := h.found k
  rw [he'] at hrel
  cases hs : findEntry s k with
  | none =>
    rw [hs] at hrel
    cases hrel
  | some e =>
    obtain ⟨lost, rfl⟩ := h.entry hs he'
    exact allRetired_counted (hnone e (findEntry_mem hs)) (hch k e hs) lost os

/-! ### Pieces that place nothing (R57 to R60) -/

theorem pieceReady_of_closed {s : State} {l : Lane} {slot : Nat} (h : (slotRecord s l slot).state ≠ .opened) (x : Nat)
    (p : List Byte) : pieceReady s (.aperture l slot x p) = true := by
  simp [pieceReady, h]

theorem pieceReady_of_entry {s : State} {l : Lane} {slot : Nat}
    (h : ∀ e, recordEntry s (slotRecord s l slot) = some e → e.state ≠ .opening) (x : Nat) (p : List Byte) :
    pieceReady s (.aperture l slot x p) = true := by
  cases he : recordEntry s (slotRecord s l slot) with
  | none => simp [pieceReady, he]
  | some e => simp [pieceReady, he, h e he]

theorem accountPiece_absorbed {s : State} {l : Lane} {slot x : Nat} {p : List Byte} (hm : s.maps.live ≠ none)
    (hstep : s.ring.step.get l = .outOfStep) : accountPiece l slot x p s = bump .absorbedWrites s := by
  obtain ⟨m, hm⟩ := Option.ne_none_iff_exists'.1 hm
  simp only [accountPiece, hm, hstep]

theorem accountPiece_stray {s : State} {l : Lane} {slot x : Nat} {p : List Byte}
    (h : s.maps.live = none ∨ s.ring.step.get l ≠ .outOfStep) (hclosed : (slotRecord s l slot).state ≠ .opened) :
    accountPiece l slot x p s = bump .strayWrites s := by
  unfold accountPiece
  split
  case h_3 hm hstep => exact absurd hstep (h.resolve_left (by simp [hm]))
  case h_6 _ _ hopen => exact absurd hopen hclosed
  all_goals rfl

theorem accountPiece_open {s : State} {m : SteeringMap} {l : Lane} {slot x : Nat} {p : List Byte} (hm : s.maps.live = some m)
    (hstep : s.ring.step.get l = .inStep) (hopen : (slotRecord s l slot).state = .opened) :
    accountPiece l slot x p s = closeTests (accountOpen m l slot x p s) := by
  simp only [accountPiece, hm, hstep, hopen]

/-- A piece of an OPEN line, granted its place. -/
theorem exec_piece {s : State} {m : SteeringMap} {l : Lane} {slot x : Nat} {p : List Byte} {rest : List Piece}
    (h : InletNext s (.aperture l slot x p) rest) (hm : s.maps.live = some m) (hstep : s.ring.step.get l = .inStep)
    (hopen : (slotRecord s l slot).state = .opened)
    (hready : ∀ e, recordEntry s (slotRecord s l slot) = some e → e.state ≠ .opening) :
    exec .outletPlaceGrant s = .next (closeTests (accountOpen m l slot x p { s with decode := rest })) := by
  rw [exec_grant_next h (pieceReady_of_entry hready x p)]
  exact congrArg Host.Outcome.next (accountPiece_open (s := { s with decode := rest }) hm hstep hopen)

/-! ### The tests after a piece -/

section
variable {m : SteeringMap} {l : Lane} {slot x : Nat} {s : State}

theorem retireLine_absorb (h : (slotRecord s l slot).ref = some .absorb) :
    retireLine l slot s = setSlot l slot (retiredRecord (slotRecord s l slot)) s := by
  simp only [retireLine, retiredRecord, h]

/-- A piece of a line of ABSORB moves that line alone. -/
theorem lined_absorb (h : (slotRecord s l slot).ref = some .absorb) (n : Nat) :
    lined m l slot x n s = { s with ring := (lined m l slot x n s).ring } := by
  have hentry : recordEntry s (slotRecord s l slot) = none := by rw [recordEntry, h]
  unfold lined
  rw [gapAccounted_none hentry]
  unfold markRaised
  dsimp only
  split
  · rw [retireLine_absorb (by rw [slotRecord_setSlot_same, h])]
    rfl
  · rfl

theorem countsAfter_retired {p : LanePlacement} {r : SlotRecord} {n : Nat} (h : max r.fillMark (x + n) < m.Lp * m.P)
    (fills : Bool) (c : LaneCounts) : (countsAfter m p r fills x n c).retired = c.retired := by
  have hmark : ¬max r.fillMark (min (x + n) (m.Lp * m.P)) = m.Lp * m.P := by omega
  simp only [countsAfter, if_neg hmark]

/-- A piece that does not end the last line of an entry with an end row ends no entry. -/
theorem lined_none_ends {e : Entry} (h : recordEntry s (slotRecord s l slot) = some e)
    (hnone : NoneComplete m s) {n : Nat} (hrows : e.endRow = none ∨ max (slotRecord s l slot).fillMark (x + n) < m.Lp * m.P) :
    ∀ k y, findEntry (lined m l slot x n s) k = some y → allRetired m y = false := by
  obtain ⟨-, he⟩ := recordEntry_some h
  refine work_none_ends (work_lined h n) hnone fun k y hy => ?_
  by_cases hk : y.key = e.key
  · obtain rfl : y = e := by
      rw [← findEntry_key hy, hk] at hy
      exact Option.some.inj (hy.symm.trans he)
    exact hrows.imp id fun hlt l' => by
      unfold countingOf
      split
      next hl =>
        obtain ⟨-, rfl⟩ := hl
        exact countsAfter_retired hlt _ _
      next => rfl
  · exact .inr fun l' => by rw [countingOf, if_neg fun hand => hk hand.1]

end

/-- Settles O10: absorbed and stray pieces count; on a line of ABSORB or of a DROPPED entry the line alone moves, and the
entry's counts. -/
theorem unplacedPieceIsAbsorbed : Obligations.UnplacedPieceIsAbsorbed := by
  intro s l slot x p rest hnext
  refine ⟨fun hclosed ⟨hm, hstep⟩ => ?_, fun hclosed hwhy => ?_, fun m hm hnone hstep hopen hstamp =>
    ⟨fun href => ?absorb, fun k e href he hdropped hrows => ?dropped⟩⟩
  · rw [exec_grant_next hnext (pieceReady_of_closed hclosed x p)]
    exact congrArg Host.Outcome.next (accountPiece_absorbed (s := { s with decode := rest }) hm hstep)
  · rw [exec_grant_next hnext (pieceReady_of_closed hclosed x p)]
    exact congrArg Host.Outcome.next (accountPiece_stray (s := { s with decode := rest }) hwhy hclosed)
  case absorb =>
    have hentry : recordEntry s (slotRecord s l slot) = none := by rw [recordEntry, href]
    have hexec := exec_piece hnext hm hstep hopen fun e he => by
      rw [hentry] at he
      cases he
    obtain ⟨u, hu⟩ : ∃ u : State, u = { s with decode := rest } := ⟨_, rfl⟩
    have hrec : slotRecord u l slot = slotRecord s l slot := by rw [hu]; rfl
    have hline := lined_absorb (m := m) (x := x) (s := u) (hrec ▸ href) p.length
    have hone := oneSlot_lined m l slot x p.length u
    have hafter := slotRecord_lined (m := m) (x := x) (s := u) (hrec ▸ hstamp) p.length
    rw [gapAccounted_none (by rw [hrec, hu]; exact hentry)] at hafter
    have hdisposed : accountOpen m l slot x p u = bump .absorbedWrites (lined m l slot x p.length u) := by
      rw [accountOpen_decided (hrec ▸ hstamp), runDisposed, hrec, show recordEntry u (slotRecord s l slot) = none by
        rw [hu]; exact hentry]
      exact congrFun (disposeRun_absorbed (fun _ h => by cases h) ..) _
    rw [← hu, hdisposed, hline] at hexec
    rw [closeTests_of_found (m := m) (by rw [hu]; exact hm) fun k y hy => hnone y (by
      rw [hu] at hy
      exact findEntry_mem hy)] at hexec
    refine ⟨_, hexec, ?_⟩
    have hmade : { lineAfter m (slotRecord s l slot) x p.length with fillMade := (slotRecord s l slot).fillMade } =
      lineAfter m (slotRecord s l slot) x p.length := rfl
    rw [hrec, hmade] at hafter
    exact ⟨by rw [hu]; rfl, hafter, by rw [hu]; rfl, by rw [hu]; rfl, by rw [hu]; rfl, by rw [hu]; rfl,
      hone.step.trans (by rw [hu]), by rw [hu]; rfl⟩
  case dropped =>
    have hentry : recordEntry s (slotRecord s l slot) = some e := by
      rw [recordEntry, href]
      exact he
    have hexec := exec_piece hnext hm hstep hopen fun y hy => by
      rw [hentry] at hy
      rw [← Option.some.inj hy, hdropped]
      exact EntryState.noConfusion
    obtain ⟨u, hu⟩ : ∃ u : State, u = { s with decode := rest } := ⟨_, rfl⟩
    have hrec : slotRecord u l slot = slotRecord s l slot := by rw [hu]; rfl
    have hentryU : recordEntry u (slotRecord u l slot) = some e := by rw [hrec, hu]; exact hentry
    have hfills : gapFill m l x (slotRecord u l slot) e = [] :=
      not_not.1 fun hne => by simpa [entryLive, hdropped] using (gapFill_ne_nil.1 hne).1
    have hwork := work_lined (m := m) (x := x) hentryU p.length
    have hends := lined_none_ends hentryU (m := m) (x := x) (n := p.length) (by rw [hu]; exact hnone) (hrec ▸ hrows)
    have hone := oneSlot_lined m l slot x p.length u
    have hafter := slotRecord_lined (m := m) (x := x) (s := u) (hrec ▸ hstamp) p.length
    rw [slotRecord_gapFilled hentryU] at hafter
    have hdisposed : accountOpen m l slot x p u = bump .absorbedWrites (lined m l slot x p.length u) := by
      rw [accountOpen_decided (hrec ▸ hstamp), runDisposed, hentryU]
      exact congrFun (disposeRun_absorbed (fun _ h => Option.some.inj h ▸ hdropped) ..) _
    rw [hfills] at hafter hwork
    have hmaps : (lined m l slot x p.length u).maps.live = some m := by
      rw [hwork.frame, hu]
      exact hm
    have hfound := hwork.exact (.inl rfl) (show findEntry u k = some e by rw [hu]; exact he)
    obtain ⟨-, hattention, hcounters⟩ := hwork.spares (.inl rfl)
    have hlist := hwork.quiet rfl
    have hframe := hwork.frame
    generalize lined m l slot x p.length u = v at *
    rw [← hu, hdisposed, closeTests_of_found (m := m) (s := bump .absorbedWrites v) hmaps hends] at hexec
    have hmade : { lineAfter m (slotRecord s l slot) x p.length with fillMade := (slotRecord s l slot).fillMade } =
      lineAfter m (slotRecord s l slot) x p.length := rfl
    rw [hrec, show decide (([] : List Job) ≠ []) = false from rfl, Bool.or_false, hmade] at hafter
    refine ⟨_, hexec, by rw [show (bump .absorbedWrites v).decode = v.decode from rfl, hframe, hu], hafter,
      hfound.trans ?_, hlist.trans (by rw [hu]), by rw [show (bump .absorbedWrites v).outlet = v.outlet from rfl, hframe, hu],
      hattention.trans (by rw [hu]), hone.step.trans (by rw [hu]), ?_⟩
    · rw [counted_of, if_pos rfl, hrec, show entryLive e = false by rw [entryLive, hdropped]; rfl]
      rfl
    · rw [show (bump .absorbedWrites v).counters = { v.counters with absorbedWrites := satInc v.counters.absorbedWrites } from rfl,
        hcounters, hu]

end Sys2Proof.PieceProofs
end

section
/-! SUPPORT and PROOFS. A piece of an OPEN line of an OPEN repeat: its gap is filled, its new kept bytes leave (R58 to R60,
R73, R105): O12 and O11. -/

namespace Sys2Proof.PieceProofs

open Sys2Proof Sys2Proof.Machine Sys2Proof.AcquisitionProofs Sys2Proof.RunProofs Sys2Proof.PathProofs Sys2Proof.GrantProofs
  Sys2Proof.WorkProofs

section
variable {m : SteeringMap} {l : Lane} {slot x : Nat} {s : State} {e : Entry}

/-- The write of the new kept bytes of a piece, when they become one. -/
def pieceWrite (m : SteeringMap) (l : Lane) (x : Nat) (bytes : List Byte) (r : SlotRecord) (e : Entry) : Option OutTxn :=
  runWrite m l (r.row.getD 0) e x bytes (max x (max r.fillMark (keptStart m (placedBy e l))))
    (min (x + bytes.length) (keptEnd m (placedBy e l)))

theorem runDisposed_opened (h : recordEntry s (slotRecord s l slot) = some e) (hstate : e.state = .opened) (bytes : List Byte)
    (t : State) :
    runDisposed m l slot x bytes s t = { t with outlet := t.outlet ++ (pieceWrite m l x bytes (slotRecord s l slot) e).toList } := by
  rw [runDisposed, h]
  rw [disposeRun_opened hstate]
  change (pieceWrite m l x bytes (slotRecord s l slot) e).elim id enterOutlet t = _
  cases pieceWrite m l x bytes (slotRecord s l slot) e with
  | none =>
    rw [Option.toList_none, List.append_nil]
    rfl
  | some w => rfl

/-- A piece of an OPEN repeat's line whose stamp is decided: its line moves, and its write enters the queue. -/
theorem accountOpen_opened {bytes : List Byte} (hstamp : (slotRecord s l slot).stamp ≠ .unchecked)
    (h : recordEntry s (slotRecord s l slot) = some e) (hstate : e.state = .opened) :
    accountOpen m l slot x bytes s =
      { lined m l slot x bytes.length s with
        outlet := s.outlet ++ (pieceWrite m l x bytes (slotRecord s l slot) e).toList } := by
  have houtlet : (lined m l slot x bytes.length s).outlet = s.outlet := by rw [(work_lined h bytes.length).frame]
  rw [accountOpen_decided hstamp, runDisposed_opened h hstate, houtlet]

theorem closeTests_sent {v : State} {outlet : List OutTxn} (hm : v.maps.live = some m)
    (h : ∀ k y, findEntry v k = some y → allRetired m y = false) :
    closeTests { v with outlet := outlet } = { v with outlet := outlet } :=
  closeTests_of_found hm h

theorem causeSet_fillLost : causeSet .fillLost = 512 := by decide

/-- A gap whose FILL job finds 240 on the list is lost (R105). -/
theorem gapAccounted_lost (h : recordEntry s (slotRecord s l slot) = some e) (n : Nat)
    (hgap : gapFill m l x (slotRecord s l slot) e ≠ []) (hfull : 240 ≤ fillCount s) :
    ∃ f c r, gapAccounted m l slot x n s =
      updateEntry e.key (updateCounts l f)
        (raise .fillLost (bump .fillsLost (updateEntry e.key (fun y => { y with fillLost := true }) (setSlot l c r s)))) := by
  obtain ⟨hlive, hlt⟩ := gapFill_ne_nil.1 hgap
  rw [gapAccounted_some h, fillLine_some ⟨Nat.lt_of_sub_pos hlt, hlive⟩]
  rcases offerFill_cases e ((slotRecord s l slot).row.getD 0)
    (rowByte m (linePlacement m l (some e)) (max (slotRecord s l slot).fillMark (keptStart m (placedBy e l))))
    (min x (keptEnd m (placedBy e l)) - max (slotRecord s l slot).fillMark (keptStart m (placedBy e l)))
    (linePlacement m l (some e)).fill (setSlot l slot { slotRecord s l slot with fillMade := true } s) with ⟨hroom, -⟩ | ⟨-, heq⟩
  · exact absurd hroom (Nat.not_lt.2 hfull)
  · rw [heq]
    exact ⟨_, _, _, rfl⟩

theorem findEntry_updateEntry {k : Nat} {f : Entry → Entry} (hf : ∀ y, (f y).key = y.key) (he : findEntry s k = some e) :
    findEntry (updateEntry k f s) k = some (f e) := by
  have hkeys : (fun y : Entry => decide (y.key = k)) ∘ (fun y => if y.key = k then f y else y) = fun y => decide (y.key = k) := by
    funext y
    simp only [Function.comp_apply]
    split <;> simp [*]
  change (s.table.entries.map _).find? _ = _
  rw [List.find?_map, hkeys, show s.table.entries.find? _ = some e from he, Option.map_some, if_pos (findEntry_key he)]

/-- A piece short of its line's end does not retire it. -/
theorem markRaised_short {mark : Nat} (h : mark ≠ lineBytes m) :
    markRaised m l slot mark s = setSlot l slot { slotRecord s l slot with fillMark := mark } s := by
  unfold markRaised
  dsimp only
  rw [if_neg h]

/-- A short piece whose gap is lost: the entry's flag, FILL_LOST and the count (R105). -/
theorem lined_lost (h : recordEntry s (slotRecord s l slot) = some e) {n : Nat}
    (hgap : gapFill m l x (slotRecord s l slot) e ≠ []) (hfull : 240 ≤ fillCount s)
    (hshort : max (slotRecord s l slot).fillMark (x + n) < m.Lp * m.P) :
    (lined m l slot x n s).list = s.list ∧
      (∀ e', findEntry (lined m l slot x n s) e.key = some e' → e'.fillLost = true) ∧
      (lined m l slot x n s).counters = { s.counters with fillsLost := satInc s.counters.fillsLost } ∧
      (lined m l slot x n s).attention = { s.attention with causes := s.attention.causes ||| 512 } := by
  obtain ⟨-, he⟩ := recordEntry_some h
  obtain ⟨f, c, r, hlost⟩ := gapAccounted_lost h n hgap hfull
  have hmark : markAfter m (slotRecord s l slot).fillMark x n ≠ lineBytes m := by
    change max _ (min (x + n) (m.Lp * m.P)) ≠ m.Lp * m.P
    omega
  have hlined : ∃ r', lined m l slot x n s = setSlot l slot r' (gapAccounted m l slot x n s) := ⟨_, markRaised_short hmark⟩
  obtain ⟨r', hlined⟩ := hlined
  rw [hlined, hlost]
  refine ⟨by simp, fun e' he' => ?_, rfl, ?_⟩
  · have hflag : findEntry (raise .fillLost (bump .fillsLost
        (updateEntry e.key (fun y => { y with fillLost := true }) (setSlot l c r s)))) e.key = some { e with fillLost := true } :=
      findEntry_updateEntry (s := setSlot l c r s) (f := fun y => { y with fillLost := true }) (fun _ => rfl) he
    have hfound := findEntry_updateEntry (f := updateCounts l f) (fun _ => rfl) hflag
    obtain rfl := Option.some.inj (he'.symm.trans hfound)
    rfl
  · rw [← causeSet_fillLost]
    rfl

end

/-- Settles O12: the fill of the gap joins the list, or is lost at 240 jobs. -/
theorem gapIsFilled : Obligations.GapIsFilled := by
  intro s m l slot x k q y1 y2 bytes rest e p hnext hsettled hhead hm hnone hstep hopen hstamp href hrow he hstate hplace
    hshort hy1 hy2 hlt
  have hentry : recordEntry s (slotRecord s l slot) = some e := by
    rw [recordEntry, href]
    exact he
  obtain rfl := findEntry_key he
  have hplaced : placedBy e l = p := by rw [placedBy, hplace, Option.getD_some]
  have hexec := exec_piece hnext hm hstep hopen fun y hy => by
    rw [hentry] at hy
    rw [← Option.some.inj hy, hstate]
    exact EntryState.noConfusion
  have hfill : gapFill m l x (slotRecord s l slot) e =
      [.fill { target := .entry e.key, row := q, column := p.colStart * m.P + (y1 - p.trimL * m.P), len := y2 - y1,
               value := p.fill }] := by
    have hrange : max (slotRecord s l slot).fillMark (keptStart m p) < min x (keptEnd m p) := hy1 ▸ hy2 ▸ hlt
    rw [gapFill, hplaced, lineFill, if_pos ⟨hrange, by rw [hstate]; exact EntryState.noConfusion⟩, hrow, Option.getD_some,
      Nat.add_sub_cancel_left]
    subst hy1 hy2
    rfl
  obtain ⟨u, hu⟩ : ∃ u : State, u = { s with decode := rest } := ⟨_, rfl⟩
  have hrec : slotRecord u l slot = slotRecord s l slot := by rw [hu]; rfl
  have hentryU : recordEntry u (slotRecord u l slot) = some e := by rw [hrec, hu]; exact hentry
  have hroom : fillCount s < 240 → RoomFor u (gapFill m l x (slotRecord s l slot) e) := by
    intro hn
    rw [hu]
    refine ⟨hsettled, by rw [hfill]; exact hn, hhead.imp_right fun ⟨b, hb, hq⟩ f hf => ?_⟩
    rw [hfill, List.mem_singleton] at hf
    obtain rfl := Job.fill.inj hf
    have hfind : s.table.entries.find? (fun y => decide (y.key = e.key)) = some e := he
    simp [resolveFill, hfind, hstate, hb, resolveIn, hq]
  have hwork := work_lined (m := m) (x := x) hentryU bytes.length
  have hends := lined_none_ends hentryU (m := m) (x := x) (n := bytes.length) (by rw [hu]; exact hnone)
    (.inr (hrec ▸ hshort))
  have hafter := slotRecord_lined (m := m) (x := x) (s := u) (hrec ▸ hstamp) bytes.length
  have hlost := lined_lost (m := m) (x := x) hentryU (n := bytes.length)
  rw [hrec] at hlost hafter hwork
  rw [← hu, accountOpen_opened (hrec ▸ hstamp) hentryU hstate] at hexec
  obtain ⟨e', he', htallied⟩ := hwork.isSome (show findEntry u e.key = some e by rw [hu]; exact he)
  have hmaps : (lined m l slot x bytes.length u).maps.live = some m := by
    rw [hwork.frame, hu]
    exact hm
  have hframe := hwork.frame
  have hmade := slotRecord_gapFilled (m := m) (x := x) hentryU bytes.length
  rw [hrec, hfill] at hmade
  rw [hmade] at hafter
  have hcounts := htallied.counts
  generalize lined m l slot x bytes.length u = v at *
  rw [closeTests_sent hmaps hends] at hexec
  refine ⟨_, e', hexec, by rw [hframe, hu], ?_, he', ?_, fun l' hl => ?_, fun hn => ?_, fun hn => ?_⟩
  · exact (congrArg SlotRecord.fillMade hafter).trans (Bool.or_true _)
  · rw [hcounts l, countingOf, if_pos ⟨rfl, rfl⟩, hplaced, hy1, hy2]
    rfl
  · rw [hcounts l', countingOf, if_neg fun h => hl h.2]
  · obtain ⟨-, hattention, hcounters⟩ := hwork.spares (.inr (hroom hn).2.1)
    have hexact := hwork.exact (.inr (hroom hn).2.1) (show findEntry u e.key = some e by rw [hu]; exact he)
    have hjoins := hwork.joins (hroom hn)
    rw [hfill] at hjoins
    refine ⟨?_, ?_, ?_, ?_⟩
    · rw [hjoins, hu]
    · obtain rfl := Option.some.inj (he'.symm.trans hexact)
      rfl
    · rw [hcounters, hu]
    · rw [hattention, hu]
  · obtain ⟨hlist, hflag, hcounters, hattention⟩ := hlost (by rw [hfill]; exact List.cons_ne_nil _ _) (by rw [hu]; exact hn) hshort
    refine ⟨?_, hflag e' he', ?_, ?_⟩
    · rw [hlist, hu]
    · rw [hcounters, hu]
    · rw [hattention, hu]

end Sys2Proof.PieceProofs
end

section
/-! SUPPORT and PROOFS. A piece of an OPEN repeat's line whether or not its stamp is decided (R58, R60, R73): O11. -/

namespace Sys2Proof.PieceProofs

open Sys2Proof Sys2Proof.Machine Sys2Proof.AcquisitionProofs Sys2Proof.RunProofs Sys2Proof.PathProofs Sys2Proof.GrantProofs
  Sys2Proof.WorkProofs

/-! ### What the Line Ring does not send -/

/-- Nothing is sent or taken between s and t, and no piece is counted as absorbed or stray. -/
structure Unsent (s t : State) : Prop where
  decode : t.decode = s.decode
  outlet : t.outlet = s.outlet
  absorbed : t.counters.absorbedWrites = s.counters.absorbedWrites
  stray : t.counters.strayWrites = s.counters.strayWrites

theorem Unsent.trans {s t u : State} (hst : Unsent s t) (htu : Unsent t u) : Unsent s u :=
  ⟨htu.decode.trans hst.decode, htu.outlet.trans hst.outlet, htu.absorbed.trans hst.absorbed, htu.stray.trans hst.stray⟩

theorem unsent_of_frame {s t : State} (h : LineFrame s t) : Unsent s t := by
  rw [h]
  exact ⟨rfl, rfl, rfl, rfl⟩

theorem reportEmpty_unsent (s : State) : Unsent s (reportEmpty s) := by
  unfold reportEmpty
  split
  · rw [enterDisarmed_eq]
    exact ⟨rfl, rfl, rfl, rfl⟩
  · exact ⟨rfl, rfl, rfl, rfl⟩

theorem endMove_unsent {s t : State} (h : EndMove s t) : Unsent s t := by
  cases h with
  | @close e _ _ _ _ _ _ =>
    refine Unsent.trans ?_ (reportEmpty_unsent _)
    rw [removeEntry, queueRecord_eq]
    exact ⟨rfl, rfl, rfl, rfl⟩
  | @free e _ _ _ _ _ _ =>
    refine Unsent.trans ?_ (reportEmpty_unsent _)
    rw [removeEntry, removeJobs_eq]
    exact ⟨rfl, rfl, rfl, rfl⟩

theorem endMoves_unsent {s t : State} (h : EndMoves s t) : Unsent s t := by
  induction h with
  | refl => exact ⟨rfl, rfl, rfl, rfl⟩
  | tail _ hmove ih => exact ih.trans (endMove_unsent hmove)

section
variable {m : SteeringMap} {l : Lane} {slot x : Nat} {s : State} {e : Entry}

theorem stampPiece_unsent (bytes : List Byte) (hrun : Running s) : Unsent s (stampPiece m l slot x bytes s) := by
  rcases stampPiece_moves m l slot x bytes (hs := hrun) with h | ⟨u, n, hu, ht⟩
  · rw [h]
    exact ⟨rfl, rfl, rfl, rfl⟩
  · refine (unsent_of_frame hu.frame).trans (Unsent.trans ?_ (unsent_of_frame ht.frame))
    exact ⟨rfl, rfl, rfl, rfl⟩

/-- A state before the last moves of a piece: its gap is accounted for, its stamp decided, its write sent. -/
def pieceSent (m : SteeringMap) (l : Lane) (slot x : Nat) (bytes : List Byte) (s : State) : State :=
  runDisposed m l slot x bytes s (stampPiece m l slot x bytes (gapAccounted m l slot x bytes.length s))

/-- What the piece then does to its line. -/
def pieceLined (m : SteeringMap) (l : Lane) (slot x : Nat) (bytes : List Byte) (s : State) : State :=
  markRaised m l slot (markAfter m (slotRecord s l slot).fillMark x bytes.length) (pieceSent m l slot x bytes s)

theorem accountOpen_cases (m : SteeringMap) (l : Lane) (slot x : Nat) (bytes : List Byte) (s : State) :
    accountOpen m l slot x bytes s = pieceLined m l slot x bytes s ∨
      accountOpen m l slot x bytes s = goOutOfStep m l (pieceLined m l slot x bytes s) := by
  by_cases h : thirdMismatch l slot s (stampPiece m l slot x bytes (gapAccounted m l slot x bytes.length s))
  · exact .inr (accountOpen_third rfl rfl h)
  · exact .inl (accountOpen_else rfl rfl h)

theorem stampPiece_running (bytes : List Byte) (hrun : Running s) : Running (stampPiece m l slot x bytes s) := by
  rcases stampPiece_moves hrun m l slot x bytes with h | ⟨u, n, hu, ht⟩
  · rw [h]
    exact hrun
  · exact LineMoves.running ht (LineMoves.running hu hrun : Running u)

theorem pieceSent_running (bytes : List Byte) (hrun : Running s) : Running (pieceSent m l slot x bytes s) :=
  (runDisposed_disposal m l slot x bytes s _).running
    (stampPiece_running bytes (LineMoves.running (gapAccounted_moves hrun m l slot x bytes.length) hrun))

theorem pieceLined_running (bytes : List Byte) (hrun : Running s) : Running (pieceLined m l slot x bytes s) :=
  LineMoves.running (markRaised_moves (pieceSent_running bytes hrun) m l slot _) (pieceSent_running bytes hrun)

theorem accountOpen_moves_last (bytes : List Byte) (hrun : Running s) :
    LineMoves (pieceSent m l slot x bytes s) (accountOpen m l slot x bytes s) := by
  have hraised := markRaised_moves (pieceSent_running bytes hrun (m := m) (l := l) (slot := slot) (x := x)) m l slot
    (markAfter m (slotRecord s l slot).fillMark x bytes.length)
  rcases accountOpen_cases m l slot x bytes s with h | h
  · rw [h]
    exact hraised
  · rw [h]
    exact hraised.trans (goOutOfStep_moves (pieceLined_running bytes hrun) m l)

/-- A piece of an OPEN repeat's line sends its one write, and counts no absorbed or stray piece. -/
theorem accountOpen_sends (h : recordEntry s (slotRecord s l slot) = some e) (hstate : e.state = .opened) (bytes : List Byte)
    (hrun : Running s) :
    Unsent { s with outlet := s.outlet ++ (pieceWrite m l x bytes (slotRecord s l slot) e).toList }
      (accountOpen m l slot x bytes s) := by
  have hgap := gapAccounted_moves hrun m l slot x bytes.length
  have hbefore := (unsent_of_frame hgap.frame).trans (stampPiece_unsent (m := m) (l := l) (slot := slot) (x := x) bytes
    (LineMoves.running hgap hrun))
  refine Unsent.trans ?_ (unsent_of_frame (accountOpen_moves_last bytes hrun).frame)
  rw [pieceSent, runDisposed_opened h hstate]
  exact ⟨hbefore.decode, congrArg (· ++ _) hbefore.outlet, hbefore.absorbed, hbefore.stray⟩

theorem accountOpen_keeps (bytes : List Byte) (hrun : Running s) :
    (accountOpen m l slot x bytes s).acq = s.acq ∧ (accountOpen m l slot x bytes s).maps = s.maps := by
  obtain ⟨u, v, w, hu, hv, v', hv', hw, hlast⟩ := accountOpen_path m l slot x bytes hrun
  have hset : v.acq = u.acq ∧ v.maps = u.maps := by
    rcases hv with rfl | ⟨n, rfl⟩
    · exact ⟨rfl, rfl⟩
    · exact ⟨rfl, rfl⟩
  have hsent : w.acq = v'.acq ∧ w.maps = v'.maps := by
    cases hw <;> exact ⟨rfl, rfl⟩
  exact ⟨by rw [hlast.acq, hsent.1, hv'.acq, hset.1, hu.acq], by rw [hlast.maps, hsent.2, hv'.maps, hset.2, hu.maps]⟩

/-- The write of a piece's new kept bytes goes to the target of placement (R73, R74). -/
theorem pieceWrite_eq {p : LanePlacement} {b : Buffer} {q : Nat} {bytes : List Byte} {r : SlotRecord}
    (hplace : e.placement.get l = some p) (hb : e.buffer = some b) (hrow : r.row = some (e.firstRow + q)) {lo hi : Nat}
    (hlo : lo = max x (max r.fillMark (p.trimL * m.P))) (hhi : hi = min (x + bytes.length) (m.Lp * m.P - p.trimR * m.P)) :
    (pieceWrite m l x bytes r e).toList =
      if lo < hi ∧ q < b.capacity then
        [.write ((b.base + q * b.stride + (p.colStart * m.P + (lo - p.trimL * m.P))) % 2 ^ 48)
          ((bytes.drop (lo - x)).take (hi - lo))]
      else [] := by
  have hplaced : placedBy e l = p := by rw [placedBy, hplace, Option.getD_some]
  have hwrite : pieceWrite m l x bytes r e = runWrite m l (e.firstRow + q) e x bytes lo hi := by
    rw [pieceWrite, hplaced, hrow, hlo, hhi]
    rfl
  rw [hwrite, runWrite]
  by_cases hlt : lo < hi
  · by_cases hq : q < b.capacity
    · simp only [place, hb, Nat.add_sub_cancel_left, hlt, hq, and_self, if_true, hplaced]
      rfl
    · simp only [place, hb, Nat.add_sub_cancel_left, hq, and_false, if_false, ite_self, Option.toList_none]
  · rw [if_neg hlt, if_neg fun hand => hlt hand.1]
    rfl

theorem tallied_counts_of {f : LaneCounts → LaneCounts} {e' : Entry} (h : Tallied (countingOf e.key l f) (fun _ => 0) e e') :
    e'.counts = e.counts.set l (f (e.counts.get l)) := by
  obtain ⟨lost, rfl⟩ := h
  have hcounted := counted_of e.key l f e
  rw [if_pos rfl] at hcounted
  exact (congrArg Entry.counts hcounted :)

/-! ### The line itself -/

/-- The line of a slot has this fill mark, and is retired if it ends there. -/
def MarkedAt (m : SteeringMap) (l : Lane) (slot mark : Nat) (s : State) : Prop :=
  (slotRecord s l slot).fillMark = mark ∧ (mark = lineBytes m → (slotRecord s l slot).state = .retired)

theorem markedAt_forceRetire {mark : Nat} (i : Nat) (h : MarkedAt m l slot mark s) :
    MarkedAt m l slot mark (forceRetire m false l i s) := by
  by_cases hi : slot = i
  · subst hi
    obtain ⟨made, hmade⟩ := slotRecord_forceRetire m false l slot s
    exact ⟨by rw [hmade]; exact h.1, fun _ => by rw [hmade]; rfl⟩
  · rw [MarkedAt, (oneSlot_forceRetire m false l i s).slots slot hi]
    exact h

theorem markedAt_goOutOfStep {mark : Nat} (h : MarkedAt m l slot mark s) : MarkedAt m l slot mark (goOutOfStep m l s) := by
  obtain ⟨order, cs, n, -, heq⟩ := forEachOpenly_eq (fun i => forceOffers m l i (laneOut l s)) (openSlots (laneOut l s) l)
    (forceRetire m false l) (laneOut l s)
  rw [show goOutOfStep m l s = _ from heq]
  have hkeep (u : State) (hu : MarkedAt m l slot mark u) :
      MarkedAt m l slot mark (order.foldl (fun t i => forceRetire m false l i t) u) := by
    clear heq
    induction order generalizing u with
    | nil => exact hu
    | cons i order ih => exact ih _ (markedAt_forceRetire i hu)
  exact hkeep _ h

theorem markedAt_accountOpen (bytes : List Byte) :
    MarkedAt m l slot (max (slotRecord s l slot).fillMark (min (x + bytes.length) (m.Lp * m.P)))
      (accountOpen m l slot x bytes s) := by
  have hlined : MarkedAt m l slot (markAfter m (slotRecord s l slot).fillMark x bytes.length) (pieceLined m l slot x bytes s) := by
    rw [MarkedAt, pieceLined, slotRecord_markRaised]
    split
    next => exact ⟨rfl, fun _ => rfl⟩
    next h => exact ⟨rfl, fun h' => absurd h' h⟩
  rcases accountOpen_cases m l slot x bytes s with h | h
  · rw [h]
    exact hlined
  · rw [h]
    exact markedAt_goOutOfStep hlined

end

/-- Settles O11: the new kept bytes leave as one write, the mark is raised, the counts are those of the piece. -/
theorem keptRunIsPlaced : Obligations.KeptRunIsPlaced := by
  intro s m l slot x k q lo hi bytes rest e p b hnext hm hstep hopen href hrow he hstate hb hplace hlo hhi
  have hentry : recordEntry s (slotRecord s l slot) = some e := by
    rw [recordEntry, href]
    exact he
  obtain rfl := findEntry_key he
  have hplaced : placedBy e l = p := by rw [placedBy, hplace, Option.getD_some]
  have hexec := exec_piece hnext hm hstep hopen fun y hy => by
    rw [hentry] at hy
    rw [← Option.some.inj hy, hstate]
    exact EntryState.noConfusion
  obtain ⟨u, hu⟩ : ∃ u : State, u = { s with decode := rest } := ⟨_, rfl⟩
  have hrec : slotRecord u l slot = slotRecord s l slot := by rw [hu]; rfl
  have hentryU : recordEntry u (slotRecord u l slot) = some e := by rw [hrec, hu]; exact hentry
  have hrun : Running u := running_of_opened (l := l) (i := slot) (by rw [hu]; exact hm ▸ Option.some_ne_none m) (hrec ▸ hopen)
  have hsent := accountOpen_sends (m := m) (x := x) hentryU hstate bytes hrun
  have hmarked := markedAt_accountOpen (m := m) (l := l) (slot := slot) (x := x) (s := u) bytes
  obtain ⟨hacq, -⟩ := accountOpen_keeps (m := m) (l := l) (slot := slot) (x := x) bytes hrun
  rw [hrec, pieceWrite_eq hplace hb hrow hlo hhi] at hsent
  rw [hrec] at hmarked
  rw [← hu] at hexec
  have hends := closeTests_ends (accountOpen m l slot x bytes u)
  have hall := hsent.trans (endMoves_unsent hends)
  refine ⟨_, hexec, hall.decode.trans (by rw [hu]), hall.outlet.trans (by rw [hu]), hall.absorbed.trans (by rw [hu]),
    hall.stray.trans (by rw [hu]), fun hdrain => ?_, fun hstamp => ⟨fun e' he' => ?_, fun hend => ?_⟩⟩
  · have hring : (closeTests (accountOpen m l slot x bytes u)).ring = (accountOpen m l slot x bytes u).ring := by
      rw [endMoves_frame hends (by rw [hacq, hu]; exact hdrain)]
    rw [slotRecord_of_ring hring]
    exact hmarked
  · have hfound := endMoves_found hends he'
    rw [accountOpen_opened (hrec ▸ hstamp) hentryU hstate] at hfound
    have htallied := (work_lined hentryU bytes.length).entry (show findEntry u e.key = some e by rw [hu]; exact he) hfound
    rw [tallied_counts_of htallied, hrec, hplaced, show entryLive e = true by rw [entryLive, hstate]; rfl]
  · obtain ⟨e', he', htallied⟩ := (work_lined (m := m) (x := x) hentryU bytes.length).isSome
      (show findEntry u e.key = some e by rw [hu]; exact he)
    have hend' : e'.endRow = none := (core_eq htallied.core).2.2.2.1.trans hend
    have hopen' := accountOpen_opened (m := m) (x := x) (bytes := bytes) (hrec ▸ hstamp) hentryU hstate
    rw [endMoves_stays hends (by rw [hopen']; exact he') hend']
    rfl

end Sys2Proof.PieceProofs
end

section
/-! SUPPORT. A line's first piece: its stamp, and the lane that goes out of step at the third mismatch (R63 to R65). -/

namespace Sys2Proof.PieceProofs

open Sys2Proof Sys2Proof.Machine Sys2Proof.AcquisitionProofs Sys2Proof.RunProofs Sys2Proof.PathProofs Sys2Proof.GrantProofs
  Sys2Proof.WorkProofs

section
variable {m : SteeringMap} {l : Lane} {slot x : Nat} {s t : State} {bytes : List Byte}

/-! ### The stamp decided -/

theorem decideStamp_matched {i : BitVec 48} {check : Bool} (h : x = 0 ∧ 2 ≤ bytes.length ∧ check = true)
    (hi : leNat (bytes.take 2) = i.toNat % 65536) : decideStamp i check x bytes = .matched := by
  rw [decideStamp, if_pos h, if_pos hi]

theorem decideStamp_mismatched {i : BitVec 48} {check : Bool} (h : x = 0 ∧ 2 ≤ bytes.length ∧ check = true)
    (hi : leNat (bytes.take 2) ≠ i.toNat % 65536) : decideStamp i check x bytes = .mismatched := by
  rw [decideStamp, if_pos h, if_neg hi]

theorem decideStamp_skipped {i : BitVec 48} {check : Bool} (h : ¬(x = 0 ∧ 2 ≤ bytes.length ∧ check = true)) :
    decideStamp i check x bytes = .skipped := if_neg h

theorem decideStamp_decided (i : BitVec 48) (check : Bool) : decideStamp i check x bytes ≠ .unchecked := by
  unfold decideStamp
  split_ifs <;> exact StampState.noConfusion

theorem decideStamp_mismatched_iff {i : BitVec 48} {check : Bool} :
    decideStamp i check x bytes = .mismatched ↔
      x = 0 ∧ 2 ≤ bytes.length ∧ check = true ∧ leNat (bytes.take 2) ≠ i.toNat % 65536 := by
  unfold decideStamp
  split_ifs with h hi
  · simp [hi]
  · simp [h, hi]
  · simp only [false_iff]
    exact fun h' => h ⟨h'.1, h'.2.1, h'.2.2.1⟩

theorem linePlacement_cores (h : cores t = cores s) (r : SlotRecord) :
    linePlacement m l (recordEntry t r) = linePlacement m l (recordEntry s r) := by
  cases hs : recordEntry s r with
  | none => rw [recordEntry_none_cores h hs]
  | some e =>
    obtain ⟨e', he', hcore⟩ := recordEntry_some_cores h hs
    rw [he']
    simp only [linePlacement, (core_eq hcore).2.2.2.2.1]

theorem cores_gapAccounted (n : Nat) : cores (gapAccounted m l slot x n s) = cores s := by
  cases h : recordEntry s (slotRecord s l slot) with
  | none => rw [gapAccounted_none h]
  | some e => exact (work_gapAccounted h n).cores

/-- The state after the gap of a piece goes by the same stamp as the one before it. -/
theorem stampOf_gapAccounted {i : BitVec 48} {p : LanePlacement} (hi : slotFind slot s.ring.bindings = some i)
    (hp : linePlacement m l (recordEntry s (slotRecord s l slot)) = p) (n : Nat) :
    stampOf m l slot x bytes (gapAccounted m l slot x n s) = decideStamp i p.stampCheck x bytes := by
  have hrecord : recordEntry (gapAccounted m l slot x n s) (slotRecord (gapAccounted m l slot x n s) l slot) =
      recordEntry (gapAccounted m l slot x n s) (slotRecord s l slot) := by
    obtain ⟨made, hmade⟩ := slotRecord_gapAccounted m l slot x n s
    rw [hmade]
    rfl
  rw [stampOf, hrecord, linePlacement_cores (cores_gapAccounted n), hp, (oneSlot_gapAccounted m l slot x n s).bindings, hi]
  rfl

/-! ### The line and its lane up to the third mismatch -/

/-- The state in which a first piece has been accounted for but for the disposal of its new bytes. -/
def stampedLine (m : SteeringMap) (l : Lane) (slot x : Nat) (bytes : List Byte) (s : State) : State :=
  markRaised m l slot (markAfter m (slotRecord s l slot).fillMark x bytes.length)
    (stampPiece m l slot x bytes (gapAccounted m l slot x bytes.length s))

theorem pieceLined_disposal (m : SteeringMap) (l : Lane) (slot x : Nat) (bytes : List Byte) (s : State) :
    Disposal (stampedLine m l slot x bytes s) (pieceLined m l slot x bytes s) := by
  have h : pieceLined m l slot x bytes s = runDisposed m l slot x bytes s (stampedLine m l slot x bytes s) :=
    markRaised_disposal (disposeRun_cases ..) _
  rw [h]
  exact runDisposed_disposal ..

/-- What a first piece leaves of its line and its lane, before the lane can go out of step. -/
structure Stamped (m : SteeringMap) (l : Lane) (slot x n : Nat) (st : StampState) (s t : State) : Prop where
  step : t.ring.step = s.ring.step
  mismatches : t.ring.mismatches = s.ring.mismatches.set l (mismatchesAfter (s.ring.mismatches.get l) st)
  lanes : ∀ k ≠ l, t.ring.slots.get k = s.ring.slots.get k
  slots : ∀ j ≠ slot, slotRecord t l j = slotRecord s l j
  line :
    slotRecord t l slot =
      { lineAfter m (slotRecord s l slot) x n with
        fillMade := (slotRecord (gapAccounted m l slot x n s) l slot).fillMade
        stamp := st }

theorem stamped_pieceLined {st : StampState} (h : (slotRecord s l slot).stamp = .unchecked)
    (hst : stampOf m l slot x bytes (gapAccounted m l slot x bytes.length s) = st) (hdecided : st ≠ .unchecked) :
    Stamped m l slot x bytes.length st s (pieceLined m l slot x bytes s) := by
  obtain ⟨made, hmade⟩ := slotRecord_gapAccounted m l slot x bytes.length s
  have hgap := oneSlot_gapAccounted m l slot x bytes.length s
  have hunchecked : (slotRecord (gapAccounted m l slot x bytes.length s) l slot).stamp = .unchecked := by rw [hmade]; exact h
  have hring := stampPiece_ring (m := m) (x := x) (bytes := bytes) hunchecked
  have hrecord := slotRecord_stampPiece (m := m) (x := x) (bytes := bytes) hunchecked
  rw [hst] at hring hrecord
  rw [hmade] at hrecord
  have hraised := oneSlot_markRaised m l slot (markAfter m (slotRecord s l slot).fillMark x bytes.length)
    (stampPiece m l slot x bytes (gapAccounted m l slot x bytes.length s))
  have hline := slotRecord_markRaised m l slot (markAfter m (slotRecord s l slot).fillMark x bytes.length)
    (stampPiece m l slot x bytes (gapAccounted m l slot x bytes.length s))
  have hdisposal : (pieceLined m l slot x bytes s).ring = (markRaised m l slot
      (markAfter m (slotRecord s l slot).fillMark x bytes.length)
      (stampPiece m l slot x bytes (gapAccounted m l slot x bytes.length s))).ring := (pieceLined_disposal m l slot x bytes s).ring
  generalize pieceLined m l slot x bytes s = t at *
  generalize stampPiece m l slot x bytes (gapAccounted m l slot x bytes.length s) = u at *
  have hfill : (slotRecord (gapAccounted m l slot x bytes.length s) l slot).fillMade = made := by rw [hmade]
  generalize gapAccounted m l slot x bytes.length s = g at hgap hring hrecord
  refine ⟨?_, ?_, fun k hk => ?_, fun j hj => ?_, ?_⟩
  · rw [hdisposal, hraised.step, hring, ← hgap.step]
    rfl
  · rw [hdisposal, hraised.mismatches, hring, ← hgap.mismatches]
  · rw [hdisposal, hraised.lanes k hk, hring, ← hgap.lanes k hk]
    exact (oneSlot_setSlot l slot _ g).lanes k hk
  · rw [slotRecord_of_ring hdisposal, hraised.slots j hj, ← hgap.slots j hj]
    exact (slotRecord_of_lane (congrArg (fun r : LineRing => r.slots.get l) hring :) j).trans
      ((oneSlot_setSlot l slot _ g).slots j hj)
  · rw [slotRecord_of_ring hdisposal, hline, hrecord, hfill]
    have hmark : markAfter m (slotRecord s l slot).fillMark x bytes.length = lineBytes m ↔
      max (slotRecord s l slot).fillMark (min (x + bytes.length) (m.Lp * m.P)) = m.Lp * m.P := Iff.rfl
    unfold lineAfter
    by_cases hends : max (slotRecord s l slot).fillMark (min (x + bytes.length) (m.Lp * m.P)) = m.Lp * m.P
    · rw [if_pos (hmark.2 hends), if_pos hends, retiredRecord, if_neg hdecided]
      rfl
    · rw [if_neg (mt hmark.1 hends), if_neg hends]
      rfl

/-! ### A lane that goes out of step -/

/-- What giving lines of a lane up leaves alone, but for the records of these lines. -/
structure LaneKept (l : Lane) (s t : State) : Prop where
  step : t.ring.step = s.ring.step
  mismatches : t.ring.mismatches = s.ring.mismatches
  lanes : ∀ k ≠ l, t.ring.slots.get k = s.ring.slots.get k
  stamps : ∀ j, (slotRecord s l j).stamp ≠ .unchecked → (slotRecord t l j).stamp = (slotRecord s l j).stamp
  closed : ∀ j, (slotRecord s l j).state ≠ .opened → (slotRecord t l j).state ≠ .opened

theorem laneKept_of_ring (h : t.ring = s.ring) : LaneKept l s t :=
  ⟨by rw [h], by rw [h], fun _ _ => by rw [h], fun j _ => by rw [slotRecord_of_ring h], fun j hj => by
    rw [slotRecord_of_ring h]
    exact hj⟩

theorem LaneKept.trans {u : State} (hst : LaneKept l s t) (htu : LaneKept l t u) : LaneKept l s u where
  step := htu.step.trans hst.step
  mismatches := htu.mismatches.trans hst.mismatches
  lanes k hk := (htu.lanes k hk).trans (hst.lanes k hk)
  stamps j hj := (htu.stamps j (by rw [hst.stamps j hj]; exact hj)).trans (hst.stamps j hj)
  closed j hj := htu.closed j (hst.closed j hj)

theorem retiredRecord_stamp {r : SlotRecord} (h : r.stamp ≠ .unchecked) : (retiredRecord r).stamp = r.stamp := if_neg h

theorem forceRetire_closed (m : SteeringMap) (short : Bool) (l : Lane) (i : Nat) (s : State) :
    (slotRecord (forceRetire m short l i s) l i).state ≠ .opened := by
  obtain ⟨made, hmade⟩ := slotRecord_forceRetire m short l i s
  rw [hmade]
  exact BindState.noConfusion

theorem laneKept_forceRetire (m : SteeringMap) (short : Bool) (l : Lane) (i : Nat) (s : State) :
    LaneKept l s (forceRetire m short l i s) := by
  have hone := oneSlot_forceRetire m short l i s
  obtain ⟨made, hmade⟩ := slotRecord_forceRetire m short l i s
  refine ⟨hone.step, hone.mismatches, hone.lanes, fun j hj => ?_, fun j hj => ?_⟩
  · by_cases hi : j = i
    · rw [hi, hmade]
      exact retiredRecord_stamp (hi ▸ hj)
    · rw [hone.slots j hi]
  · by_cases hi : j = i
    · rw [hi]
      exact forceRetire_closed m short l i s
    · rw [hone.slots j hi]
      exact hj

theorem foldl_forceRetire (m : SteeringMap) (l : Lane) (order : List Nat) (s : State) :
    LaneKept l s (order.foldl (fun t i => forceRetire m false l i t) s) ∧
      ∀ i ∈ order, (slotRecord (order.foldl (fun t i => forceRetire m false l i t) s) l i).state ≠ .opened := by
  induction order generalizing s with
  | nil => exact ⟨laneKept_of_ring rfl, fun _ h => absurd h List.not_mem_nil⟩
  | cons i order ih =>
    obtain ⟨hkept, hclosed⟩ := ih (forceRetire m false l i s)
    refine ⟨(laneKept_forceRetire m false l i s).trans hkept, fun j hj => ?_⟩
    rcases List.mem_cons.1 hj with rfl | hj
    · exact hkept.closed j (forceRetire_closed m false l j s)
    · exact hclosed j hj

theorem mem_of_slotFind {α : Type} {k : Nat} {v : α} {xs : List (Nat × α)} (h : slotFind k xs = some v) : (k, v) ∈ xs := by
  induction xs with
  | nil => cases h
  | cons q xs ih =>
    unfold slotFind at h
    split at h
    next hk =>
      obtain rfl := hk
      obtain rfl := Option.some.inj h
      exact List.mem_cons_self
    next => exact List.mem_cons_of_mem _ (ih h)

theorem mem_openSlots {i : Nat} (h : (slotRecord s l i).state = .opened) : i ∈ openSlots s l := by
  cases hfind : slotFind i (s.ring.slots.get l) with
  | none =>
    rw [slotRecord, hfind] at h
    cases h
  | some r =>
    rw [slotRecord, hfind, Option.getD_some] at h
    exact List.mem_filterMap.2 ⟨_, mem_of_slotFind hfind, if_pos h⟩

/-- A lane that goes out of step: its state, no OPEN line, LANE_FAULT (R65). -/
theorem goOutOfStep_leaves (m : SteeringMap) (l : Lane) (s : State) :
    LaneKept l (laneOut l s) (goOutOfStep m l s) ∧ ∀ i, (slotRecord (goOutOfStep m l s) l i).state ≠ .opened := by
  obtain ⟨order, cs, n, hperm, heq⟩ := forEachOpenly_eq (fun i => forceOffers m l i (laneOut l s)) (openSlots (laneOut l s) l)
    (forceRetire m false l) (laneOut l s)
  obtain ⟨u, hu⟩ : ∃ u : State, u = { laneOut l s with choices := cs, choiceCount := n } := ⟨_, rfl⟩
  rw [show goOutOfStep m l s = _ from heq, ← hu]
  obtain ⟨hkept, hclosed⟩ := foldl_forceRetire m l order u
  have hall := (laneKept_of_ring (l := l) (show u.ring = (laneOut l s).ring by rw [hu])).trans hkept
  refine ⟨hall, fun i => ?_⟩
  by_cases hi : (slotRecord (laneOut l s) l i).state = .opened
  · exact hclosed i (hperm.mem_iff.2 (mem_openSlots hi))
  · exact hall.closed i hi

theorem goOutOfStep_fault (m : SteeringMap) (l : Lane) {s : State} (hrun : Running s) :
    pendingCause .laneFault (goOutOfStep m l s) = true := by
  have hout : pendingCause .laneFault (laneOut l s) = true := DecisionProofs.pendingCause_raise _ _
  have hmoves : LineMoves (laneOut l s) (goOutOfStep m l s) :=
    forEachOpenly_moves _ _ (fun i t ht => forceRetire_moves ht m false l i) hrun
  exact DecisionProofs.pendingCause_kept hmoves.run hout

end

end Sys2Proof.PieceProofs
end

section
/-! SUPPORT and PROOFS. What a first piece counts, and the lines given up at the third mismatch (R61, R63 to R65): O13. -/

namespace Sys2Proof.PieceProofs

open Sys2Proof Sys2Proof.Machine Sys2Proof.AcquisitionProofs Sys2Proof.RunProofs Sys2Proof.PathProofs Sys2Proof.GrantProofs
  Sys2Proof.WorkProofs

section
variable {m : SteeringMap} {l : Lane} {slot x : Nat} {s t : State} {bytes : List Byte}

/-! ### The counts of a first piece -/

theorem lineCounting_id (l : Lane) (ref : Option RowRef) : lineCounting l ref id = noCounting := by
  funext k l' c
  rw [lineCounting, id, ite_self]
  rfl

theorem lineCounting_then (l : Lane) (ref : Option RowRef) (f g : LaneCounts → LaneCounts) :
    (lineCounting l ref f).then (lineCounting l ref g) = lineCounting l ref (g ∘ f) := by
  funext k l' c
  unfold Counting.then lineCounting
  split <;> rfl

/-- Counting in the entry of a line that refers to none. -/
theorem Work.absent {os : Nat → Nat} {fills : List Job} (h : Work noCounting os fills s t)
    {r : SlotRecord} (hnone : recordEntry s r = none) (f : LaneCounts → LaneCounts) :
    Work (lineCounting l r.ref f) os fills s t :=
  h.congr (fun _ he l' c => (lineCounting_absent hnone l f he l' c).symm) (fun _ _ => rfl) rfl

/-- The counts that only a retirement or a mismatch moves. -/
def LineCountsKept (f : LaneCounts → LaneCounts) : Prop :=
  ∀ c, (f c).retired = c.retired ∧ (f c).filled = c.filled ∧ (f c).shortLines = c.shortLines ∧ (f c).mismatches = c.mismatches

theorem work_gap (m : SteeringMap) (l : Lane) (slot x n : Nat) (s : State) :
    ∃ f fills made, Work (lineCounting l (slotRecord s l slot).ref f) (fun _ => 0) fills s (gapAccounted m l slot x n s) ∧
      LineCountsKept f ∧ slotRecord (gapAccounted m l slot x n s) l slot = { slotRecord s l slot with fillMade := made } ∧
      (x = 0 → fills = [] ∧ made = (slotRecord s l slot).fillMade) := by
  cases h : recordEntry s (slotRecord s l slot) with
  | none =>
    rw [gapAccounted_none h]
    exact ⟨id, [], _, by rw [lineCounting_id]; exact work_refl s, fun _ => ⟨rfl, rfl, rfl, rfl⟩, rfl, fun _ => ⟨rfl, rfl⟩⟩
  | some e =>
    obtain ⟨href, -⟩ := recordEntry_some h
    have hwork := work_gapAccounted (m := m) (x := x) h n
    rw [← lineCounting_entry, ← href] at hwork
    refine ⟨_, _, _, hwork, fun _ => ⟨rfl, rfl, rfl, rfl⟩,
      slotRecord_gapFilled h n, fun hx => ?_⟩
    have hnil : gapFill m l x (slotRecord s l slot) e = [] :=
      not_not.1 fun hne => by simpa [hx] using (gapFill_ne_nil.1 hne).2
    rw [hnil]
    exact ⟨rfl, Bool.or_false _⟩

/-- A stamp that mismatches in a lane's counts (R64). -/
def stampCounts (st : StampState) (c : LaneCounts) : LaneCounts :=
  if st = .mismatched then { c with mismatches := satInc c.mismatches } else c

theorem work_mismatchCounted (l : Lane) (st : StampState) (r : SlotRecord) (s : State) :
    Work (lineCounting l r.ref (stampCounts st)) (fun _ => 0) [] s (mismatchCounted l st (recordEntry s r) s) := by
  cases h : recordEntry s r with
  | none => exact Work.absent (work_refl s) h _
  | some e =>
    obtain ⟨href, -⟩ := recordEntry_some h
    rw [href, lineCounting_entry]
    by_cases hst : st = .mismatched
    · have hcounts : stampCounts st = fun c => { c with mismatches := satInc c.mismatches } := funext fun c => if_pos hst
      rw [hcounts, mismatchCounted, if_pos hst]
      exact work_updateCounts e.key l _ s
    · have hcounts : stampCounts st = id := funext fun c => if_neg hst
      rw [hcounts, mismatchCounted, if_neg hst, ← lineCounting_entry, lineCounting_id]
      exact work_refl s

theorem work_stampPiece (h : (slotRecord s l slot).stamp = .unchecked) :
    Work (lineCounting l (slotRecord s l slot).ref (stampCounts (stampOf m l slot x bytes s))) (fun _ => 0) [] s
      (stampPiece m l slot x bytes s) := by
  rw [stampPiece_unchecked h]
  have hset (n : Nat) (r : SlotRecord) : Work noCounting (fun _ => 0) [] s (setMismatches l n (setSlot l slot r s)) :=
    work_of_same rfl rfl rfl rfl rfl
  exact (hset _ _).after_quiet (work_mismatchCounted l _ (slotRecord s l slot) (setMismatches l _ (setSlot l slot _ s)))

/-- What a first piece counts and offers, before its lane can go out of step. -/
theorem work_stampedLine {st : StampState} (h : (slotRecord s l slot).stamp = .unchecked)
    (hst : stampOf m l slot x bytes (gapAccounted m l slot x bytes.length s) = st) :
    ∃ f fills made, LineCountsKept f ∧ (x = 0 → fills = [] ∧ made = (slotRecord s l slot).fillMade) ∧
      slotRecord (gapAccounted m l slot x bytes.length s) l slot = { slotRecord s l slot with fillMade := made } ∧
      Work
        (lineCounting l (slotRecord s l slot).ref
          ((if markAfter m (slotRecord s l slot).fillMark x bytes.length = lineBytes m then retiredCounts made else id) ∘
            stampCounts st ∘ f))
        (fun _ => 0) fills s (stampedLine m l slot x bytes s) := by
  obtain ⟨f, fills, made, hgap, hkept, hmade, hzero⟩ := work_gap m l slot x bytes.length s
  refine ⟨f, fills, made, hkept, hzero, hmade, ?_⟩
  have hunchecked : (slotRecord (gapAccounted m l slot x bytes.length s) l slot).stamp = .unchecked := by rw [hmade]; exact h
  have hstamp := work_stampPiece (m := m) (x := x) (bytes := bytes) hunchecked
  have hrecord := slotRecord_stampPiece (m := m) (x := x) (bytes := bytes) hunchecked
  have hraised := work_markRaised m l slot (markAfter m (slotRecord s l slot).fillMark x bytes.length)
    (stampPiece m l slot x bytes (gapAccounted m l slot x bytes.length s))
  rw [hrecord, hmade] at hraised
  rw [hst, hmade] at hstamp
  have hall := (hgap.then_counts hstamp).then_counts hraised
  rw [lineCounting_then, lineCounting_then] at hall
  exact hall

/-! ### The mismatches of entries -/

/-- Entries as they were in their mismatches of a lane and their end rows. -/
def MismatchesKept (l : Lane) (s t : State) : Prop :=
  ∀ k e, findEntry s k = some e →
    ∃ e', findEntry t k = some e' ∧ (e'.counts.get l).mismatches = (e.counts.get l).mismatches ∧ e'.endRow = e.endRow

theorem MismatchesKept.trans {u : State} (hst : MismatchesKept l s t) (htu : MismatchesKept l t u) : MismatchesKept l s u := by
  intro k e he
  obtain ⟨e', he', hcount, hend⟩ := hst k e he
  obtain ⟨e'', he'', hcount', hend'⟩ := htu k e' he'
  exact ⟨e'', he'', hcount'.trans hcount, hend'.trans hend⟩

theorem mismatchesKept_of_table (h : t.table = s.table) : MismatchesKept l s t := fun k e he => by
  refine ⟨e, ?_, rfl, rfl⟩
  rw [findEntry, h]
  exact he

theorem disposal_table (h : Disposal s t) : t.table = s.table := by cases h <;> rfl

theorem disposal_list (h : Disposal s t) : t.list = s.list := by cases h <;> rfl

theorem mismatchesKept_of_work {ch : Counting} {os : Nat → Nat} {fills : List Job} (h : Work ch os fills s t)
    (hch : ∀ k c, (ch k l c).mismatches = c.mismatches) : MismatchesKept l s t := fun k e he => by
  obtain ⟨e', he', htallied⟩ := h.isSome he
  exact ⟨e', he', by rw [htallied.counts, hch], (core_eq htallied.core).2.2.2.1⟩

theorem mismatchesKept_forceRetire (m : SteeringMap) (l : Lane) (i : Nat) (s : State) :
    MismatchesKept l s (forceRetire m false l i s) :=
  mismatchesKept_of_work (work_forceRetire m false l i s) fun k c => by
    unfold givesUp lineCounting
    split <;> rfl

theorem mismatchesKept_goOutOfStep (m : SteeringMap) (l : Lane) (s : State) : MismatchesKept l s (goOutOfStep m l s) := by
  obtain ⟨order, cs, n, -, heq⟩ := forEachOpenly_eq (fun i => forceOffers m l i (laneOut l s)) (openSlots (laneOut l s) l)
    (forceRetire m false l) (laneOut l s)
  obtain ⟨u, hu⟩ : ∃ u : State, u = { laneOut l s with choices := cs, choiceCount := n } := ⟨_, rfl⟩
  rw [show goOutOfStep m l s = _ from heq, ← hu]
  have hstart : MismatchesKept l s u := mismatchesKept_of_table (by rw [hu]; rfl)
  clear hu heq
  induction order generalizing u with
  | nil => exact hstart
  | cons i order ih => exact ih _ (hstart.trans (mismatchesKept_forceRetire m l i u))

/-- The mismatches of the entry of a first piece's line (R64). -/
theorem accountOpen_mismatches {st : StampState} {k : Nat} {e : Entry} (h : (slotRecord s l slot).stamp = .unchecked)
    (hst : stampOf m l slot x bytes (gapAccounted m l slot x bytes.length s) = st)
    (href : (slotRecord s l slot).ref = some (.entry k)) (he : findEntry s k = some e) :
    ∃ e', findEntry (accountOpen m l slot x bytes s) k = some e' ∧
      (e'.counts.get l).mismatches =
        (if st = .mismatched then satInc (e.counts.get l).mismatches else (e.counts.get l).mismatches) ∧
      e'.endRow = e.endRow := by
  obtain ⟨f, fills, made, hkept, -, -, hwork⟩ := work_stampedLine h hst
  obtain ⟨e₁, he₁, htallied⟩ := hwork.isSome he
  have hlast : MismatchesKept l (stampedLine m l slot x bytes s) (accountOpen m l slot x bytes s) := by
    have hdisposed : MismatchesKept l (stampedLine m l slot x bytes s) (pieceLined m l slot x bytes s) :=
      mismatchesKept_of_table (disposal_table (pieceLined_disposal m l slot x bytes s))
    rcases accountOpen_cases m l slot x bytes s with hcase | hcase
    · rw [hcase]
      exact hdisposed
    · rw [hcase]
      exact hdisposed.trans (mismatchesKept_goOutOfStep m l _)
  obtain ⟨e', he', hcount, hend⟩ := hlast k e₁ he₁
  refine ⟨e', he', hcount.trans ?_, hend.trans (core_eq htallied.core).2.2.2.1⟩
  obtain rfl := findEntry_key he
  rw [htallied.counts l, href, lineCounting, if_pos ⟨rfl, rfl⟩]
  obtain ⟨-, -, -, hsame⟩ := hkept (e.counts.get l)
  have hretired (c : LaneCounts) :
      ((if markAfter m (slotRecord s l slot).fillMark x bytes.length = lineBytes m then retiredCounts made else id) c).mismatches =
        c.mismatches := by split <;> rfl
  rw [Function.comp_apply, hretired, Function.comp_apply, stampCounts]
  split
  · exact congrArg satInc hsame
  · exact hsame

end

end Sys2Proof.PieceProofs
end

section
/-! SUPPORT and PROOFS. The lines given up at the third mismatch, and what a first piece leaves (R61, R63 to R65): O13. -/

namespace Sys2Proof.PieceProofs

open Sys2Proof Sys2Proof.Machine Sys2Proof.AcquisitionProofs Sys2Proof.RunProofs Sys2Proof.PathProofs Sys2Proof.GrantProofs
  Sys2Proof.WorkProofs

section
variable {m : SteeringMap} {l : Lane} {slot x : Nat} {s t : State} {bytes : List Byte}

/-! ### The OPEN slots of a lane -/

theorem slotFind_of_mem {α : Type} {q : Nat × α} {xs : List (Nat × α)} (h : slotsRise xs) (hq : q ∈ xs) :
    slotFind q.1 xs = some q.2 := by
  induction xs with
  | nil => cases hq
  | cons p xs ih =>
    obtain ⟨hfirst, hrest⟩ := List.pairwise_cons.1 h
    rcases List.mem_cons.1 hq with rfl | hq
    · exact if_pos rfl
    · exact (if_neg (Nat.ne_of_lt (hfirst q hq))).trans (ih hrest hq)

theorem slotRecord_of_mem (h : slotsRise (s.ring.slots.get l)) {q : Nat × SlotRecord} (hq : q ∈ s.ring.slots.get l) :
    slotRecord s l q.1 = q.2 := by
  rw [slotRecord, slotFind_of_mem h hq, Option.getD_some]

theorem mem_openSlots_iff (h : slotsRise (s.ring.slots.get l)) {i : Nat} :
    i ∈ openSlots s l ↔ (slotRecord s l i).state = .opened := by
  refine ⟨fun hi => ?_, mem_openSlots⟩
  obtain ⟨q, hq, hopen⟩ := List.mem_filterMap.1 hi
  obtain ⟨hstate, hkey⟩ := Option.ite_none_right_eq_some.1 hopen
  rw [← Option.some.inj hkey, slotRecord_of_mem h hq]
  exact hstate

theorem openSlots_nodup (h : slotsRise (s.ring.slots.get l)) : (openSlots s l).Nodup := by
  refine List.pairwise_filterMap.2 (h.imp fun {p q} hlt i hi j hj => ?_)
  obtain ⟨-, hp⟩ := Option.ite_none_right_eq_some.1 hi
  obtain ⟨-, hq⟩ := Option.ite_none_right_eq_some.1 hj
  rw [← Option.some.inj hp, ← Option.some.inj hq]
  exact Nat.ne_of_lt hlt

/-- A line of a lane, its fill mark raised if it is that of the piece. -/
def markedRecord (s : State) (l : Lane) (slot mark i : Nat) : SlotRecord :=
  if i = slot then { slotRecord s l slot with fillMark := mark } else slotRecord s l i

theorem linesOf_eq (h : slotsRise (s.ring.slots.get l)) (slot mark : Nat) :
    linesOf s l slot mark = (openSlots s l).map (markedRecord s l slot mark) := by
  unfold linesOf openSlots
  rw [List.map_filterMap]
  refine List.filterMap_congr fun q hq => ?_
  have hrecord := slotRecord_of_mem h hq
  split
  next =>
    rw [Option.map_some, markedRecord]
    split
    next hslot => rw [← hslot, hrecord]
    next => rw [hrecord]
  next => rfl

/-! ### The lines given up -/

/-- The lines of a lane that goes out of step count and offer what R65 says. -/
theorem work_goOutOfStep (m : SteeringMap) (h : slotsRise (s.ring.slots.get l)) :
    ∃ order : List Nat, order.Perm (openSlots s l) ∧
      Work (.each (fun i => givesUp m s false l (slotRecord s l i)) order) (fun _ => 0)
        (order.flatMap fun i => leftFill m s l (slotRecord s l i)) (laneOut l s) (goOutOfStep m l s) := by
  obtain ⟨order, hperm, hwork⟩ := work_forEachOpenly (f := forceRetire m false l) (xs := openSlots (laneOut l s) l)
    (offers := fun i => forceOffers m l i (laneOut l s))
    (ch := fun i => givesUp m s false l (slotRecord s l i)) (os := fun _ _ => 0)
    (fills := fun i => leftFill m s l (slotRecord s l i))
    (P := fun i t => cores t = cores s ∧ slotRecord t l i = slotRecord s l i) (s := laneOut l s)
    (openSlots_nodup h)
    (fun i _ t ht => by
      obtain ⟨hcores, hrecord⟩ := ht
      have hgiven := work_forceRetire m false l i t
      rw [hrecord, givesUp_cores hcores, leftFill_cores hcores] at hgiven
      exact hgiven)
    (fun i _ j _ hij t hti htj => by
      refine ⟨(work_forceRetire m false l i t).cores.trans hti.1, ?_⟩
      rw [(oneSlot_forceRetire m false l i t).slots j (Ne.symm hij)]
      exact htj.2)
    (fun i _ cs n => ⟨rfl, rfl⟩)
  refine ⟨order, hperm, hwork.congr (fun _ _ _ _ => rfl) (fun _ _ => by simp) rfl⟩

theorem each_givesUp (m : SteeringMap) (s : State) (l : Lane) (record : Nat → SlotRecord) (order : List Nat) (k : Nat)
    (c : LaneCounts) :
    (Counting.each (fun i => givesUp m s false l (record i)) order k l c).retired =
        c.retired + BitVec.ofNat 32 (order.countP fun i => decide ((record i).ref = some (.entry k))) ∧
      (Counting.each (fun i => givesUp m s false l (record i)) order k l c).filled =
        c.filled +
          BitVec.ofNat 32
            (order.countP fun i =>
              decide ((record i).ref = some (.entry k)) &&
                ((record i).fillMade || decide (leftFill m s l (record i) ≠ []))) ∧
      (Counting.each (fun i => givesUp m s false l (record i)) order k l c).shortLines = c.shortLines := by
  induction order generalizing c with
  | nil => simp [Counting.each]
  | cons i order ih =>
    obtain ⟨hretired, hfilled, hshort⟩ := ih (givesUp m s false l (record i) k l c)
    rw [show Counting.each (fun i => givesUp m s false l (record i)) (i :: order) k l c =
      Counting.each (fun i => givesUp m s false l (record i)) order k l (givesUp m s false l (record i) k l c) from rfl,
      hretired, hfilled, hshort, List.countP_cons, List.countP_cons]
    by_cases href : (record i).ref = some (.entry k)
    · have hcounts : givesUp m s false l (record i) k l c =
          givenUpCounts false ((record i).fillMade || decide (leftFill m s l (record i) ≠ [])) c :=
        if_pos ⟨href, rfl⟩
      rw [hcounts]
      cases (record i).fillMade || decide (leftFill m s l (record i) ≠ []) <;>
        simp [givenUpCounts, retiredCounts, href, BitVec.ofNat_add, add_assoc, add_comm]
    · rw [show givesUp m s false l (record i) k l c = c from if_neg fun h => href h.1]
      simp [href]

theorem each_congr {ch ch' : Nat → Counting} {order : List Nat} (h : ∀ i ∈ order, ch i = ch' i) :
    Counting.each ch order = Counting.each ch' order := by
  funext k l c
  unfold Counting.each
  induction order generalizing c with
  | nil => rfl
  | cons i order ih =>
    rw [List.foldl_cons, List.foldl_cons, h i List.mem_cons_self]
    exact ih (fun j hj => h j (List.mem_cons_of_mem _ hj)) _

theorem ringOrdered_lineMoves (h : LineMoves s t) (hs : RingOrdered s) : RingOrdered t := by
  induction h with
  | refl => exact hs
  | tail _ hmove ih => exact hmove.ringOrdered ih

theorem ringOrdered_pieceLined (hrun : Running s) (hs : RingOrdered s) : RingOrdered (pieceLined m l slot x bytes s) := by
  have hgap := gapAccounted_moves hrun m l slot x bytes.length
  have hstamp : RingOrdered (stampPiece m l slot x bytes (gapAccounted m l slot x bytes.length s)) := by
    rcases stampPiece_moves (LineMoves.running hgap hrun) m l slot x bytes with h | ⟨u, n, hu, ht⟩
    · rw [h]
      exact ringOrdered_lineMoves hgap hs
    · exact ringOrdered_lineMoves ht (ringOrdered_lineMoves (hgap.trans hu) hs : RingOrdered u)
  have hline := ringOrdered_lineMoves (markRaised_moves
    (stampPiece_running bytes (LineMoves.running hgap hrun)) m l slot
      (markAfter m (slotRecord s l slot).fillMark x bytes.length)) hstamp
  have hring := (pieceLined_disposal m l slot x bytes s).ring
  unfold RingOrdered
  rw [hring]
  exact hline

theorem lineCounting_kept {F : LaneCounts → LaneCounts}
    (hF : ∀ c, (F c).retired = c.retired ∧ (F c).filled = c.filled ∧ (F c).shortLines = c.shortLines) (l : Lane)
    (ref : Option RowRef) (k : Nat) (c : LaneCounts) :
    (lineCounting l ref F k l c).retired = c.retired ∧ (lineCounting l ref F k l c).filled = c.filled ∧
      (lineCounting l ref F k l c).shortLines = c.shortLines := by
  unfold lineCounting
  split
  · exact hF c
  · exact ⟨rfl, rfl, rfl⟩

/-- A line that ends at its piece has nothing left to fill. -/
theorem leftFill_ended (m : SteeringMap) (s : State) (l : Lane) (slot : Nat) :
    leftFill m s l (markedRecord s l slot (lineBytes m) slot) = [] := by
  have hmark : (markedRecord s l slot (lineBytes m) slot).fillMark = lineBytes m := by rw [markedRecord, if_pos rfl]
  cases he : recordEntry s (markedRecord s l slot (lineBytes m) slot) with
  | none => exact leftFill_none he
  | some e =>
    rw [leftFill_some he, lineFill, hmark, if_neg]
    rintro ⟨hlt, -⟩
    have hend : keptEnd m (placedBy e l) ≤ lineBytes m := Nat.sub_le _ _
    omega

theorem givesUp_ended (m : SteeringMap) (s : State) (l : Lane) (slot : Nat) :
    givesUp m s false l (markedRecord s l slot (lineBytes m) slot) =
      lineCounting l (slotRecord s l slot).ref (retiredCounts (slotRecord s l slot).fillMade) := by
  rw [givesUp, leftFill_ended, markedRecord, if_pos rfl, show decide (([] : List Job) ≠ []) = false from rfl, Bool.or_false]
  rfl

/-- The lines that the third mismatch gives up, the piece's among them: what they count in the entries, and their fills. -/
theorem third_gives_up (hopen : (slotRecord s l slot).state = .opened) (h : (slotRecord s l slot).stamp = .unchecked)
    (hst : stampOf m l slot 0 bytes (gapAccounted m l slot 0 bytes.length s) = .mismatched) (hs : RingOrdered s)
    (hrun : Running s) {mark : Nat} (hmark : mark = markAfter m (slotRecord s l slot).fillMark 0 bytes.length)
    (hthird : accountOpen m l slot 0 bytes s = goOutOfStep m l (pieceLined m l slot 0 bytes s)) :
    (accountOpen m l slot 0 bytes s).table.entries.length = s.table.entries.length ∧
    ∃ order : List Nat, order.Perm (openSlots s l) ∧
      (∀ k e e', findEntry s k = some e → findEntry (accountOpen m l slot 0 bytes s) k = some e' →
        ∃ c : LaneCounts, c.retired = (e.counts.get l).retired ∧ c.filled = (e.counts.get l).filled ∧
          c.shortLines = (e.counts.get l).shortLines ∧
          e'.counts.get l = Counting.each (fun i => givesUp m s false l (markedRecord s l slot mark i)) order k l c) ∧
      (RoomFor s (order.flatMap fun i => leftFill m s l (markedRecord s l slot mark i)) →
        (accountOpen m l slot 0 bytes s).list =
          { s.list with jobs := s.list.jobs ++ order.flatMap fun i => leftFill m s l (markedRecord s l slot mark i) }) := by
  have hstamped := stamped_pieceLined h hst StampState.noConfusion
  obtain ⟨f, fills, made, hkept, hzero, hmade, hwork⟩ := work_stampedLine h hst
  obtain ⟨rfl, rfl⟩ := hzero rfl
  have htable := disposal_table (pieceLined_disposal m l slot 0 bytes s)
  have hlist := disposal_list (pieceLined_disposal m l slot 0 bytes s)
  have hordered := ringOrdered_pieceLined (m := m) (l := l) (slot := slot) (x := 0) (bytes := bytes) hrun hs
  have hline := hstamped.line
  rw [hmade] at hline
  rw [hthird]
  rw [← hmark] at hwork
  generalize pieceLined m l slot 0 bytes s = v at *
  generalize stampedLine m l slot 0 bytes s = w at *
  have hcores : cores v = cores s := by
    rw [← hwork.cores, cores, htable, cores]
  obtain ⟨order, hperm, hout⟩ := work_goOutOfStep m (hordered.2 l)
  have hsame (i : Nat) (hi : i ∈ openSlots v l) :
      givesUp m v false l (slotRecord v l i) = givesUp m s false l (markedRecord s l slot mark i) ∧
        leftFill m v l (slotRecord v l i) = leftFill m s l (markedRecord s l slot mark i) := by
    rw [givesUp_cores hcores, leftFill_cores hcores, markedRecord]
    by_cases hslot : i = slot
    · rw [if_pos hslot, hslot, hline]
      subst hmark
      exact ⟨rfl, rfl⟩
    · rw [if_neg hslot, hstamped.slots i hslot]
      exact ⟨rfl, rfl⟩
  rw [each_congr fun i hi => (hsame i (hperm.mem_iff.1 hi)).1,
    List.flatMap_congr fun i hi => (hsame i (hperm.mem_iff.1 hi)).2] at hout
  have hopenV (i : Nat) : i ∈ openSlots v l ↔ i ∈ openSlots s l ∧ (i = slot → mark ≠ lineBytes m) := by
    rw [mem_openSlots_iff (hordered.2 l), mem_openSlots_iff (hs.2 l)]
    by_cases hslot : i = slot
    · rw [hslot, hline]
      simp only [lineAfter, hopen, forall_const, true_and]
      rw [hmark]
      change (if markAfter m (slotRecord s l slot).fillMark 0 bytes.length = lineBytes m then _ else _) = _ ↔ _
      split <;> simp [*]
    · simp [hstamped.slots i hslot, hslot]
  have hcounts (k : Nat) (e e' : Entry) (he : findEntry s k = some e) (he' : findEntry (goOutOfStep m l v) k = some e') :
      e'.counts.get l = Counting.each (fun i => givesUp m s false l (markedRecord s l slot mark i)) order k l
        (lineCounting l (slotRecord s l slot).ref
          ((if mark = lineBytes m then retiredCounts (slotRecord s l slot).fillMade else id) ∘ stampCounts .mismatched ∘ f) k l
          (e.counts.get l)) := by
    obtain ⟨e₁, he₁, htallied⟩ := hwork.isSome he
    have hfound : findEntry (laneOut l v) k = some e₁ := by
      rw [← he₁, findEntry, findEntry, ← htable]
      rfl
    rw [(hout.entry hfound he').counts, htallied.counts, findEntry_key he, findEntry_key he₁]
  have hjoins (hroom : RoomFor s (order.flatMap fun i => leftFill m s l (markedRecord s l slot mark i))) :
      (goOutOfStep m l v).list =
        { s.list with jobs := s.list.jobs ++ order.flatMap fun i => leftFill m s l (markedRecord s l slot mark i) } := by
    have hroomW := hwork.room (xs := []) hroom
    rw [hout.joins (roomFor_perm hroomW (List.Perm.refl _) hlist (congrArg _ htable)), ← hwork.quiet rfl, ← hlist]
    rfl
  refine ⟨hout.length.trans ((congrArg (fun tb : RepeatTable => tb.entries.length) htable).trans hwork.length), ?_⟩
  have hF (c : LaneCounts) : (stampCounts .mismatched (f c)).retired = c.retired ∧
      (stampCounts .mismatched (f c)).filled = c.filled ∧ (stampCounts .mismatched (f c)).shortLines = c.shortLines := by
    obtain ⟨hretired, hfilled, hshort, -⟩ := hkept c
    exact ⟨hretired, hfilled, hshort⟩
  have hnodup := openSlots_nodup (hordered.2 l)
  have hslot : slot ∈ openSlots s l := mem_openSlots hopen
  by_cases hends : mark = lineBytes m
  · have hnot : slot ∉ openSlots v l := fun hmem => ((hopenV slot).1 hmem).2 rfl hends
    have hleft := leftFill_ended m s l slot
    refine ⟨slot :: order, ?_, fun k e e' he he' => ?_, fun hroom => ?_⟩
    · refine (hperm.cons slot).trans ((List.perm_ext_iff_of_nodup (List.nodup_cons.2 ⟨hnot, hnodup⟩)
        (openSlots_nodup (hs.2 l))).2 fun i => ?_)
      rw [List.mem_cons, hopenV]
      by_cases hi : i = slot
      · simp [hi, hslot]
      · simp [hi]
    · obtain ⟨hretired, hfilled, hshort⟩ := lineCounting_kept hF l (slotRecord s l slot).ref k (e.counts.get l)
      refine ⟨_, hretired, hfilled, hshort, (hcounts k e e' he he').trans ?_⟩
      rw [if_pos hends, hends, ← lineCounting_then]
      refine congrArg (Counting.each (fun i => givesUp m s false l (markedRecord s l slot (lineBytes m) i)) order k l) ?_
      dsimp only
      rw [givesUp_ended]
      rfl
    · rw [List.flatMap_cons, hends, hleft, List.nil_append] at hroom ⊢
      exact hends ▸ hjoins (hends ▸ hroom)
  · refine ⟨order, ?_, fun k e e' he he' => ?_, hjoins⟩
    · refine hperm.trans ((List.perm_ext_iff_of_nodup hnodup (openSlots_nodup (hs.2 l))).2 fun i => ?_)
      simp [hopenV, hends]
    · obtain ⟨hretired, hfilled, hshort⟩ := lineCounting_kept hF l (slotRecord s l slot).ref k (e.counts.get l)
      refine ⟨_, hretired, hfilled, hshort, (hcounts k e e' he he').trans ?_⟩
      rw [if_neg hends]
      rfl

end

end Sys2Proof.PieceProofs
end

section
/-! SUPPORT and PROOFS. What a first piece leaves (R61, R63 to R65): O13. -/

namespace Sys2Proof.PieceProofs

open Sys2Proof Sys2Proof.Machine Sys2Proof.AcquisitionProofs Sys2Proof.RunProofs Sys2Proof.PathProofs Sys2Proof.GrantProofs
  Sys2Proof.WorkProofs

section
variable {m : SteeringMap} {l : Lane} {slot x : Nat} {s : State} {bytes : List Byte} {st : StampState}

theorem lanes_set_get {α : Type} (v : Lanes α) (l : Lane) : v.set l (v.get l) = v := by
  refine Lanes.ext_get fun k => ?_
  by_cases hk : k = l
  · rw [hk, Lanes.get_set_same]
  · rw [Lanes.get_set_other _ _ hk]

theorem thirdMismatch_iff (h : (slotRecord s l slot).stamp = .unchecked)
    (hst : stampOf m l slot x bytes (gapAccounted m l slot x bytes.length s) = st) :
    thirdMismatch l slot s (stampPiece m l slot x bytes (gapAccounted m l slot x bytes.length s)) ↔
      st = .mismatched ∧ 2 ≤ s.ring.mismatches.get l := by
  obtain ⟨made, hmade⟩ := slotRecord_gapAccounted m l slot x bytes.length s
  have hunchecked : (slotRecord (gapAccounted m l slot x bytes.length s) l slot).stamp = .unchecked := by rw [hmade]; exact h
  have hmis : (stampPiece m l slot x bytes (gapAccounted m l slot x bytes.length s)).ring.mismatches.get l =
      mismatchesAfter (s.ring.mismatches.get l) st := by
    rw [stampPiece_ring hunchecked, hst, (oneSlot_gapAccounted m l slot x bytes.length s).mismatches]
    exact Lanes.get_set_same ..
  rw [thirdMismatch, slotRecord_stampPiece hunchecked, hst, hmis]
  constructor
  · rintro ⟨-, rfl, hthree⟩
    exact ⟨rfl, Nat.le_of_succ_le_succ hthree⟩
  · rintro ⟨rfl, htwo⟩
    exact ⟨h, rfl, Nat.succ_le_succ htwo⟩

theorem accountOpen_inStep (h : (slotRecord s l slot).stamp = .unchecked)
    (hst : stampOf m l slot x bytes (gapAccounted m l slot x bytes.length s) = st)
    (hfew : ¬(st = .mismatched ∧ 2 ≤ s.ring.mismatches.get l)) :
    accountOpen m l slot x bytes s = pieceLined m l slot x bytes s :=
  accountOpen_else rfl rfl (mt (thirdMismatch_iff h hst).1 hfew)

theorem accountOpen_outOfStep (h : (slotRecord s l slot).stamp = .unchecked)
    (hst : stampOf m l slot x bytes (gapAccounted m l slot x bytes.length s) = st)
    (hthird : st = .mismatched ∧ 2 ≤ s.ring.mismatches.get l) :
    accountOpen m l slot x bytes s = goOutOfStep m l (pieceLined m l slot x bytes s) :=
  accountOpen_third rfl rfl ((thirdMismatch_iff h hst).2 hthird)

/-- What a first piece leaves of its lane, whether or not the lane goes out of step. -/
structure FirstPiece (l : Lane) (slot : Nat) (st : StampState) (r : LineRing) (t : State) : Prop where
  mismatches : t.ring.mismatches = r.mismatches.set l (mismatchesAfter (r.mismatches.get l) st)
  lanes : ∀ k ≠ l, t.ring.slots.get k = r.slots.get k
  steps : ∀ k ≠ l, t.ring.step.get k = r.step.get k
  stamp : (slotRecord t l slot).stamp = st
  inStep : ¬(st = .mismatched ∧ 2 ≤ r.mismatches.get l) → t.ring.step = r.step
  outOfStep : st = .mismatched ∧ 2 ≤ r.mismatches.get l →
    t.ring.step.get l = .outOfStep ∧ ∀ i, (slotRecord t l i).state ≠ .opened

theorem firstPiece_accountOpen (h : (slotRecord s l slot).stamp = .unchecked)
    (hst : stampOf m l slot x bytes (gapAccounted m l slot x bytes.length s) = st) (hdecided : st ≠ .unchecked) :
    FirstPiece l slot st s.ring (accountOpen m l slot x bytes s) := by
  have hstamped := stamped_pieceLined h hst hdecided
  have hline : (slotRecord (pieceLined m l slot x bytes s) l slot).stamp = st := by rw [hstamped.line]
  by_cases hthird : st = .mismatched ∧ 2 ≤ s.ring.mismatches.get l
  · rw [accountOpen_outOfStep h hst hthird]
    obtain ⟨hkept, hclosed⟩ := goOutOfStep_leaves m l (pieceLined m l slot x bytes s)
    generalize pieceLined m l slot x bytes s = v at *
    refine ⟨hkept.mismatches.trans hstamped.mismatches, fun k hk => (hkept.lanes k hk).trans (hstamped.lanes k hk),
      fun k hk => ?_, ?_, fun hnot => absurd hthird hnot, fun _ => ⟨?_, hclosed⟩⟩
    · rw [hkept.step, ← hstamped.step]
      exact Lanes.get_set_other _ _ hk
    · rw [← hline]
      exact hkept.stamps slot (fun h' => hdecided (hline.symm.trans h'))
    · rw [hkept.step]
      exact Lanes.get_set_same ..
  · rw [accountOpen_inStep h hst hthird]
    exact ⟨hstamped.mismatches, hstamped.lanes, fun k _ => by rw [hstamped.step], hline, fun _ => hstamped.step,
      fun h' => absurd h' hthird⟩

theorem accountOpen_decode (bytes : List Byte) (hrun : Running s) : (accountOpen m l slot x bytes s).decode = s.decode := by
  obtain ⟨u, v, w, hu, hv, v', hv', hw, hlast⟩ := accountOpen_path m l slot x bytes hrun
  have hset : v.decode = u.decode := by rcases hv with rfl | ⟨n, rfl⟩ <;> rfl
  have hsent : w.decode = v'.decode := by cases hw <;> rfl
  rw [hlast.run.decode, hsent, hv'.run.decode, hset, hu.run.decode]

end

/-- The third mismatch in a row: the entries' counts, and the fills that join the list (R61, R65, R104). -/
theorem third_leaves {m : SteeringMap} {l : Lane} {slot : Nat} {s : State} {bytes : List Byte}
    (hopen : (slotRecord s l slot).state = .opened) (h : (slotRecord s l slot).stamp = .unchecked)
    (hst : stampOf m l slot 0 bytes (gapAccounted m l slot 0 bytes.length s) = .mismatched) (hrun : Running s)
    (htwo : 2 ≤ s.ring.mismatches.get l) (hs : RingOrdered s) {lines : List SlotRecord} {fills : List Job}
    (hlines : lines = linesOf s l slot (max (slotRecord s l slot).fillMark (min bytes.length (m.Lp * m.P))))
    (hfills : fills = lines.flatMap (leftFill m s l)) :
    (∀ k e e', findEntry s k = some e → findEntry (closeTests (accountOpen m l slot 0 bytes s)) k = some e' →
      (e'.counts.get l).retired =
          (e.counts.get l).retired + BitVec.ofNat 32 (lines.countP fun r => decide (r.ref = some (.entry k))) ∧
        (e'.counts.get l).filled =
          (e.counts.get l).filled +
            BitVec.ofNat 32
              (lines.countP fun r =>
                decide (r.ref = some (.entry k)) && (r.fillMade || decide (leftFill m s l r ≠ []))) ∧
        (e'.counts.get l).shortLines = (e.counts.get l).shortLines) ∧
      (RoomFor s fills →
        (closeTests (accountOpen m l slot 0 bytes s)).table.entries.length = s.table.entries.length →
        JoinsAtTail s (closeTests (accountOpen m l slot 0 bytes s)) fills) := by
  have hthird := accountOpen_outOfStep h hst ⟨rfl, htwo⟩
  obtain ⟨hlength, order, hperm, hcounts, hjoins⟩ := third_gives_up hopen h hst hs hrun rfl hthird
  have hends := closeTests_ends (accountOpen m l slot 0 bytes s)
  have hmark : max (slotRecord s l slot).fillMark (min bytes.length (m.Lp * m.P)) =
      markAfter m (slotRecord s l slot).fillMark 0 bytes.length := by
    rw [markAfter, Nat.zero_add]
    rfl
  rw [hmark, linesOf_eq (hs.2 l)] at hlines
  generalize markAfter m (slotRecord s l slot).fillMark 0 bytes.length = mark at *
  subst hlines
  rw [List.flatMap_map] at hfills
  refine ⟨fun k e e' he he' => ?_, fun hroom hlen => ?_⟩
  · obtain ⟨c, hretired, hfilled, hshort, hc⟩ := hcounts k e e' he (endMoves_found hends he')
    obtain ⟨hr, hf, hs⟩ := each_givesUp m s l (markedRecord s l slot mark) order k c
    rw [hc, hr, hf, hs, hretired, hfilled, hshort, List.countP_map, List.countP_map, hperm.countP_eq, hperm.countP_eq]
    exact ⟨rfl, rfl, rfl⟩
  · rw [endMoves_same hends (hlen.trans hlength.symm)]
    have hfillsPerm : (order.flatMap fun i => leftFill m s l (markedRecord s l slot mark i)).Perm fills := by
      rw [hfills]
      exact hperm.flatMap_right _
    exact ⟨_, hjoins (roomFor_perm hroom hfillsPerm rfl rfl), hfillsPerm⟩

/-- Settles O13: the stamp is decided, and the third mismatch in a row gives the lane's lines up. -/
theorem stampIsChecked : Obligations.StampIsChecked := by
  intro s m l slot x i bytes rest p hnext hdrain hm hstep hopen hstamp hi hplace
  have hplaced : linePlacement m l (recordEntry s (slotRecord s l slot)) = p := by
    rcases hplace with ⟨k, e, href, he, -, hp⟩ | ⟨href, hp⟩
    · have hentry : recordEntry s (slotRecord s l slot) = some e := by rw [recordEntry, href]; exact he
      rw [hentry, linePlacement, hp, Option.getD_some]
    · have hentry : recordEntry s (slotRecord s l slot) = none := by rw [recordEntry, href]
      rw [hentry, linePlacement]
      exact congrArg (Option.getD · noPlacement) hp
  have hexec := exec_piece hnext hm hstep hopen fun y hy => by
    rcases hplace with ⟨k, e, href, he, hstate, -⟩ | ⟨href, -⟩
    · rw [recordEntry, href] at hy
      exact Option.some.inj (he.symm.trans hy) ▸ hstate
    · rw [recordEntry, href] at hy
      cases hy
  obtain ⟨u, hu⟩ : ∃ u : State, u = { s with decode := rest } := ⟨_, rfl⟩
  have hrec : slotRecord u l slot = slotRecord s l slot := by rw [hu]; rfl
  have hring : u.ring = s.ring := by rw [hu]
  have htable : u.table = s.table := by rw [hu]
  have hrun : Running u := running_of_opened (l := l) (i := slot) (by rw [hu]; exact hm ▸ Option.some_ne_none m) (hrec ▸ hopen)
  have hst := stampOf_gapAccounted (m := m) (x := x) (s := u) (bytes := bytes) (hring ▸ hi)
    (p := p) (by rw [hrec, hu]; exact hplaced) bytes.length
  have hfirst := firstPiece_accountOpen (hrec ▸ hstamp) hst (decideStamp_decided _ _)
  rw [← hu] at hexec
  have hends := closeTests_ends (accountOpen m l slot x bytes u)
  have hframe := endMoves_frame hends (by rw [(accountOpen_keeps bytes hrun).1, hu]; exact hdrain)
  have hdecode := accountOpen_decode (m := m) (l := l) (slot := slot) (x := x) bytes hrun
  have hringT : (closeTests (accountOpen m l slot x bytes u)).ring = (accountOpen m l slot x bytes u).ring := by rw [hframe]
  rw [hring] at hfirst
  refine ⟨_, hexec, by rw [hframe, hdecode, hu], fun hcheck => ?_, fun hskip => ?_, fun k e href he => ⟨fun hend => ?_, ?_⟩,
    fun l' hl => ?_⟩
  · split
    next hmatch =>
      rw [decideStamp_matched hcheck hmatch] at hfirst
      refine ⟨?_, ?_, ?_⟩
      · rw [hringT, hfirst.mismatches]
        exact Lanes.get_set_same ..
      · rw [hringT]
        exact (hfirst.inStep fun h => StampState.noConfusion h.1)
      · rw [slotRecord_of_ring hringT]
        exact hfirst.stamp
    next hmatch =>
      rw [decideStamp_mismatched hcheck hmatch] at hfirst hst
      refine ⟨?_, ?_, fun hfew => ?_, fun hthird => ⟨?_, ?_, fun j => ?_, ?third⟩⟩
      · rw [hringT, hfirst.mismatches]
        exact Lanes.get_set_same ..
      · rw [slotRecord_of_ring hringT]
        exact hfirst.stamp
      · rw [hringT]
        exact (hfirst.inStep fun h => absurd h.2 (Nat.not_le.2 hfew))
      · rw [hringT]
        exact (hfirst.outOfStep ⟨rfl, hthird⟩).1
      · refine DecisionProofs.pendingCause_of_causes (causesKept_of_eq (by rw [hframe])) ?_
        rw [accountOpen_outOfStep (hrec ▸ hstamp) hst ⟨rfl, hring ▸ hthird⟩]
        exact goOutOfStep_fault m l (pieceLined_running bytes hrun)
      · rw [slotRecord_of_ring hringT]
        exact (hfirst.outOfStep ⟨rfl, hthird⟩).2 j
      case third =>
        intro lines fills hordered _ hlines hfills
        obtain rfl := hcheck.1
        have hleaves := third_leaves (s := u) (hrec ▸ hopen) (hrec ▸ hstamp) hst hrun (hring ▸ hthird) (by rw [hu]; exact hordered)
          (lines := lines) (fills := fills) (by rw [hu]; exact hlines) (by rw [hu]; exact hfills)
        rw [hu] at hleaves ⊢
        exact hleaves
  · rw [decideStamp_skipped (by
      rintro ⟨hx, hlen, hcheck⟩
      rcases hskip with h | h | h
      · exact h hx
      · omega
      · exact Bool.false_ne_true (h.symm.trans hcheck))] at hfirst
    refine ⟨?_, ?_, ?_⟩
    · rw [hringT, hfirst.mismatches]
      exact lanes_set_get _ _
    · rw [hringT]
      exact (hfirst.inStep fun h => StampState.noConfusion h.1)
    · rw [slotRecord_of_ring hringT]
      exact hfirst.stamp
  · obtain ⟨e', he', -, hend'⟩ := accountOpen_mismatches (hrec ▸ hstamp) hst (hrec ▸ href) (show findEntry u k = some e by
      rw [hu]; exact he)
    rw [endMoves_stays hends he' (hend'.trans hend)]
    rfl
  · intro e'' he''
    obtain ⟨e', he', hcount, -⟩ := accountOpen_mismatches (hrec ▸ hstamp) hst (hrec ▸ href) (show findEntry u k = some e by
      rw [hu]; exact he)
    obtain rfl := Option.some.inj (he'.symm.trans (endMoves_found hends he''))
    rw [hcount]
    simp only [decideStamp_mismatched_iff]
  · rw [hringT, hfirst.mismatches]
    exact ⟨Lanes.get_set_other _ _ hl, hfirst.steps l' hl, hfirst.lanes l' hl⟩

end Sys2Proof.PieceProofs
end

section
/-! SUPPORT. One entry that ends at an event (R93 to R96, R101, R107): which test ends it, what its close or its free leaves
on the list, and what the report of the table brings about. -/

namespace Sys2Proof.EndProofs

open Sys2Proof Sys2Proof.Machine Sys2Proof.AcquisitionProofs Sys2Proof.RunProofs Sys2Proof.PathProofs Sys2Proof.GrantProofs
  Sys2Proof.WorkProofs Sys2Proof.PieceProofs

section
variable {m : SteeringMap} {s t : State} {k : Nat} {e : Entry}

/-! ### The report of the table -/

/-- The report of the table sends, queues and counts nothing. -/
structure ReportKept (s t : State) : Prop where
  table : t.table = s.table
  list : t.list = s.list
  counters : t.counters = s.counters
  outlet : t.outlet = s.outlet
  reads : t.reads = s.reads
  decode : t.decode = s.decode
  opening : t.ringUnit.opening = s.ringUnit.opening

theorem adoptStaged_opening (s : State) : (adoptStaged s).ringUnit.opening = s.ringUnit.opening := by
  unfold adoptStaged
  split
  · rfl
  · unfold makeLive
    dsimp only
    split <;> rfl

theorem reportEmpty_kept (s : State) : ReportKept s (reportEmpty s) := by
  have hopening : (enterDisarmed s).ringUnit.opening = s.ringUnit.opening := adoptStaged_opening _
  unfold reportEmpty
  split
  · refine ⟨?_, ?_, ?_, ?_, ?_, ?_, hopening⟩ <;> rw [enterDisarmed_eq]
  · exact ⟨rfl, rfl, rfl, rfl, rfl, rfl, rfl⟩

theorem adoptStaged_bindings (h : s.ring.bindings = []) : (adoptStaged s).ring.bindings = [] := by
  unfold adoptStaged
  split
  · exact h
  · rfl

/-- The table's report, and the end of a drain that it can be (R101, R148). -/
theorem reportEmpty_reported {left : List Entry} {causes : BitVec 13} (htable : t.table.entries = left) (hacq : t.acq = s.acq)
    (hattention : t.attention = { s.attention with causes := causes }) : TableReported left causes s (reportEmpty t) := by
  refine ⟨by rw [(reportEmpty_kept t).table, htable], fun h => ?_, fun hdrain hnil => ?_⟩
  · have hsame : reportEmpty t = t := if_neg fun hand => h.elim (· (hacq ▸ hand.1)) (· (htable ▸ hand.2))
    rw [hsame]
    exact ⟨hacq, hattention⟩
  · have hends : reportEmpty t = enterDisarmed t := if_pos ⟨by rw [hacq]; exact hdrain, by rw [htable]; exact hnil⟩
    have hbindings : (enterDisarmed t).ring.bindings = [] := adoptStaged_bindings rfl
    rw [hends]
    refine ⟨?_, ?_, hbindings, ?_⟩
    · rw [enterDisarmed_eq]
    · rw [enterDisarmed_eq]
      rfl
    · rw [enterDisarmed_eq, hattention]

/-! ### The tests when one entry is complete -/

theorem testEntry_of_found (h : ∀ e, findEntry s k = some e → ∀ m, s.maps.live = some m → allRetired m e = false) :
    testEntry k s = s := by
  unfold testEntry
  split
  next e m he hm => rw [if_neg (ne_true_of_eq_false (h e he m hm))]
  next => rfl

/-- With one entry complete the tests are the test of that one. -/
theorem closeTests_of_one {w : State} (hm : s.maps.live = some m)
    (hothers : ∀ y ∈ s.table.entries, y.key ≠ k → allRetired m y = false) (he : findEntry s k = some e)
    (htest : testEntry k s = reportEmpty w) (htable : w.table.entries = s.table.entries.filter fun y => decide (y.key ≠ k))
    (hmaps : w.maps = s.maps) : closeTests s = reportEmpty w := by
  have hbefore (j : Nat) (hj : j ≠ k) : testEntry j s = s := testEntry_of_found fun y hy n hn => by
    obtain rfl := Option.some.inj (hm.symm.trans hn)
    exact hothers y (findEntry_mem hy) (findEntry_key hy ▸ hj)
  have hafter (j : Nat) : testEntry j (reportEmpty w) = reportEmpty w := testEntry_of_found fun y hy n hn => by
    have hmem := findEntry_mem hy
    rw [(reportEmpty_kept w).table, htable] at hmem
    obtain ⟨hmem', hkey⟩ := List.mem_filter.1 hmem
    have hsame : reportEmpty w = w := reportEmpty_of_entries (by
      rw [htable]
      exact List.ne_nil_of_mem hmem)
    rw [hsame, hmaps] at hn
    obtain rfl := Option.some.inj (hm.symm.trans hn)
    exact hothers y hmem' (of_decide_eq_true hkey)
  have hstays (ks : List Nat) : ks.foldl (fun t j => testEntry j t) (reportEmpty w) = reportEmpty w := by
    induction ks with
    | nil => rfl
    | cons j ks ih => rw [List.foldl_cons, hafter, ih]
  have hmem : k ∈ s.table.entries.map Entry.key := List.mem_map.2 ⟨e, findEntry_mem he, findEntry_key he⟩
  unfold closeTests
  generalize s.table.entries.map Entry.key = ks at hmem
  induction ks with
  | nil => cases hmem
  | cons j ks ih =>
    rw [List.foldl_cons]
    by_cases hj : j = k
    · rw [hj, htest, hstays]
    · rw [hbefore j hj]
      exact ih ((List.mem_cons.1 hmem).resolve_left (Ne.symm hj))

/-! ### The list at an entry's end -/

/-- Settling discards no job of those kept, when the first of these is not to be discarded. -/
theorem filter_settleJobs {q : Job → Bool} {es : List Entry} {js : List Job}
    (h : ∀ f rest, js.filter q = .fill f :: rest → resolveFill es f ≠ .discarded) :
    (settleJobs es js).filter q = js.filter q := by
  induction js with
  | nil => rfl
  | cons j js ih =>
    cases j with
    | record r => rfl
    | response r => rfl
    | fill f =>
      unfold settleJobs
      split
      next hdiscarded =>
        have hq : q (.fill f) = false := by
          by_contra hq
          rw [Bool.not_eq_false] at hq
          exact h f _ (List.filter_cons_of_pos hq) hdiscarded
        rw [List.filter_cons_of_neg (by rw [hq]; exact Bool.false_ne_true)] at h ⊢
        exact ih h
      next => rfl

theorem filter_settleList {q : Job → Bool}
    (h : ∀ f rest, s.list.jobs.filter q = .fill f :: rest → resolveFill s.table.entries f ≠ .discarded) :
    (settleList s).list.jobs.filter q = s.list.jobs.filter q := by
  unfold settleList
  split
  · exact filter_settleJobs h
  · rfl

theorem settleList_jobs (h : ∀ f rest, s.list.jobs = .fill f :: rest → resolveFill s.table.entries f ≠ .discarded) :
    (settleList s).list.jobs = s.list.jobs := by
  unfold settleList
  split
  · exact settleJobs_of_settled h
  · rfl

/-- The jobs left when the FILL jobs of an entry are removed, when the first of these is not to be discarded. -/
theorem removeJobs_jobs {p : Job → Bool}
    (h : ∀ f rest, (s.list.jobs.filter fun j => !p j) = .fill f :: rest → resolveFill s.table.entries f ≠ .discarded) :
    (removeJobs p s).list.jobs = s.list.jobs.filter fun j => !p j :=
  settleList_jobs h

theorem boundTo_eq (k : Nat) (b : Buffer) : bindJob k b = boundTo k b := by
  funext j
  cases j with
  | fill f =>
    by_cases hf : f.target = .entry k <;> simp [bindJob, boundTo, isFillOf, hf]
  | record r => rfl
  | response r => rfl

theorem otherJobs_bindJobs (k : Nat) (b : Buffer) (s : State) : otherJobs (bindJobs k b s) = otherJobs s := by
  unfold otherJobs bindJobs
  dsimp only
  induction s.list.jobs with
  | nil => rfl
  | cons j js ih =>
    cases j with
    | fill f =>
      have hfill : isFill (bindJob k b (.fill f)) = true := by
        unfold bindJob
        split <;> rfl
      rw [List.map_cons, List.filter_cons_of_neg (by rw [hfill]; exact Bool.noConfusion), ih,
        List.filter_cons_of_neg (by exact Bool.noConfusion)]
    | record r =>
      rw [List.map_cons]
      exact congrArg (Job.record r :: ·) ih
    | response r =>
      rw [List.map_cons]
      exact congrArg (Job.response r :: ·) ih

/-- The list of an OPEN entry whose jobs are bound to its buffer is settled as before. -/
theorem bindJobs_settled {b : Buffer} (hs : ListSettled s) (he : findEntry s k = some e) (hstate : e.state = .opened)
    (hb : e.buffer = some b) : ListSettled (bindJobs k b s) := by
  intro hp f js hjobs
  have hfind : s.table.entries.find? (fun y => decide (y.key = k)) = some e := he
  change s.list.jobs.map (bindJob k b) = .fill f :: js at hjobs
  rw [boundTo_eq] at hjobs
  obtain ⟨j, rest, hlist, hj, -⟩ := List.map_eq_cons_iff.1 hjobs
  cases j with
  | record r => cases hj
  | response r => cases hj
  | fill g =>
    have hhead := hs hp g rest hlist
    change (if g.target = .entry k then Job.fill { g with target := .bound b } else .fill g) = .fill f at hj
    split at hj
    next htarget =>
      obtain rfl := Job.fill.inj hj
      rw [resolveFill, htarget] at hhead
      simp only [hfind, hstate, hb] at hhead
      exact hhead
    next =>
      obtain rfl := Job.fill.inj hj
      exact hhead

/-! ### The two ends of an entry -/

/-- What is left before the table is reported when an OPEN entry closes. -/
def closed (e : Entry) (b : Buffer) (s : State) : State :=
  removeEntry e.key (queueRecord e .clean (bindJobs e.key b s))

/-- What is left before the table is reported when a DROPPED entry is freed. -/
def freed (key : Nat) (s : State) : State := removeEntry key (removeJobs (isFillOf key) s)

theorem closed_eq (e : Entry) (b : Buffer) (s : State) :
    closed e b s =
      { s with
        table := { s.table with
          entries := s.table.entries.filter fun y => decide (y.key ≠ e.key)
          droppedBefore := 0 }
        list := (queueRecord e .clean (bindJobs e.key b s)).list } := by
  rw [closed, removeEntry, queueRecord_eq]
  rfl

theorem freed_eq (key : Nat) (s : State) :
    freed key s =
      { s with
        table := { s.table with entries := s.table.entries.filter fun y => decide (y.key ≠ key) }
        list := (removeJobs (isFillOf key) s).list } := by
  rw [freed, removeEntry, removeJobs_eq]

/-- The one complete entry, OPEN: it closes (R93, R94). -/
theorem closeTests_closes {b : Buffer} (hm : s.maps.live = some m)
    (hothers : ∀ y ∈ s.table.entries, y.key ≠ e.key → allRetired m y = false) (he : findEntry s e.key = some e)
    (hr : allRetired m e = true) (hstate : e.state = .opened) (hb : e.buffer = some b) :
    closeTests s = reportEmpty (closed e b s) := by
  have htest : testEntry e.key s = reportEmpty (closed e b s) := by
    unfold testEntry
    simp only [he, hm, hr, hstate, if_true, closeEntry, hb]
    rfl
  exact closeTests_of_one hm hothers he htest (by rw [closed_eq]) (by rw [closed_eq])

/-- The one complete entry, DROPPED: it is freed (R93, R96). -/
theorem closeTests_frees (hm : s.maps.live = some m)
    (hothers : ∀ y ∈ s.table.entries, y.key ≠ e.key → allRetired m y = false) (he : findEntry s e.key = some e)
    (hr : allRetired m e = true) (hstate : e.state = .dropped) : closeTests s = reportEmpty (freed e.key s) := by
  have htest : testEntry e.key s = reportEmpty (freed e.key s) := by
    unfold testEntry
    simp only [he, hm, hr, hstate, if_true, freeEntry]
    rfl
  exact closeTests_of_one hm hothers he htest (by rw [freed_eq]) (by rw [freed_eq])

/-- The list when an OPEN entry closes: its FILL jobs bound where they stand, its record behind them (R94). -/
theorem closed_list {b : Buffer} (hm : s.maps.live = some m) (hs : ListSettled s) (he : findEntry s e.key = some e)
    (hstate : e.state = .opened) (hb : e.buffer = some b) :
    (closed e b s).list =
      { s.list with
        jobs := s.list.jobs.map (boundTo e.key b) ++ [.record (recordFor m e .clean s.table.droppedBefore)] } := by
  have hsettled : ListSettled { bindJobs e.key b s with table := { s.table with droppedBefore := 0 } } :=
    bindJobs_settled hs he hstate hb
  have hrecord : recordOf e .clean (bindJobs e.key b s) = recordFor m e .clean s.table.droppedBefore :=
    CommandProofs.recordOf_eq hm e .clean
  rw [closed_eq]
  dsimp only
  rw [queueRecord, show (bindJobs e.key b s).table = s.table from rfl, enqueue_of_settled hsettled rfl, hrecord, ← boundTo_eq]
  rfl

/-- What stands on the list besides FILL jobs when an OPEN entry closes. -/
theorem closed_others {b : Buffer} (hm : s.maps.live = some m) :
    otherJobs (closed e b s) = otherJobs s ++ [.record (recordFor m e .clean s.table.droppedBefore)] := by
  have hrecord : recordOf e .clean (bindJobs e.key b s) = recordFor m e .clean s.table.droppedBefore :=
    CommandProofs.recordOf_eq hm e .clean
  have hlist : otherJobs (closed e b s) = otherJobs (queueRecord e .clean (bindJobs e.key b s)) := rfl
  rw [hlist, queueRecord, CommandProofs.otherJobs_enqueue rfl, hrecord]
  exact congrArg (· ++ _) (otherJobs_bindJobs e.key b s)

/-- When a DROPPED entry is freed none of its FILL jobs is left, and only these go. -/
theorem freed_jobs {key : Nat} : (∀ j ∈ (freed key s).list.jobs, isFillOf key j = false) ∧
    otherJobs (freed key s) = otherJobs s ∧
    ((∀ f rest, (s.list.jobs.filter fun j => !isFillOf key j) = .fill f :: rest →
        resolveFill s.table.entries f ≠ .discarded) →
      (freed key s).list.jobs = s.list.jobs.filter fun j => !isFillOf key j) :=
  ⟨fun _ hj => (mem_removeJobs hj).2, CommandProofs.otherJobs_removeJobs (fun j hj => isFill_of_isFillOf key j hj) s,
    removeJobs_jobs⟩

end

end Sys2Proof.EndProofs
end

section
/-! SUPPORT and PROOFS. The piece that ends the last line of an entry's last lane (R61, R93 to R96, R101): O14. -/

namespace Sys2Proof.EndProofs

open Sys2Proof Sys2Proof.Machine Sys2Proof.AcquisitionProofs Sys2Proof.RunProofs Sys2Proof.PathProofs Sys2Proof.GrantProofs
  Sys2Proof.WorkProofs Sys2Proof.PieceProofs

section
variable {m : SteeringMap} {s t : State} {l : Lane} {slot x n : Nat} {e : Entry}

theorem satAdd_zero {w : Nat} (v : BitVec w) : satAdd v 0 = v := by
  rw [satAdd, if_neg (by have := v.isLt; omega)]
  simp

/-- The counts of a last piece that passes nothing over. -/
theorem countsAfter_last {p : LanePlacement} {r : SlotRecord} (hfrom : x ≤ r.fillMark) (hwithin : r.fillMark ≤ m.Lp * m.P)
    (hto : m.Lp * m.P ≤ x + n) (fills : Bool) (c : LaneCounts) :
    countsAfter m p r fills x n c =
      { c with
        retired := c.retired + 1
        filled := if r.fillMade then c.filled + 1 else c.filled
        discarded := satAdd c.discarded (r.fillMark - x) } := by
  have hends : max r.fillMark (min (x + n) (m.Lp * m.P)) = m.Lp * m.P := by omega
  have hgap : min x (m.Lp * m.P - p.trimR * m.P) - max r.fillMark (p.trimL * m.P) = 0 := by
    generalize m.Lp * m.P - p.trimR * m.P = a
    generalize p.trimL * m.P = b
    omega
  have hrewrite : min (x + n) r.fillMark - x = r.fillMark - x := by
    generalize m.Lp * m.P = b at *
    omega
  unfold countsAfter
  simp only [hends, hgap, hrewrite, satAdd_zero, Nat.lt_irrefl, and_false, or_false, if_true, true_and]

/-- An entry whose last line ends has retired all its rows (R93). -/
theorem allRetired_last {r : Nat} {f : LaneCounts → LaneCounts} (hend : e.endRow = some r) (hrows : r - e.firstRow < 2 ^ 32)
    (hf : ∀ c, (f c).retired = c.retired + 1)
    (hretired : ∀ l', (m.lanes.get l').isSome →
      (e.counts.get l').retired.toNat + (if l' = l then 1 else 0) = r - e.firstRow) :
    allRetired m (updateCounts l f e) = true := by
  have hrow : rowCount (updateCounts l f e) = r - e.firstRow := by
    change (match e.endRow with | some r => r - e.firstRow | none => 0) = _
    rw [hend]
  rw [allRetired, Bool.and_eq_true, List.all_eq_true]
  refine ⟨by change e.endRow.isSome = true; rw [hend]; rfl, fun l' _ => ?_⟩
  cases hlane : m.lanes.get l' with
  | none => rfl
  | some lm =>
    have hcount := hretired l' (by rw [hlane]; rfl)
    rw [hrow, Bool.or_eq_true, decide_eq_true_eq]
    refine .inr ?_
    change ((e.counts.set l (f (e.counts.get l))).get l').retired.toNat = _
    by_cases hl : l' = l
    · rw [hl] at hcount ⊢
      rw [if_pos rfl] at hcount
      rw [Lanes.get_set_same, hf, BitVec.toNat_add]
      change (_ + 1) % 2 ^ 32 = _
      rw [hcount, Nat.mod_eq_of_lt hrows]
    · rw [if_neg hl] at hcount
      rw [Lanes.get_set_other _ _ hl]
      exact hcount

theorem removeJobs_progress (p : Job → Bool) (h : s.list.progress = 0) : (removeJobs p s).list.progress = 0 := by
  unfold removeJobs
  dsimp only
  have hsettle (u : State) : (settleList u).list.progress = u.list.progress := by
    unfold settleList
    split <;> rfl
  rw [hsettle]
  dsimp only
  split
  · rfl
  · split
    · rfl
    · exact h

/-- The list when a DROPPED entry is freed, its head settled and not begun: the entry's FILL jobs go, the others stand. -/
theorem freed_left {key : Nat} (hs : ListSettled s) (hp : s.list.progress = 0) (he : findEntry s key = some e)
    (hstate : e.state = .dropped) :
    (freed key s).list = { jobs := s.list.jobs.filter fun j => !isFillOf key j, progress := 0 } := by
  obtain ⟨-, -, hjobs⟩ := freed_jobs (s := s) (key := key)
  have hfind : s.table.entries.find? (fun y => decide (y.key = key)) = some e := he
  have hhead : ∀ f rest, (s.list.jobs.filter fun j => !isFillOf key j) = .fill f :: rest →
      resolveFill s.table.entries f ≠ .discarded := by
    intro f rest hfilter
    cases hlist : s.list.jobs with
    | nil =>
      rw [hlist] at hfilter
      cases hfilter
    | cons j js =>
      rw [hlist] at hfilter
      by_cases hj : isFillOf key j = true
      · cases j with
        | record r => cases hj
        | response r => cases hj
        | fill g =>
          have htarget : g.target = .entry key := of_decide_eq_true hj
          exact absurd (by simp [resolveFill, htarget, hfind, hstate]) (hs hp g js hlist)
      · rw [List.filter_cons_of_pos (by simpa using hj)] at hfilter
        obtain ⟨rfl, -⟩ := List.cons.inj hfilter
        exact hs hp f js hlist
  have hlist := hjobs hhead
  have hprogress : (freed key s).list.progress = 0 := removeJobs_progress _ hp
  generalize (freed key s).list = list at *
  cases list
  rw [← hlist, ← hprogress]

end

/-- A piece that ends the last line of a lane of an entry, but for the disposal of its new bytes: the entry alone changes. -/
structure LastLine (m : SteeringMap) (e : Entry) (xs ys : List Entry) (s t : State) : Prop where
  entries : t.table.entries = xs ++ e :: ys
  table : t.table = { s.table with entries := xs ++ e :: ys }
  list : t.list = s.list
  attention : t.attention = s.attention
  counters : t.counters = s.counters
  outlet : t.outlet = s.outlet
  acq : t.acq = s.acq
  decode : t.decode = s.decode
  live : t.maps.live = some m
  settled : ListSettled s → ListSettled t

theorem lastLine_lined {m : SteeringMap} {l : Lane} {slot x n : Nat} {s : State} {e : Entry} {xs ys : List Entry}
    (h : recordEntry s (slotRecord s l slot) = some e) (hm : s.maps.live = some m)
    (hes : s.table.entries = xs ++ e :: ys) (hkeys : ∀ y ∈ xs ++ ys, y.key ≠ e.key)
    (hfrom : x ≤ (slotRecord s l slot).fillMark) :
    LastLine m
      (updateCounts l (countsAfter m (placedBy e l) (slotRecord s l slot) (entryLive e) x n) e) xs ys s
      (lined m l slot x n s) := by
  have hfills : gapFill m l x (slotRecord s l slot) e = [] := not_not.1 fun hne => by
    have hgap := (gapFill_ne_nil.1 hne).2
    generalize keptEnd m (placedBy e l) = a at hgap
    generalize keptStart m (placedBy e l) = b at hgap
    omega
  have hwork := work_lined (m := m) (x := x) h n
  rw [hfills] at hwork
  obtain ⟨hentries, hattention, hcounters⟩ := hwork.spares (.inl rfl)
  have hlist := hwork.quiet rfl
  have hframe := hwork.frame
  have hcores := hwork.cores
  generalize lined m l slot x n s = v at *
  have hnew : v.table.entries =
      xs ++ updateCounts l (countsAfter m (placedBy e l) (slotRecord s l slot) (entryLive e) x n) e :: ys := by
    rw [hentries, hes, funext (counted_of e.key l _)]
    exact map_at_key (key := Entry.key) hkeys _
  refine ⟨hnew, by rw [hframe, hnew], hlist, hattention, hcounters, by rw [hframe], by rw [hframe], by rw [hframe],
    by rw [hframe]; exact hm, fun hs => listSettled_of_resolves hs hlist fun f hf => ?_⟩
  rw [resolveFill_cores hcores]
  exact hf

/-- Settles O14: the piece that ends the last line of the last lane closes or frees the entry. -/
theorem repeatClosesWithItsRecord : Obligations.RepeatClosesWithItsRecord := by
  intro s m l slot x r bytes rest e xs ys hnext hm hlane hstep hopen hstamp href hes hothers hend hrows hfrom hwithin hto
    hretired hstate hsettled hprogress
  have hkeys (y : Entry) (hy : y ∈ xs ++ ys) : y.key ≠ e.key := (hothers y hy).1
  have he : findEntry s e.key = some e := by
    rw [findEntry, hes]
    exact find_at_key (key := Entry.key) hkeys
  have hentry : recordEntry s (slotRecord s l slot) = some e := by
    rw [recordEntry, href]
    exact he
  have hexec := exec_piece hnext hm hstep hopen fun y hy => by
    rw [hentry] at hy
    obtain rfl := Option.some.inj hy
    rcases hstate with ⟨hstate, -⟩ | hstate <;> rw [hstate] <;> exact EntryState.noConfusion
  obtain ⟨u, hu⟩ : ∃ u : State, u = { s with decode := rest } := ⟨_, rfl⟩
  have hrec : slotRecord u l slot = slotRecord s l slot := by rw [hu]; rfl
  have hentryU : recordEntry u (slotRecord u l slot) = some e := by rw [hrec, hu]; exact hentry
  have hlast := lastLine_lined (m := m) (x := x) (n := bytes.length) hentryU (by rw [hu]; exact hm) (by rw [hu]; exact hes) hkeys
    (hrec ▸ hfrom)
  have hcomplete := allRetired_last (m := m) (l := l)
    (f := countsAfter m (placedBy e l) (slotRecord u l slot) (entryLive e) x bytes.length) hend hrows
    (fun c => by rw [hrec, countsAfter_last hfrom hwithin hto]) hretired
  rw [← hu] at hexec
  rw [hrec] at hlast hcomplete
  have hcounts := countsAfter_last (m := m) (p := placedBy e l) hfrom hwithin hto (entryLive e) (e.counts.get l)
  obtain ⟨e', he'⟩ : ∃ e', e' = updateCounts l
    (countsAfter m (placedBy e l) (slotRecord s l slot) (entryLive e) x bytes.length) e := ⟨_, rfl⟩
  rw [← he'] at hlast hcomplete
  have hkeys' : ∀ y ∈ xs ++ ys, y.key ≠ e'.key := by rw [he']; exact hkeys
  have hother (w : State) (hw : w.table.entries = xs ++ e' :: ys) :
      (∀ y ∈ w.table.entries, y.key ≠ e'.key → allRetired m y = false) ∧ findEntry w e'.key = some e' ∧
        (w.table.entries.filter fun y => decide (y.key ≠ e'.key)) = xs ++ ys := by
    refine ⟨fun y hy hkey => ?_, ?_, ?_⟩
    · rw [hw] at hy
      rcases List.mem_append.1 hy with hy | hy
      · exact (hothers y (List.mem_append_left _ hy)).2
      · rcases List.mem_cons.1 hy with rfl | hy
        · exact absurd rfl hkey
        · exact (hothers y (List.mem_append_right _ hy)).2
    · rw [findEntry, hw]
      exact find_at_key (key := Entry.key) hkeys'
    · rw [hw]
      exact filter_at_key (key := Entry.key) hkeys'
  rcases hstate with ⟨hopened, hbuffer⟩ | hdropped
  case inl =>
    obtain ⟨b, hb⟩ := Option.isSome_iff_exists.1 hbuffer
    rw [accountOpen_opened (hrec ▸ hstamp) hentryU hopened] at hexec
    generalize lined m l slot x bytes.length u = v at *
    obtain ⟨w, hw⟩ : ∃ w : State, w =
      { v with outlet := u.outlet ++ (pieceWrite m l x bytes (slotRecord u l slot) e).toList } := ⟨_, rfl⟩
    obtain ⟨hothersW, hfoundW, hfilterW⟩ := hother w (by rw [hw]; exact hlast.entries)
    have hstate' : e'.state = .opened := by rw [he']; exact hopened
    have hb' : e'.buffer = some b := by rw [he']; exact hb
    have hlive : w.maps.live = some m := by rw [hw]; exact hlast.live
    have hsettledW : ListSettled w := by rw [hw]; exact hlast.settled (by rw [hu]; exact hsettled)
    have hlist := closed_list hlive hsettledW hfoundW hstate' hb'
    rw [← hw, closeTests_closes hlive hothersW hfoundW hcomplete hstate' hb'] at hexec
    have hkept := reportEmpty_kept (closed e' b w)
    have hreported := reportEmpty_reported (t := closed e' b w) (s := s) (left := xs ++ ys) (causes := s.attention.causes)
      (by rw [closed_eq]; exact hfilterW) (by rw [closed_eq, hw]; exact hlast.acq.trans (by rw [hu]))
      (by rw [closed_eq, hw]; exact hlast.attention.trans (by rw [hu]))
    obtain ⟨hentries, hkeeps, hdrains⟩ := hreported
    refine ⟨_, hexec, ?_, hentries, ?_, fun _ b' hb'' => ⟨?_, ?_, ?_⟩, fun h => ?_, hkeeps, hdrains⟩
    · rw [hkept.decode, closed_eq, hw]
      exact hlast.decode.trans (by rw [hu])
    · rw [hkept.table, closed_eq, hw, hlast.table, hu]
    · obtain rfl := Option.some.inj (hb.symm.trans hb'')
      have hlistW : w.list = s.list := by rw [hw, ← show u.list = s.list by rw [hu]]; exact hlast.list
      have hbefore : w.table.droppedBefore = s.table.droppedBefore := by rw [hw, hlast.table, hu]
      rw [hkept.list, hlist, hlistW, hbefore, he']
      simp only [recordFor, updateCounts, hend, hb, hcounts, hprogress, Option.getD_some, Option.map_some]
    · rw [hkept.table, closed_eq]
    · rw [hkept.counters, closed_eq, hw]
      exact hlast.counters.trans (by rw [hu])
    · rw [hopened] at h
      cases h
  case inr =>
    have hdisposed : accountOpen m l slot x bytes u = bump .absorbedWrites (lined m l slot x bytes.length u) := by
      rw [accountOpen_decided (hrec ▸ hstamp), runDisposed, hentryU]
      exact congrFun (disposeRun_absorbed (fun _ h => Option.some.inj h ▸ hdropped) ..) _
    rw [hdisposed] at hexec
    generalize lined m l slot x bytes.length u = v at *
    obtain ⟨w, hw⟩ : ∃ w : State, w = bump .absorbedWrites v := ⟨_, rfl⟩
    obtain ⟨hothersW, hfoundW, hfilterW⟩ := hother w (by rw [hw]; exact hlast.entries)
    have hstate' : e'.state = .dropped := by rw [he']; exact hdropped
    have hlive : w.maps.live = some m := by rw [hw]; exact hlast.live
    have hlistW : w.list = s.list := by rw [hw, ← show u.list = s.list by rw [hu]]; exact hlast.list
    have hsettledW : ListSettled w := by rw [hw]; exact hlast.settled (by rw [hu]; exact hsettled)
    rw [← hw, closeTests_frees hlive hothersW hfoundW hcomplete hstate'] at hexec
    have hkept := reportEmpty_kept (freed e'.key w)
    obtain ⟨hentries, hkeeps, hdrains⟩ := reportEmpty_reported (t := freed e'.key w) (s := s) (left := xs ++ ys)
      (causes := s.attention.causes) (by rw [freed_eq]; exact hfilterW) (by rw [freed_eq, hw]; exact hlast.acq.trans (by rw [hu]))
      (by rw [freed_eq, hw]; exact hlast.attention.trans (by rw [hu]))
    have hkey : e'.key = e.key := by rw [he']; rfl
    have hjobs := freed_left hsettledW (by rw [hlistW]; exact hprogress) hfoundW hstate'
    refine ⟨_, hexec, ?_, hentries, ?_, fun h => ?_, fun _ => ⟨?_, ?_, ?_, ?_⟩, hkeeps, hdrains⟩
    · rw [hkept.decode, freed_eq, hw]
      exact hlast.decode.trans (by rw [hu])
    · rw [hkept.table, freed_eq, hw]
      exact (congrArg RepeatTable.nextSeq hlast.table).trans (by rw [hu])
    · rw [hdropped] at h
      cases h
    · rw [hkept.list, hjobs, hlistW, hkey]
    · rw [hkept.table, freed_eq, hw]
      exact (congrArg RepeatTable.droppedBefore hlast.table).trans (by rw [hu])
    · rw [hkept.outlet, freed_eq, hw]
      exact hlast.outlet.trans (by rw [hu])
    · rw [hkept.counters, freed_eq, hw, show (bump .absorbedWrites v).counters =
        { v.counters with absorbedWrites := satInc v.counters.absorbedWrites } from rfl, hlast.counters, hu]

end Sys2Proof.EndProofs
end

section
/-! SUPPORT. The Ring Unit over the ends of entries, and an entry whose operation ends (R87, R100, R101, R114, R137). -/

namespace Sys2Proof.EndProofs

open Sys2Proof Sys2Proof.Machine Sys2Proof.AcquisitionProofs Sys2Proof.RunProofs Sys2Proof.PathProofs Sys2Proof.GrantProofs
  Sys2Proof.WorkProofs Sys2Proof.PieceProofs

section
variable {m : SteeringMap} {s t : State} {k : Nat} {e : Entry}

/-! ### What the ends of entries keep of the Ring Unit -/

/-- What the ends of entries count, read and leave of an opening operation. -/
structure UnitKept (s t : State) : Prop where
  counters : t.counters = s.counters
  reads : t.reads = s.reads
  opening : t.ringUnit.opening = s.ringUnit.opening

theorem endMove_unit (h : EndMove s t) : UnitKept s t := by
  cases h with
  | @close e _ _ _ _ _ _ =>
    have hkept := reportEmpty_kept (closed e (e.buffer.getD { base := 0, stride := 0, capacity := 0 }) s)
    exact ⟨hkept.counters.trans (by rw [closed_eq]), hkept.reads.trans (by rw [closed_eq]),
      hkept.opening.trans (by rw [closed_eq])⟩
  | @free e _ _ _ _ _ _ =>
    have hkept := reportEmpty_kept (freed e.key s)
    exact ⟨hkept.counters.trans (by rw [freed_eq]), hkept.reads.trans (by rw [freed_eq]),
      hkept.opening.trans (by rw [freed_eq])⟩

theorem endMoves_unit (h : EndMoves s t) : UnitKept s t := by
  induction h with
  | refl => exact ⟨rfl, rfl, rfl⟩
  | tail _ hmove ih =>
    have hnext := endMove_unit hmove
    exact ⟨hnext.counters.trans ih.counters, hnext.reads.trans ih.reads, hnext.opening.trans ih.opening⟩

theorem closeTests_unit (s : State) : UnitKept s (closeTests s) := endMoves_unit (closeTests_ends s)

/-- A staged map that agrees with the live one in every frozen field leaves the ring counts (R114). -/
theorem adoptStaged_ringUnit {l : SteeringMap} (hlive : s.maps.live = some l)
    (h : ∀ n, s.maps.staged = some n → FrozenAgree l n) : (adoptStaged s).ringUnit = s.ringUnit := by
  unfold adoptStaged
  split
  next => rfl
  next n hstaged =>
    obtain ⟨-, -, -, -, -, -, -, -, -, -, -, -, hbase, hB⟩ := h n hstaged
    refine (MapProofs.makeLive_ringUnit n _).trans (if_neg ?_)
    change ¬ringChanges s.maps.live n = true
    rw [hlive, MapProofs.ringChanges_same hbase hB]
    exact Bool.false_ne_true

theorem adoptStaged_staged (s : State) : (adoptStaged s).maps.staged = none := by
  unfold adoptStaged
  split
  next h => exact h
  next => rfl

theorem reportEmpty_agrees (h : MapsAgree s) : (reportEmpty s).ringUnit = s.ringUnit ∧ MapsAgree (reportEmpty s) := by
  unfold reportEmpty
  split
  next hdrain =>
    obtain ⟨l, hlive, hagree⟩ := h.2 (by rw [hdrain.1]; exact AcqState.noConfusion)
    have hunit : (enterDisarmed s).ringUnit = s.ringUnit :=
      adoptStaged_ringUnit (s := clearRing (trackerIdle (setAcq .disarmed .none s))) hlive hagree
    have hstaged : (enterDisarmed s).maps.staged = none := adoptStaged_staged _
    refine ⟨hunit, fun _ => hstaged, fun ha => absurd ?_ ha⟩
    rw [enterDisarmed_eq]
  next => exact ⟨rfl, h⟩

theorem mapsAgree_of_same (h : MapsAgree s) (hacq : t.acq = s.acq) (hmaps : t.maps = s.maps) : MapsAgree t := by
  unfold MapsAgree
  rw [hacq, hmaps]
  exact h

theorem endMove_agrees (h : EndMove s t) (hs : MapsAgree s) : t.ringUnit = s.ringUnit ∧ MapsAgree t := by
  cases h with
  | @close e _ _ _ _ _ _ =>
    obtain ⟨hunit, hagree⟩ := reportEmpty_agrees (s := closed e (e.buffer.getD { base := 0, stride := 0, capacity := 0 }) s)
      (mapsAgree_of_same hs (by rw [closed_eq]) (by rw [closed_eq]))
    exact ⟨hunit.trans (by rw [closed_eq]), hagree⟩
  | @free e _ _ _ _ _ _ =>
    obtain ⟨hunit, hagree⟩ := reportEmpty_agrees (s := freed e.key s)
      (mapsAgree_of_same hs (by rw [freed_eq]) (by rw [freed_eq]))
    exact ⟨hunit.trans (by rw [freed_eq]), hagree⟩

theorem endMoves_agree (h : EndMoves s t) (hs : MapsAgree s) : t.ringUnit = s.ringUnit ∧ MapsAgree t := by
  induction h with
  | refl => exact ⟨rfl, hs⟩
  | tail _ hmove ih =>
    obtain ⟨hunit, hagree⟩ := endMove_agrees hmove ih.2
    exact ⟨hunit.trans ih.1, hagree⟩

/-- The ends of entries leave the ring counts, whatever drain they end, while the maps agree. -/
theorem closeTests_ringUnit (h : MapsAgree s) : (closeTests s).ringUnit = s.ringUnit := (endMoves_agree (closeTests_ends s) h).1

/-! ### One entry changed in its state -/

/-- The entries with the one of a key changed. -/
def changedAt (k : Nat) (f : Entry → Entry) (es : List Entry) : List Entry := es.map fun y => if y.key = k then f y else y

theorem filter_changedAt {f : Entry → Entry} (hf : ∀ y, (f y).key = y.key) (es : List Entry) :
    (changedAt k f es).filter (fun y => decide (y.key ≠ k)) = es.filter fun y => decide (y.key ≠ k) := by
  unfold changedAt
  induction es with
  | nil => rfl
  | cons y es ih =>
    rw [List.map_cons]
    by_cases hy : y.key = k
    · rw [if_pos hy, List.filter_cons_of_neg (by simp [hf, hy]), List.filter_cons_of_neg (by simp [hy]), ih]
    · rw [if_neg hy, List.filter_cons_of_pos (by simp [hy]), List.filter_cons_of_pos (by simp [hy]), ih]

theorem resolveFill_changedAt {f : Entry → Entry} (hf : ∀ y, (f y).key = y.key) (es : List Entry) {j : FillJob}
    (hj : j.target ≠ .entry k) : resolveFill (changedAt k f es) j = resolveFill es j := by
  rw [← resolveFill_filter _ hj, filter_changedAt hf, resolveFill_filter _ hj]

theorem mem_changedAt_other {f : Entry → Entry} (hf : ∀ y, (f y).key = y.key) {es : List Entry} {y : Entry}
    (hy : y ∈ changedAt k f es) (hk : y.key ≠ k) : y ∈ es := by
  have hmem : y ∈ (changedAt k f es).filter fun y => decide (y.key ≠ k) := List.mem_filter.2 ⟨hy, decide_eq_true hk⟩
  rw [filter_changedAt hf] at hmem
  exact (List.mem_filter.1 hmem).1

/-- A change that leaves an entry's rows and counts leaves it as complete as it was. -/
theorem noneComplete_changedAt {f : Entry → Entry} (hf : ∀ y, allRetired m (f y) = allRetired m y) (h : NoneComplete m s)
    (ht : t.table.entries = changedAt k f s.table.entries) : NoneComplete m t := by
  intro y hy
  rw [ht] at hy
  obtain ⟨x, hx, rfl⟩ := List.mem_map.1 hy
  split
  · rw [hf]
    exact h x hx
  · exact h x hx

theorem allRetired_alone (h : AloneComplete m k s) (he : findEntry s k = some e) : allRetired m e = true := by
  have hentry := h.2 e (findEntry_mem he)
  rw [if_pos (findEntry_key he)] at hentry
  obtain ⟨r, hend, hcounts⟩ := hentry
  rw [allRetired, Bool.and_eq_true, List.all_eq_true, hend]
  refine ⟨rfl, fun l _ => ?_⟩
  cases hlane : m.lanes.get l with
  | none => rfl
  | some lm =>
    rw [Bool.or_eq_true, decide_eq_true_eq, rowCount, hend]
    exact .inr (hcounts l (by rw [hlane]; rfl))

theorem others_alone (h : AloneComplete m k s) {f : Entry → Entry} (hf : ∀ y, (f y).key = y.key)
    (ht : t.table.entries = changedAt k f s.table.entries) : ∀ y ∈ t.table.entries, y.key ≠ k → allRetired m y = false := by
  intro y hy hk
  rw [ht] at hy
  have hentry := h.2 y (mem_changedAt_other hf hy hk)
  rwa [if_neg hk] at hentry

theorem findEntry_changedAt {f : Entry → Entry} (hf : ∀ y, (f y).key = y.key) (he : findEntry s k = some e)
    (ht : t.table.entries = changedAt k f s.table.entries) : findEntry t k = some (f e) := by
  rw [findEntry, ht]
  exact findEntry_updateEntry hf he

/-- The jobs that are no FILL jobs of an entry stand as they do, when the first of them is not to be discarded. -/
theorem left_settled {left : List Job} (hleft : left = s.list.jobs.filter fun j => !isFillOf k j)
    (hs : ListSettled { s with list := { jobs := left, progress := 0 } }) {f : Entry → Entry} (hf : ∀ y, (f y).key = y.key)
    {es : List Entry} (hes : es = changedAt k f s.table.entries) :
    ∀ g rest, left = .fill g :: rest → resolveFill es g ≠ .discarded := by
  intro g rest hg
  have hmem : Job.fill g ∈ s.list.jobs.filter fun j => !isFillOf k j := by rw [← hleft, hg]; exact List.mem_cons_self
  have htarget : g.target ≠ .entry k := target_of_not_isFillOf (by simpa using (List.mem_filter.1 hmem).2)
  rw [hes, resolveFill_changedAt hf _ htarget]
  exact hs rfl g rest hg

end

end Sys2Proof.EndProofs
end

section
/-! SUPPORT and PROOFS. The return count of an opening operation (R115 to R118): O41. -/

namespace Sys2Proof.EndProofs

open Sys2Proof Sys2Proof.Machine Sys2Proof.AcquisitionProofs Sys2Proof.RunProofs Sys2Proof.PathProofs Sys2Proof.GrantProofs
  Sys2Proof.WorkProofs Sys2Proof.PieceProofs

section
variable {m : SteeringMap} {s t d : State} {k : Nat} {e : Entry}

/-! ### The return count judged (R116, R117) -/

/-- The state with a return count, with causes pending and a count of bus faults. -/
def judged (ret : BitVec 32) (causes : BitVec 13) (faults : BitVec 32) (s : State) : State :=
  { s with
    ringUnit := { s.ringUnit with returned := ret }
    attention := { s.attention with causes := causes }
    counters := { s.counters with busFaults := faults } }

theorem causeSet_ringFault : causeSet .ringFault = 128 := by decide

theorem judgeReturnCount_eq {c : Completion} {r : BridgeRead} {ret : BitVec 32} {causes : BitVec 13} (hlen : r.len = 4)
    (h : (ret, causes) =
      (if c.ok = false ∨ c.data.length ≠ 4 then (s.ringUnit.returned, s.attention.causes ||| 256)
      else if BitVec.ofNat 32 (leNat c.data) - s.ringUnit.returned ≤ s.ringUnit.taken - s.ringUnit.returned then
        (BitVec.ofNat 32 (leNat c.data), s.attention.causes)
      else (s.ringUnit.returned, s.attention.causes ||| 128))) :
    judgeReturnCount ((deliveredData r c).map fun bs => BitVec.ofNat 32 (leNat bs)) s =
      judged ret causes
        (if c.ok = false ∨ c.data.length ≠ 4 then satInc s.counters.busFaults else s.counters.busFaults) s := by
  by_cases hfailed : c.ok = false ∨ c.data.length ≠ 4
  · rw [if_pos hfailed] at h ⊢
    obtain ⟨rfl, rfl⟩ := Prod.mk.inj h
    rw [CommandProofs.deliveredData_failed (by rw [hlen]; exact hfailed), ← CommandProofs.causeSet_busFault]
    rfl
  · rw [if_neg hfailed] at h ⊢
    obtain ⟨hok, hdata⟩ := not_or.1 hfailed
    rw [CommandProofs.deliveredData_ok (by simpa using hok) (by rw [hlen]; exact not_not.1 hdata), Option.map_some]
    unfold judgeReturnCount
    dsimp only
    unfold outstanding
    split at h
    next haccepted =>
      obtain ⟨rfl, rfl⟩ := Prod.mk.inj h
      rw [if_pos haccepted]
      rfl
    next hrejected =>
      obtain ⟨rfl, rfl⟩ := Prod.mk.inj h
      rw [if_neg hrejected, ← causeSet_ringFault]
      rfl

/-! ### An entry dropped (R87, R89) -/

/-- An entry in state DROPPED. -/
def dropEntry (e : Entry) : Entry := { e with state := .dropped }

theorem dropState_eq (k : Nat) (s : State) :
    dropState k s =
      { s with
        table := { s.table with entries := changedAt k dropEntry s.table.entries }
        list := (dropState k s).list } := by
  rw [dropState, settleList_eq]
  rfl

theorem countDrop_eq (s : State) :
    countDrop s =
      { s with
        table := { s.table with droppedBefore := satInc s.table.droppedBefore }
        attention := { s.attention with causes := s.attention.causes ||| 2 }
        counters := { s.counters with droppedRepeats := satInc s.counters.droppedRepeats } } := by
  rw [← DecisionProofs.causeSet_repeatDropped]
  rfl

/-- What is left before the tests when an entry is dropped for want of a descriptor (R118). -/
def undescribed (k : Nat) (s : State) : State := countDrop (dropState k (setOpening none s))

theorem undescribed_eq (k : Nat) (s : State) :
    undescribed k s =
      { s with
        table :=
          { s.table with
            entries := changedAt k dropEntry s.table.entries
            droppedBefore := satInc s.table.droppedBefore }
        list := (undescribed k s).list
        ringUnit := { s.ringUnit with opening := none }
        attention := { s.attention with causes := s.attention.causes ||| 2 }
        counters := { s.counters with droppedRepeats := satInc s.counters.droppedRepeats } } := by
  rw [undescribed, countDrop_eq, dropState_eq]
  rfl

theorem dropState_filter {q : Job → Bool}
    (h : ∀ f rest, s.list.jobs.filter q = .fill f :: rest →
      resolveFill (changedAt k dropEntry s.table.entries) f ≠ .discarded) :
    (dropState k s).list.jobs.filter q = s.list.jobs.filter q :=
  filter_settleList (s := updateEntry k dropEntry s) h

theorem undescribed_list (k : Nat) (s : State) : (undescribed k s).list = (dropState k (setOpening none s)).list := by
  rw [undescribed, countDrop_eq]

theorem undescribed_others (k : Nat) (s : State) : otherJobs (undescribed k s) = otherJobs s := by
  rw [otherJobs, undescribed_list]
  change otherJobs (dropState k (setOpening none s)) = _
  rw [dropState, CommandProofs.otherJobs_settleList]
  rfl

/-- A dropped entry whose rows have all retired is the one freed (R96). -/
theorem closeTests_frees_alone (h : AloneComplete m k s) (he : findEntry s k = some e)
    (hd : d.table.entries = changedAt k dropEntry s.table.entries) (hlive : d.maps.live = some m) :
    closeTests d = reportEmpty (freed k d) := by
  have hkey : (dropEntry e).key = k := (findEntry_key he :)
  have hfound : findEntry d k = some (dropEntry e) := findEntry_changedAt (fun _ => rfl) he hd
  have hothers := others_alone h (f := dropEntry) (fun _ => rfl) hd
  have hr : allRetired m (dropEntry e) = true := (allRetired_alone h he :)
  rw [← hkey] at hfound hothers ⊢
  exact closeTests_frees hlive hothers hfound hr rfl

end

/-- Settles O41: the return count is judged, then a descriptor is taken or the repeat is dropped. -/
theorem returnCountIsJudged : Obligations.ReturnCountIsJudged := by
  intro s c xs ys r k m ret causes tag hawake hreads hunit htag hbefore hreserved hlen hm hopening hnext hjudge
  have hexec := CommandProofs.exec_completion hawake hreads htag hbefore hreserved
  obtain ⟨u, hu⟩ : ∃ u : State, u = { s with reads := xs ++ ys } := ⟨_, rfl⟩
  have hjudged := judgeReturnCount_eq (s := u) (c := c) (r := r) (ret := ret) (causes := causes) hlen (by rw [hu]; exact hjudge)
  have hdone : deliver r.unit (deliveredData r c) u =
      returnCountDone m k ((deliveredData r c).map fun bs => BitVec.ofNat 32 (leNat bs)) u := by
    have ho : u.ringUnit.opening = some { key := k, phase := .returnCount } := by rw [hu]; exact hopening
    have hl : u.maps.live = some m := by rw [hu]; exact hm
    rw [hunit, deliver, ringReadDone]
    simp only [ho, hl]
  rw [← hu, hdone, returnCountDone, hjudged] at hexec
  obtain ⟨j, hj⟩ : ∃ j : State, j = judged ret causes
    (if c.ok = false ∨ c.data.length ≠ 4 then satInc u.counters.busFaults else u.counters.busFaults) u := ⟨_, rfl⟩
  rw [← hj] at hexec
  have hout : (outstanding j.ringUnit).toNat = (s.ringUnit.taken - ret).toNat := by rw [hj, hu]; rfl
  by_cases hfew : (s.ringUnit.taken - ret).toNat < m.B
  case pos =>
    have hfree : ¬m.B ≤ (s.ringUnit.taken - ret).toNat := Nat.not_le.2 hfew
    rw [hout, if_pos hfew, takeDescriptor] at hexec
    rw [requestRead_of_nextTag (tag := tag) (by rw [hj, hu]; exact hnext)] at hexec
    refine ⟨_, hexec, fun _ => by rw [hj]; rfl, by rw [hj, hu]; rfl, fun _ => ⟨?_, ?_, ?_, ?_, ?_⟩, fun h => absurd h hfree,
      fun h => absurd h hfree⟩
    all_goals rw [hj, hu]; rfl
  case neg =>
    rw [hout, if_neg hfew] at hexec
    obtain ⟨d, hd⟩ : ∃ d : State, d = undescribed k j := ⟨_, rfl⟩
    rw [show dropNoDescriptor k j = closeTests d by rw [hd]; rfl] at hexec
    have hdeq := (hd.trans (undescribed_eq k j))
    have hlistJ : j.list = s.list := by rw [hj, hu]; rfl
    have htableJ : j.table = s.table := by rw [hj, hu]; rfl
    have hentries : d.table.entries = changedAt k dropEntry s.table.entries := by rw [hdeq, hj, hu]; rfl
    have hunitD : d.ringUnit = { s.ringUnit with returned := ret, opening := none } := by rw [hdeq, hj, hu]; rfl
    have hattention : d.attention = { s.attention with causes := causes ||| 2 } := by rw [hdeq, hj, hu]; rfl
    have hreadsD : d.reads = xs ++ ys := by rw [hdeq, hj, hu]; rfl
    have hacq : d.acq = s.acq := by rw [hdeq, hj, hu]; rfl
    have hmaps : d.maps = s.maps := by rw [hdeq, hj, hu]; rfl
    have hlive : d.maps.live = some m := by rw [hmaps, hm]
    have hbefore' : d.table.droppedBefore = satInc s.table.droppedBefore := by rw [hdeq, hj, hu]; rfl
    have hdropped : d.counters.droppedRepeats = satInc s.counters.droppedRepeats := by rw [hdeq, hj, hu]; rfl
    have hfaults : d.counters.busFaults =
        if c.ok = false ∨ c.data.length ≠ 4 then satInc s.counters.busFaults else s.counters.busFaults := by
      rw [hdeq, hj, hu]
      rfl
    have hothersD : otherJobs d = otherJobs s := by
      rw [hd, undescribed_others, hj, hu]
      rfl
    have hagrees : MapsAgree s → (closeTests d).ringUnit = { s.ringUnit with returned := ret, opening := none } := fun hs => by
      rw [closeTests_ringUnit (mapsAgree_of_same hs hacq hmaps), hunitD]
    have hunitT := closeTests_unit d
    refine ⟨_, hexec, fun hs => by rw [hagrees hs], by rw [hunitT.counters, hfaults], fun h => absurd h hfew,
      fun _ hnone => ?_, fun _ halone hsome => ?_⟩
    · have hsame : closeTests d = d :=
        closeTests_of_noneComplete hlive (noneComplete_changedAt (f := dropEntry) (fun _ => rfl) hnone hentries)
      rw [hsame]
      exact ⟨hunitD, hreadsD, hentries, hbefore', by rw [hattention], hdropped⟩
    · obtain ⟨e, he⟩ := Option.isSome_iff_exists.1 hsome
      have hfrees := closeTests_frees_alone halone he hentries hlive
      have hkept := reportEmpty_kept (freed k d)
      obtain ⟨hgone, hothers, hleft⟩ := freed_jobs (s := d) (key := k)
      refine ⟨hunitT.opening.trans (by rw [hunitD]), hunitT.reads.trans hreadsD, hagrees, ?_, ?_,
        by rw [hunitT.counters, hdropped], ?_, ?_, fun left hl hsettled => ?_⟩
      · rw [hfrees]
        refine reportEmpty_reported ?_ (by rw [freed_eq]; exact hacq) (by rw [freed_eq]; exact hattention)
        rw [freed_eq]
        dsimp only
        rw [hentries, filter_changedAt (f := dropEntry) fun _ => rfl]
        rfl
      · rw [hfrees, hkept.table, freed_eq]
        exact hbefore'
      · rw [hfrees, otherJobs, hkept.list]
        exact hothers.trans hothersD
      · rw [hfrees, hkept.list]
        exact hgone
      · have hsettledLeft := left_settled hl hsettled (f := dropEntry) (fun _ => rfl) hentries
        have hlist : d.list.jobs.filter (fun j => !isFillOf k j) = left := by
          rw [hd, undescribed_list]
          refine (dropState_filter (s := setOpening none j) ?_).trans ?_
          · change ∀ f rest, j.list.jobs.filter (fun j => !isFillOf k j) = .fill f :: rest →
              resolveFill (changedAt k dropEntry j.table.entries) f ≠ .discarded
            rw [hlistJ, htableJ, ← hentries, ← hl]
            exact hsettledLeft
          · change j.list.jobs.filter (fun j => !isFillOf k j) = left
            rw [hlistJ, hl]
        rw [hfrees, hkept.list, hleft fun f rest hf => hsettledLeft f rest (hlist ▸ hf), hlist]

end Sys2Proof.EndProofs
end

section
/-! SUPPORT and PROOFS. The descriptor of an opening operation (R87, R119, R120): O42. -/

namespace Sys2Proof.EndProofs

open Sys2Proof Sys2Proof.Machine Sys2Proof.AcquisitionProofs Sys2Proof.RunProofs Sys2Proof.PathProofs Sys2Proof.GrantProofs
  Sys2Proof.WorkProofs Sys2Proof.PieceProofs

section
variable {m : SteeringMap} {s t d : State} {k : Nat} {e : Entry} {b : Buffer}

/-! ### A valid descriptor (R119) -/

/-- An entry OPEN with its buffer. -/
def openedWith (b : Buffer) (e : Entry) : Entry := { e with state := .opened, buffer := some b }

/-- What is left before the tests when a descriptor opens its entry. -/
def described (k : Nat) (b : Buffer) (s : State) : State := settleList (updateEntry k (openedWith b) (setOpening none s))

theorem described_eq (k : Nat) (b : Buffer) (s : State) :
    described k b s =
      { s with
        table := { s.table with entries := changedAt k (openedWith b) s.table.entries }
        list := (described k b s).list
        ringUnit := { s.ringUnit with opening := none } } := by
  rw [described, settleList_eq]
  rfl

theorem described_others (k : Nat) (b : Buffer) (s : State) : otherJobs (described k b s) = otherJobs s := by
  rw [described, CommandProofs.otherJobs_settleList]
  rfl

/-- A settled list stays as it is when its head's row lies in the descriptor's buffer (R107). -/
theorem described_list (hs : ListSettled s) (he : findEntry s k = some e)
    (hhead : ∀ f js, s.list.jobs = .fill f :: js → f.target = .entry k → f.row < b.capacity) :
    (described k b s).list = s.list ∧ ListSettled (described k b s) := by
  have hentries : (updateEntry k (openedWith b) (setOpening none s)).table.entries =
    changedAt k (openedWith b) s.table.entries := rfl
  have hsettled : ListSettled (updateEntry k (openedWith b) (setOpening none s)) := by
    intro hp f js hjobs
    rw [hentries]
    by_cases htarget : f.target = .entry k
    · have hfind : (changedAt k (openedWith b) s.table.entries).find? (fun y => decide (y.key = k)) = some (openedWith b e) :=
        findEntry_updateEntry (fun _ => rfl) he
      simp [resolveFill, htarget, hfind, openedWith, resolveIn, hhead f js hjobs htarget]
    · rw [resolveFill_changedAt (f := openedWith b) (fun _ => rfl) _ htarget]
      exact hs hp f js hjobs
  rw [described, settleList_of_settled hsettled]
  exact ⟨rfl, hsettled⟩

/-- What a valid descriptor brings about. -/
theorem openEntry_leaves (hm : s.maps.live = some m) (he : findEntry s k = some e) :
    (openEntry k b s).ringUnit.opening = none ∧ (openEntry k b s).reads = s.reads ∧
      (NoneComplete m s →
        (openEntry k b s).ringUnit = { s.ringUnit with opening := none } ∧
          (openEntry k b s).table = { s.table with entries := changedAt k (openedWith b) s.table.entries } ∧
          otherJobs (openEntry k b s) = otherJobs s ∧ (openEntry k b s).attention = s.attention ∧
          (openEntry k b s).counters = s.counters) ∧
      (AloneComplete m k s → ∀ rec, rec = recordFor m { e with buffer := some b } .clean s.table.droppedBefore →
        TableReported (otherEntries s k) s.attention.causes s (openEntry k b s) ∧
          (openEntry k b s).table.droppedBefore = 0 ∧ (openEntry k b s).counters = s.counters ∧
          otherJobs (openEntry k b s) = otherJobs s ++ [.record rec] ∧
          (ListSettled s →
            (∀ f js, s.list.jobs = .fill f :: js → f.target = .entry k → f.row < b.capacity) →
            (openEntry k b s).list = { s.list with jobs := s.list.jobs.map (boundTo k b) ++ [.record rec] })) := by
  have hopen : openEntry k b s = closeTests (described k b s) := rfl
  have heq := described_eq k b s
  have hothersD := described_others k b s
  have hlistD := fun hs => described_list (b := b) (s := s) hs he
  rw [hopen]
  generalize described k b s = d at *
  have hentries : d.table.entries = changedAt k (openedWith b) s.table.entries := by rw [heq]
  have hlive : d.maps.live = some m := by rw [heq]; exact hm
  have hunit := closeTests_unit d
  refine ⟨hunit.opening.trans (by rw [heq]), hunit.reads.trans (by rw [heq]), fun hnone => ?_, fun halone rec hrec => ?_⟩
  · have hsame : closeTests d = d :=
      closeTests_of_noneComplete hlive (noneComplete_changedAt (f := openedWith b) (fun _ => rfl) hnone hentries)
    rw [hsame]
    exact ⟨by rw [heq], by rw [heq], hothersD, by rw [heq], by rw [heq]⟩
  · have hkey : (openedWith b e).key = k := (findEntry_key he :)
    have hfound : findEntry d k = some (openedWith b e) := findEntry_changedAt (fun _ => rfl) he hentries
    have hothers := others_alone halone (f := openedWith b) (fun _ => rfl) hentries
    have hr : allRetired m (openedWith b e) = true := (allRetired_alone halone he :)
    have hcloses : closeTests d = reportEmpty (closed (openedWith b e) b d) :=
      closeTests_closes hlive (by rw [hkey]; exact hothers) (by rw [hkey]; exact hfound) hr rfl rfl
    have hkept := reportEmpty_kept (closed (openedWith b e) b d)
    have hrecord : recordFor m (openedWith b e) .clean d.table.droppedBefore = rec := by
      rw [hrec, heq]
      rfl
    refine ⟨?_, ?_, hunit.counters.trans (by rw [heq]), ?_, fun hs hhead => ?_⟩
    · rw [hcloses]
      refine reportEmpty_reported ?_ (by rw [closed_eq, heq]) (by rw [closed_eq, heq])
      rw [closed_eq]
      dsimp only
      rw [hkey, hentries, filter_changedAt (f := openedWith b) fun _ => rfl]
      rfl
    · rw [hcloses, hkept.table, closed_eq]
    · rw [hcloses, otherJobs, hkept.list]
      exact (closed_others hlive).trans (by rw [hothersD, hrecord])
    · obtain ⟨hlist, hsettled⟩ := hlistD hs hhead
      rw [hcloses, hkept.list, closed_list hlive hsettled (by rw [hkey]; exact hfound) rfl rfl, hrecord, hkey, hlist]

/-! ### A failed read or an invalid descriptor (R120) -/

/-- What is left before the tests when an entry is dropped with its record. -/
def faulted (k : Nat) (s : State) : State := countDrop (faultDropped k s)

theorem faultDropped_some (he : findEntry s k = some e) :
    faultDropped k s = queueRecord (dropEntry e) .descriptorFault (dropState k (setOpening none s)) := by
  have hfound : findEntry (dropState k (setOpening none s)) k = some (dropEntry e) :=
    findEntry_changedAt (fun _ => rfl) he (by rw [dropState_eq]; rfl)
  rw [faultDropped, hfound]

theorem faulted_eq (he : findEntry s k = some e) :
    faulted k s =
      { s with
        table := { s.table with entries := changedAt k dropEntry s.table.entries, droppedBefore := 1 }
        list := (faulted k s).list
        ringUnit := { s.ringUnit with opening := none }
        attention := { s.attention with causes := s.attention.causes ||| 2 }
        counters := { s.counters with droppedRepeats := satInc s.counters.droppedRepeats } } := by
  have hone : satInc (0 : BitVec 16) = 1 := by decide
  rw [faulted, faultDropped_some he, countDrop_eq, queueRecord_eq, dropState_eq, ← hone]
  rfl

/-- The DESCRIPTOR_FAULT record joins the list behind what the drop leaves of it (R95, R104). -/
theorem faulted_list (hm : s.maps.live = some m) (he : findEntry s k = some e) :
    (faulted k s).list =
      (enqueue (.record (recordFor m e .descriptorFault s.table.droppedBefore))
        { dropState k (setOpening none s) with table := { (dropState k (setOpening none s)).table with droppedBefore := 0 } }).list := by
  have hrecord : recordOf (dropEntry e) .descriptorFault (dropState k (setOpening none s)) =
      recordFor m e .descriptorFault s.table.droppedBefore := by
    rw [CommandProofs.recordOf_eq (m := m) (by rw [dropState_eq]; exact hm), dropState_eq]
    rfl
  rw [faulted, faultDropped_some he, countDrop_eq, ← hrecord]
  rfl

theorem faulted_others (hm : s.maps.live = some m) (he : findEntry s k = some e) :
    otherJobs (faulted k s) = otherJobs s ++ [.record (recordFor m e .descriptorFault s.table.droppedBefore)] := by
  rw [otherJobs, faulted_list hm he]
  refine (CommandProofs.otherJobs_enqueue rfl _).trans (congrArg (· ++ _) ?_)
  change otherJobs (dropState k (setOpening none s)) = _
  rw [dropState, CommandProofs.otherJobs_settleList]
  rfl

theorem fill_before_record {left rest : List Job} {r : RecordJob} {f : FillJob} (h : left ++ [.record r] = .fill f :: rest) :
    ∃ js, left = .fill f :: js := by
  cases left with
  | nil => cases h
  | cons j js =>
    obtain ⟨rfl, -⟩ := List.cons.inj h
    exact ⟨js, rfl⟩

/-- What the drop leaves of the list but for the entry's FILL jobs, and the record behind it. -/
theorem faulted_filter (hm : s.maps.live = some m) (he : findEntry s k = some e) {left : List Job}
    (hleft : left = s.list.jobs.filter fun j => !isFillOf k j)
    (h : ∀ f rest, left = .fill f :: rest → resolveFill (changedAt k dropEntry s.table.entries) f ≠ .discarded) :
    (faulted k s).list.jobs.filter (fun j => !isFillOf k j) =
      left ++ [.record (recordFor m e .descriptorFault s.table.droppedBefore)] := by
  have hdropped : (dropState k (setOpening none s)).list.jobs.filter (fun j => !isFillOf k j) = left := by
    refine (dropState_filter (s := setOpening none s) ?_).trans hleft.symm
    change ∀ f rest, s.list.jobs.filter (fun j => !isFillOf k j) = .fill f :: rest → _
    rw [← hleft]
    exact h
  have hjoined (r : RecordJob) :
      ((dropState k (setOpening none s)).list.jobs ++ [Job.record r]).filter (fun j => !isFillOf k j) = left ++ [Job.record r] := by
    rw [List.filter_append, hdropped]
    rfl
  rw [faulted_list hm he, enqueue]
  refine (filter_settleList ?_).trans (hjoined _)
  intro f rest hfilter
  rw [hjoined] at hfilter
  have hentries : (dropState k (setOpening none s)).table.entries = changedAt k dropEntry s.table.entries := by
    rw [dropState_eq]
    rfl
  change resolveFill (dropState k (setOpening none s)).table.entries f ≠ .discarded
  rw [hentries]
  obtain ⟨js, hl⟩ := fill_before_record hfilter
  exact h f js hl

/-- What a failed read or an invalid descriptor brings about, the failure of the read counted before. -/
theorem dropDescriptorFault_leaves (hm : s.maps.live = some m) (he : findEntry s k = some e) {causes : BitVec 13}
    {counters : Counters} (hcauses : causes = s.attention.causes ||| 2)
    (hcounters : counters = { s.counters with droppedRepeats := satInc s.counters.droppedRepeats }) {rec : RecordJob}
    (hrec : rec = recordFor m e .descriptorFault s.table.droppedBefore) :
    (dropDescriptorFault k s).ringUnit.opening = none ∧ (dropDescriptorFault k s).reads = s.reads ∧
      (NoneComplete m s →
        (dropDescriptorFault k s).ringUnit = { s.ringUnit with opening := none } ∧
          (dropDescriptorFault k s).table =
            { s.table with entries := changedAt k dropEntry s.table.entries, droppedBefore := 1 } ∧
          otherJobs (dropDescriptorFault k s) = otherJobs s ++ [.record rec] ∧
          (dropDescriptorFault k s).attention = { s.attention with causes := causes } ∧
          (dropDescriptorFault k s).counters = counters) ∧
      (AloneComplete m k s →
        TableReported (otherEntries s k) causes s (dropDescriptorFault k s) ∧
          (dropDescriptorFault k s).table.droppedBefore = 1 ∧ (dropDescriptorFault k s).counters = counters ∧
          otherJobs (dropDescriptorFault k s) = otherJobs s ++ [.record rec] ∧
          (∀ j ∈ (dropDescriptorFault k s).list.jobs, isFillOf k j = false) ∧
          ∀ left, left = s.list.jobs.filter (fun j => !isFillOf k j) →
            ListSettled { s with list := { jobs := left, progress := 0 } } →
            (dropDescriptorFault k s).list.jobs = left ++ [.record rec]) := by
  have heq := faulted_eq he
  have hothersD := faulted_others hm he
  have hfilter := fun left hleft h => faulted_filter hm he (left := left) hleft h
  rw [← hrec] at hothersD hfilter
  rw [dropDescriptorFault_eq, show countDrop (faultDropped k s) = faulted k s from rfl]
  generalize faulted k s = d at *
  have hentries : d.table.entries = changedAt k dropEntry s.table.entries := by rw [heq]
  have hlive : d.maps.live = some m := by rw [heq]; exact hm
  have hunit := closeTests_unit d
  refine ⟨hunit.opening.trans (by rw [heq]), hunit.reads.trans (by rw [heq]), fun hnone => ?_, fun halone => ?_⟩
  · have hsame : closeTests d = d :=
      closeTests_of_noneComplete hlive (noneComplete_changedAt (f := dropEntry) (fun _ => rfl) hnone hentries)
    rw [hsame]
    exact ⟨by rw [heq], by rw [heq], hothersD, by rw [heq, hcauses], by rw [heq, hcounters]⟩
  · have hfrees := closeTests_frees_alone halone he hentries hlive
    have hkept := reportEmpty_kept (freed k d)
    obtain ⟨hgone, hothers, hjobs⟩ := freed_jobs (s := d) (key := k)
    refine ⟨?_, ?_, hunit.counters.trans (by rw [heq, hcounters]), ?_, ?_, fun left hl hsettled => ?_⟩
    · rw [hfrees]
      refine reportEmpty_reported ?_ (by rw [freed_eq, heq]) (by rw [freed_eq, heq, hcauses])
      rw [freed_eq]
      dsimp only
      rw [hentries, filter_changedAt (f := dropEntry) fun _ => rfl]
      rfl
    · rw [hfrees, hkept.table, freed_eq, heq]
    · rw [hfrees, otherJobs, hkept.list]
      exact hothers.trans hothersD
    · rw [hfrees, hkept.list]
      exact hgone
    · have hsettledLeft := left_settled hl hsettled (f := dropEntry) (fun _ => rfl) hentries
      have hlist := hfilter left hl (hentries ▸ hsettledLeft)
      rw [hfrees, hkept.list, hjobs ?_, hlist]
      intro f rest hf
      rw [hlist] at hf
      obtain ⟨js, hl'⟩ := fill_before_record hf
      exact hsettledLeft f js hl'

end

/-- A completion of a read that belongs to no operation is discarded, in any condition (R100, R154). -/
theorem exec_ringCompletion_discarded {s : State} {c : Completion} {xs ys : List BridgeRead} {r : BridgeRead}
    (hreads : s.reads = xs ++ r :: ys) (hunit : r.unit = .ring) (htag : stageTag r.stage = some c.tag)
    (hbefore : ∀ x ∈ xs, stageTag x.stage ≠ some c.tag) (hreserved : 240 ≤ c.tag.toNat)
    (hopening : s.ringUnit.opening = none) : exec (.readCompletion c) s = .next { s with reads := xs ++ ys } := by
  rcases Bool.eq_false_or_eq_true s.resetLine with hline | hline
  · obtain ⟨-, -, -, hdiscards⟩ := ResetProofs.drainAndResetLineHold
    exact hdiscards s c xs ys r hline hreads htag hbefore hreserved
  · have hsame (u : State) (ho : u.ringUnit.opening = none) : ringReadDone (deliveredData r c) u = u := by
      simp only [ringReadDone, ho]
    rw [CommandProofs.exec_completion hline hreads htag hbefore hreserved, hunit]
    exact congrArg Host.Outcome.next (hsame { s with reads := xs ++ ys } hopening)

/-- Settles O42: the descriptor opens the repeat or drops it with its record, and ends the operation. -/
theorem descriptorEndsTheOpening : Obligations.DescriptorEndsTheOpening := by
  refine ⟨?_, fun s c xs ys r hreads hunit htag hbefore hreserved hopening =>
    exec_ringCompletion_discarded hreads hunit htag hbefore hreserved hopening⟩
  intro s c xs ys r k m e b failed causes counters hawake hreads hunit htag hbefore hreserved hlen hm hopening he hbuffer hb
    hfailed hcauses hcounters
  have hexec := CommandProofs.exec_completion hawake hreads htag hbefore hreserved
  obtain ⟨u, hu⟩ : ∃ u : State, u = { s with reads := xs ++ ys } := ⟨_, rfl⟩
  have hliveU : u.maps.live = some m := by rw [hu]; exact hm
  have heU : findEntry u k = some e := by rw [hu]; exact he
  have hdone : deliver r.unit (deliveredData r c) u = descriptorDone m k (deliveredData r c) u := by
    have ho : u.ringUnit.opening = some { key := k, phase := .descriptor } := by rw [hu]; exact hopening
    rw [hunit, deliver, ringReadDone]
    simp only [ho, hliveU]
  rw [← hu, hdone] at hexec
  by_cases hopens : failed = false ∧ descriptorValid b (imageWidth m.Lp e.placement * m.P) = true
  case pos =>
    obtain ⟨hread, hvalid⟩ := hopens
    have hok : c.ok = true ∧ c.data.length = 64 := by
      rw [hread, eq_comm, Bool.or_eq_false_iff] at hfailed
      exact ⟨by simpa using hfailed.1, by simpa using hfailed.2⟩
    have hopened : descriptorDone m k (deliveredData r c) u = openEntry k b u := by
      rw [CommandProofs.deliveredData_ok hok.1 (by rw [hlen]; exact hok.2), hb]
      rw [hb] at hvalid
      simp only [descriptorDone, heU]
      exact if_pos hvalid
    have hnot (h : failed = true ∨ descriptorValid b (imageWidth m.Lp e.placement * m.P) = false) : False := by
      rw [hread, hvalid] at h
      exact h.elim Bool.false_ne_true (fun h => Bool.false_ne_true h.symm)
    obtain ⟨hnoOpening, hreadsT, hnone, halone⟩ := openEntry_leaves (b := b) hliveU heU
    rw [hopened] at hexec
    rw [hu] at hexec hreadsT hnone halone hnoOpening
    exact ⟨_, hexec, hnoOpening, hreadsT,
      fun h => ⟨(hnone h).1, fun _ _ => (hnone h).2, fun h' => absurd h' hnot⟩,
      fun h => ⟨fun _ _ => halone h, fun h' => absurd h' hnot⟩⟩
  case neg =>
    have hinvalid : failed = true ∨ descriptorValid b (imageWidth m.Lp e.placement * m.P) = false := by
      cases hf : failed with
      | true => exact .inl rfl
      | false => exact .inr (by simpa [hf] using hopens)
    have hnot (h : failed = false) (hvalid : descriptorValid b (imageWidth m.Lp e.placement * m.P) = true) : False :=
      hopens ⟨h, hvalid⟩
    obtain ⟨w, hw, hfaults⟩ : ∃ w : State,
        w = { u with
          attention :=
            { u.attention with causes := if failed then u.attention.causes ||| 256 else u.attention.causes }
          counters :=
            { u.counters with busFaults := if failed then satInc u.counters.busFaults else u.counters.busFaults } } ∧
        descriptorDone m k (deliveredData r c) u = dropDescriptorFault k w := by
      refine ⟨_, rfl, ?_⟩
      cases hf : failed with
      | true =>
        have hbad : c.ok = false ∨ c.data.length ≠ 64 := by
          rw [hf, eq_comm, Bool.or_eq_true] at hfailed
          exact hfailed.imp (by simp) of_decide_eq_true
        rw [CommandProofs.deliveredData_failed (by rw [hlen]; exact hbad), if_pos rfl, if_pos rfl,
          ← CommandProofs.causeSet_busFault]
        rfl
      | false =>
        have hok : c.ok = true ∧ c.data.length = 64 := by
          rw [hf, eq_comm, Bool.or_eq_false_iff] at hfailed
          exact ⟨by simpa using hfailed.1, by simpa using hfailed.2⟩
        have hvalid := hnot hf
        rw [CommandProofs.deliveredData_ok hok.1 (by rw [hlen]; exact hok.2)]
        rw [hb] at hvalid
        simp only [descriptorDone, heU]
        exact if_neg hvalid
    obtain ⟨hnoOpening, hreadsT, hnone, halone⟩ := dropDescriptorFault_leaves (s := w) (causes := causes) (counters := counters)
      (rec := recordFor m e .descriptorFault s.table.droppedBefore) (by rw [hw]; exact hliveU) (by rw [hw]; exact heU)
      (by rw [hcauses, hw, hu]) (by rw [hcounters, hw, hu]) (by rw [hw, hu])
    rw [hfaults] at hexec
    rw [hw, hu] at hexec hreadsT hnone halone hnoOpening
    exact ⟨_, hexec, hnoOpening, hreadsT,
      fun h => ⟨(hnone h).1, fun h' hv => (hnot h' hv).elim, fun _ => (hnone h).2⟩,
      fun h => ⟨fun h' hv => (hnot h' hv).elim, fun _ rec hrec => hrec ▸ halone h⟩⟩

end Sys2Proof.EndProofs
end
